-- ==== Sys2Proof/Word.lean ====
section
/-!
DEFINITION. Word.lean: the word types and the small enumerations that instruction fields name (R9, R69, R88, R133, R138, R153),
and the names of the machine's units (R1, R2, R47).
-/
namespace Sys2Proof

abbrev Byte := BitVec 8
/-- A register or doubleword. -/
abbrev W64 := BitVec 64
/-- A register field with its high pair (R133): 0-23 w, 24-31 h; e0-e15 on a Reed core. -/
abbrev Reg := BitVec 5
/-- A Gleaner register j0-j15 (R247). -/
abbrev JReg := BitVec 4

/-- Widths .b .h .w .d, coded 0-3 (R153). -/
inductive Width where | b | h | w | d
  deriving DecidableEq, Repr

/-- Element formats, coded 0-7 (R153). -/
inductive EFmt where | f32 | f16 | bf16 | fe4 | fe5 | q4x | i8 | i32
  deriving DecidableEq, Repr

/-- Float formats of a Tm keyed update, coded 0-2 (R147). -/
inductive FFmt where | bf16 | f16 | f32
  deriving DecidableEq, Repr

/-- Rounding codes 0-4 (R69). -/
inductive Rnd where | rne | rtz | rup | rdn | sat
  deriving DecidableEq, Repr

/-- Scopes, coded 0-5 (R8, R138). -/
inductive Scope where | thread | core | clu | die | dev | sys
  deriving DecidableEq, Repr

/-- The ORD field, coded 0-3 (R138). -/
inductive OrdKind where | none | acq | rel | ar
  deriving DecidableEq, Repr

/-- An order suffix with its scope and `.cum` (R138, R176). -/
structure Ord where
  ord : OrdKind
  sc  : Scope
  cum : Bool
  deriving DecidableEq, Repr

/-- Keyed-update operators, coded 0-12 (R88). -/
inductive KOp where
  | replace | iadd | smin | smax | umin | umax | and | or | xor | fsum | fmin | fmax | fadd64
  deriving DecidableEq, Repr

/-- Special registers of MOVFS and MOVTS, coded 0-6 (R133, R173). -/
inductive SReg where | vl | lc0 | ls0 | le0 | lc1 | ls1 | le1
  deriving DecidableEq, Repr

/-- A pointer operand of the V form: the pointer, and whether it is post-incremented (R21, R133). -/
structure PtrOp where
  p   : BitVec 3
  inc : Bool
  deriving DecidableEq, Repr

/-- The operand fields of a Sluice micro-op (R273): FMT, A, B, N, IMM. -/
structure SluF where
  fmt : BitVec 2
  a   : BitVec 1
  b   : BitVec 1
  n   : BitVec 2
  imm : BitVec 6
  deriving DecidableEq, Repr

/-- A thread slot: die, cluster, context (0 A, 1 B), core, slot (R1, R2, R47). -/
structure SlotId where
  die  : Nat
  clu  : Nat
  ctx  : Nat
  core : Nat
  slot : Nat
  deriving DecidableEq, Repr

/-- A run of the Fen (R90). -/
inductive RunId where
  | sheaf (die clu core : Nat)
  | stook (die clu : Nat)
  | rick (die : Nat)
  deriving DecidableEq, Repr

/-- An arriving request of a peer device's ordered stream (R123, R125). -/
inductive PeerReq where
  | update (key : Nat) (op : KOp) (width : Width) (bf : Bool) (val : W64)
  | load (key : Nat) (width : Width)
  /-- REPLACE of the bytes of one word that BE names (R125, R256) -/
  | replace (key : Nat) (be : BitVec 8) (val : W64)
  | atom (key : Nat) (op : KOp) (width : Width) (bf : Bool) (val : W64)
  | fill (key : Nat) (val : W64)
  | take (key : Nat)
  | peek (key : Nat)
  | empty (key : Nat)
  /-- CHPUSH or CHPOP: the key, the base of its ring, the value, and who binds it (R125, R192) -/
  | chan (pop : Bool) (key ring : Nat) (val : W64) (launch gi tidx : Nat)
  /-- a Tilth record, with what a RESUME brings (R288, R297): the tile to start in and its PART, and the masks of done tiles -/
  | record (words : List W64) (resume : Option (Nat × Nat × List (Nat × Nat)))
  | ferryReed (key entry : Nat) (id : Nat) (retr : Bool) (src : Nat) (pay : List W64)
  | ferryClu (key entry : Nat) (id : Nat) (retr : Bool) (src : Nat) (pay : List W64)
  /-- RSEND, or IXRED with channel 14 -/
  | message (key chan : Nat) (src : Nat) (pay : List W64)
  | slctl (key : Nat) (abort : Bool)
  /-- the waiting request of this number is abandoned (R125, R183) -/
  | cancel (id : Nat)
  deriving DecidableEq, Repr

/-- The key of a full/empty or channel request. -/
def PeerReq.key : PeerReq → Option Nat | .fill k _ => some k | .take k => some k | .peek k => some k | .chan _ k .. => some k | _ => none

/-- Does the request park its thread while its word is in the wrong state (R125)? -/
def PeerReq.parks : PeerReq → Bool | .fill .. => true | .take .. => true | .peek .. => true | .chan .. => true | _ => false

end Sys2Proof
end

