-- ==== Sys2Proof/Machine/Bits.lean ====
section
/-!
DEFINITION. Bits.lean: bit fields, sign extension and byte order (R9, R132), the operations on words that every
other file uses.
-/
namespace Sys2Proof

/-- The low `n` bits of `x` from bit `lo` up, as a number (R22). -/
def fld (x : W64) (lo n : Nat) : Nat := (x.toNat >>> lo) % 2 ^ n

/-- Bits `lo` to `lo + n - 1` of the number `x`. -/
def nfld (x lo n : Nat) : Nat := (x >>> lo) % 2 ^ n

/-- Is bit `i` of the number `x` set? -/
def nbit (x i : Nat) : Bool := (x >>> i) % 2 == 1

/-- The number `v`, read as `n` bits, sign-extended to 64 bits (R132, R156 SignExtend). -/
def sext64 (n v : Nat) : W64 :=
  if n = 0 then 0#64
  else if v % 2 ^ n < 2 ^ (n - 1) then BitVec.ofNat 64 (v % 2 ^ n)
  else BitVec.ofInt 64 ((v % 2 ^ n : Nat) - (2 ^ n : Nat) : Int)

/-- `v` read as an `n`-bit two's-complement number. -/
def sint (n v : Nat) : Int :=
  if v % 2 ^ n < 2 ^ (n - 1) then ((v % 2 ^ n : Nat) : Int) else ((v % 2 ^ n : Nat) : Int) - ((2 ^ n : Nat) : Int)

/-- An integer modulo 2^n as a number (R88: integer results wrap). -/
def wrapN (n : Nat) (x : Int) : Nat := (x % ((2 ^ n : Nat) : Int)).toNat

def b2n (b : Bool) : Nat := if b then 1 else 0

/-- Width in bytes of a width code (R147). -/
def Width.bytes : Width → Nat | .b => 1 | .h => 2 | .w => 4 | .d => 8

def Width.code : Width → Nat | .b => 0 | .h => 1 | .w => 2 | .d => 3

def Width.ofCode (n : Nat) : Width := match n with | 0 => .b | 1 => .h | 2 => .w | _ => .d

/-- The little-endian number of a list of bytes (R9). -/
def leNat : List Byte → Nat
  | [] => 0
  | b :: bs => b.toNat + 256 * leNat bs

/-- `n` little-endian bytes of a number (R9). -/
def leBytes : Nat → Nat → List Byte
  | 0, _ => []
  | n + 1, v => BitVec.ofNat 8 v :: leBytes n (v / 256)

/-- The 64-bit words of a list of bytes, little-endian, eight at a time; a short tail is padded with zeros. -/
def leWords (n : Nat) (bs : List Byte) : List W64 :=
  (List.range n).map fun i => BitVec.ofNat 64 (leNat ((bs.drop (8 * i)).take 8))

/-- Little-endian doublewords as one number. -/
def wordsNat : List W64 → Nat
  | [] => 0
  | w :: r => w.toNat + 2 ^ 64 * wordsNat r

def wordsBytes (ws : List W64) : List Byte := ws.flatMap fun w => leBytes 8 w.toNat

/-- Association lists: the sparse tables of State. The first pair of a key counts. -/
def aget {κ α : Type} [DecidableEq κ] (d : α) (m : List (κ × α)) (k : κ) : α :=
  match m with
  | [] => d
  | (k', v) :: r => if k' = k then v else aget d r k

/-- The value of a key that is present. -/
def aget? {κ α : Type} [DecidableEq κ] (m : List (κ × α)) (k : κ) : Option α :=
  match m with
  | [] => none
  | (k', v) :: r => if k' = k then some v else aget? r k

/-- Set a key: in place when present, at the end otherwise. -/
def aset {κ α : Type} [DecidableEq κ] (m : List (κ × α)) (k : κ) (v : α) : List (κ × α) :=
  match m with
  | [] => [(k, v)]
  | (k', v') :: r => if k' = k then (k, v) :: r else (k', v') :: aset r k v

def adel {κ α : Type} [DecidableEq κ] (m : List (κ × α)) (k : κ) : List (κ × α) :=
  m.filter fun p => !(decide (p.1 = k))

/-- Replace the `i`-th element of a list. -/
def lset {α : Type} : List α → Nat → α → List α
  | [], _, _ => []
  | _ :: r, 0, v => v :: r
  | x :: r, n + 1, v => x :: lset r n v

/-- Insert into an ascending list of numbers without repeats. -/
def ninsert (n : Nat) : List Nat → List Nat
  | [] => [n]
  | x :: r => if n < x then n :: x :: r else if n = x then x :: r else x :: ninsert n r

end Sys2Proof
end

