-- ==== Sys2Proof/Syntax.lean ====
section
/-!
DEFINITION. Syntax.lean: one constructor per row of spec/opcode_table.json: first the rows with operand fields, then those
without, each in the order of the table. Fields hold what decoding has read: register numbers with their high pairs,
immediates already extended to 64 bits (R132), modifiers by name (R138). A row without an encoding is an event of the part:
what unit it concerns and how far it goes stands in the event arguments of State (EvArgs).
-/
namespace Sys2Proof

inductive Instr where
  /-- ADD (R157): Writes the 64-bit sum of two registers to the destination register. -/
  | add (rd rs rt : Reg)
  /-- SUB (R157): Writes the 64-bit difference of two registers to the destination register. -/
  | sub (rd rs rt : Reg)
  /-- MUL (R157): Writes the low 64 bits of the product of two registers. -/
  | mul (rd rs rt : Reg)
  /-- MULH (R157): Writes the high 64 bits of the signed 128-bit product of two registers. -/
  | mulh (rd rs rt : Reg)
  /-- MULHU (R157): Writes the high 64 bits of the unsigned 128-bit product of two registers. -/
  | mulhu (rd rs rt : Reg)
  /-- DIV (R157): Writes the signed quotient truncated toward zero; division by zero and overflow give fixed results. -/
  | div (rd rs rt : Reg)
  /-- DIVU (R157): Writes the unsigned quotient; division by zero gives all ones. -/
  | divu (rd rs rt : Reg)
  /-- REM (R157): Writes the signed remainder, with the sign of the dividend. -/
  | rem (rd rs rt : Reg)
  /-- REMU (R157): Writes the unsigned remainder; division by zero gives the dividend. -/
  | remu (rd rs rt : Reg)
  /-- AND (R157): Writes the bitwise AND of two registers. -/
  | and (rd rs rt : Reg)
  /-- OR (R157): Writes the bitwise OR of two registers. -/
  | or (rd rs rt : Reg)
  /-- XOR (R157): Writes the bitwise XOR of two registers. -/
  | xor (rd rs rt : Reg)
  /-- ANDN (R157): Writes a AND NOT b. -/
  | andn (rd rs rt : Reg)
  /-- SHL (R157): Shifts left by the low six bits of the second source. -/
  | shl (rd rs rt : Reg)
  /-- SHR (R157): Shifts right logically by the low six bits of the second source. -/
  | shr (rd rs rt : Reg)
  /-- SAR (R157): Shifts right arithmetically by the low six bits of the second source. -/
  | sar (rd rs rt : Reg)
  /-- ROR (R157): Rotates right by the low six bits of the second source. -/
  | ror (rd rs rt : Reg)
  /-- SLT (R157): Writes 1 if a < b signed, else 0. -/
  | slt (rd rs rt : Reg)
  /-- SLTU (R157): Writes 1 if a < b unsigned, else 0. -/
  | sltu (rd rs rt : Reg)
  /-- SEQ (R157): Writes 1 if a = b, else 0. -/
  | seq (rd rs rt : Reg)
  /-- SNE (R157): Writes 1 if a differs from b, else 0. -/
  | sne (rd rs rt : Reg)
  /-- MIN (R157): Writes the signed minimum of two registers. -/
  | min (rd rs rt : Reg)
  /-- MAX (R157): Writes the signed maximum of two registers. -/
  | max (rd rs rt : Reg)
  /-- MINU (R157): Writes the unsigned minimum of two registers. -/
  | minu (rd rs rt : Reg)
  /-- MAXU (R157): Writes the unsigned maximum of two registers. -/
  | maxu (rd rs rt : Reg)
  /-- CLZ (R158): Counts leading zero bits of a register. -/
  | clz (rd rs : Reg)
  /-- CTZ (R158): Counts trailing zero bits of a register. -/
  | ctz (rd rs : Reg)
  /-- POPC (R158): Counts the one bits of a register. -/
  | popc (rd rs : Reg)
  /-- BREV (R158): Reverses the bit order of a register. -/
  | brev (rd rs : Reg)
  /-- BFX (R159): Extracts a bit field and sign-extends it. -/
  | bfx (rd rs rt : Reg)
  /-- BFXU (R159): Extracts a bit field and zero-extends it. -/
  | bfxu (rd rs rt : Reg)
  /-- BFI (R159): Inserts a bit field of a source into the destination register. -/
  | bfi (rd rs rt : Reg)
  /-- ADDI (R160): Adds a signed immediate to a register. -/
  | addi (rd rs : Reg) (imm : W64)
  /-- ANDI (R160): ANDs a register with a signed immediate. -/
  | andi (rd rs : Reg) (imm : W64)
  /-- ORI (R160): ORs a register with a signed immediate. -/
  | ori (rd rs : Reg) (imm : W64)
  /-- XORI (R160): XORs a register with a signed immediate. -/
  | xori (rd rs : Reg) (imm : W64)
  /-- SHLI (R160): Shifts left by an immediate of 0 to 63. -/
  | shli (rd rs : Reg) (imm : W64)
  /-- SHRI (R160): Shifts right logically by an immediate of 0 to 63. -/
  | shri (rd rs : Reg) (imm : W64)
  /-- SARI (R160): Shifts right arithmetically by an immediate of 0 to 63. -/
  | sari (rd rs : Reg) (imm : W64)
  /-- SLTI (R160): Writes 1 if a is less than a signed immediate. -/
  | slti (rd rs : Reg) (imm : W64)
  /-- SLTIU (R160): Writes 1 if a is less than the immediate read as unsigned. -/
  | sltiu (rd rs : Reg) (imm : W64)
  /-- LI (R161): Loads a sign-extended immediate into a register. -/
  | li (rd : Reg) (imm : W64)
  /-- LIH (R161): Writes the high 32 bits of a register from an immediate, keeping the low 32. -/
  | lih (rd : Reg) (imm : W64)
  /-- BEQ (R162): Branches when two registers are equal. -/
  | beq (rs rt : Reg) (off : W64)
  /-- BNE (R162): Branches when two registers differ. -/
  | bne (rs rt : Reg) (off : W64)
  /-- BLT (R162): Branches when the first register is less, signed. -/
  | blt (rs rt : Reg) (off : W64)
  /-- BGE (R162): Branches when the first register is greater or equal, signed. -/
  | bge (rs rt : Reg) (off : W64)
  /-- BLTU (R162): Branches when the first register is less, unsigned. -/
  | bltu (rs rt : Reg) (off : W64)
  /-- BGEU (R162): Branches when the first register is greater or equal, unsigned. -/
  | bgeu (rs rt : Reg) (off : W64)
  /-- LOOP (R165): Sets up hardware loop level N with count, start and end, or skips the body for a count of zero. -/
  | loop (lvl : BitVec 1) (rc : Reg) (off : W64)
  /-- JMP (R163): Jumps to a PC-relative target. -/
  | jmp (off : W64)
  /-- CALL (R164): Moves the window forward, writes the return address into the callee's w8 and jumps. -/
  | call (off : W64)
  /-- JR (R163): Jumps to the address in a register. -/
  | jr (rs : Reg)
  /-- CALLR (R164): Calls the address held in a register, moving the window. -/
  | callr (rs : Reg)
  /-- SVC (R168): Transfers the thread to the supervisor service entry with a service code. -/
  | svc (code : BitVec 5)
  /-- SETVL (R169): Sets vl from a register in 1 to 4,096, or traps. -/
  | setvl (rs : Reg)
  /-- LAUNCH (R170): Submits an RCB as a device-side launch after a release, and returns 0 or the REASON. -/
  | launch (rd rs : Reg)
  /-- RDSTAT (R172): Reads the status word into a register. -/
  | rdstat (rd : Reg)
  /-- WRSTAT (R172): Writes stat bits [8:0] from a register. -/
  | wrstat (rs : Reg)
  /-- MOVFS (R173): Reads a special register (vl or a loop register) into a register. -/
  | movfs (rd : Reg) (sr : SReg)
  /-- MOVTS (R173): Writes a loop special register from a register. -/
  | movts (sr : SReg) (rs : Reg)
  /-- LD (R177): Loads 1 to 8 bytes, zero-extended, from the Fen fold or scratchpad, with an optional acquire. -/
  | ld (wd : Width) (sp nb : Bool) (o : Ord) (rd rs : Reg) (off : W64)
  /-- LD_S (R177): Loads 1 to 4 bytes sign-extended. -/
  | ldS (wd : Width) (sp nb : Bool) (o : Ord) (rd rs : Reg) (off : W64)
  /-- ST (R179): Forms a REPLACE keyed update, or writes scratchpad in place. -/
  | st (wd : Width) (sp : Bool) (o : Ord) (rd rs : Reg) (off : W64)
  /-- IADD (R179): Forms an integer-add keyed update. -/
  | iadd (wd : Width) (o : Ord) (rd rs : Reg) (off : W64)
  /-- SMIN (R179): Forms a signed-minimum keyed update. -/
  | smin (wd : Width) (o : Ord) (rd rs : Reg) (off : W64)
  /-- SMAX (R179): Forms a signed-maximum keyed update. -/
  | smax (wd : Width) (o : Ord) (rd rs : Reg) (off : W64)
  /-- UMIN (R179): Forms an unsigned-minimum keyed update. -/
  | umin (wd : Width) (o : Ord) (rd rs : Reg) (off : W64)
  /-- UMAX (R179): Forms an unsigned-maximum keyed update. -/
  | umax (wd : Width) (o : Ord) (rd rs : Reg) (off : W64)
  /-- AND_UPDATE (R179): Forms a bitwise-AND keyed update. -/
  | andUpdate (wd : Width) (o : Ord) (rd rs : Reg) (off : W64)
  /-- OR_UPDATE (R179): Forms a bitwise-OR keyed update. -/
  | orUpdate (wd : Width) (o : Ord) (rd rs : Reg) (off : W64)
  /-- XOR_UPDATE (R179): Forms a bitwise-XOR keyed update. -/
  | xorUpdate (wd : Width) (o : Ord) (rd rs : Reg) (off : W64)
  /-- FSUM (R179): Forms an exact wide-cell floating-point sum keyed update. -/
  | fsum (f : FFmt) (o : Ord) (rd rs : Reg) (off : W64)
  /-- FMIN (R179): Forms a floating-point minimum keyed update. -/
  | fmin (f : FFmt) (o : Ord) (rd rs : Reg) (off : W64)
  /-- FMAX (R179): Forms a floating-point maximum keyed update. -/
  | fmax (f : FFmt) (o : Ord) (rd rs : Reg) (off : W64)
  /-- FADD64 (R179): Forms an FP64 add keyed update, trapping under deterministic mode. -/
  | fadd64 (o : Ord) (rd rs : Reg) (off : W64)
  /-- ATOM (R180): Pushes own entries to the barn, applies an operator there indivisibly and returns the old value. -/
  | atom (op : KOp) (wd : Width) (bf : Bool) (o : Ord) (rd rs : Reg)
  /-- FILL (R182): Waits for empty, writes the word and sets it full. -/
  | fill (sp : Bool) (o : Ord) (rd rs : Reg) (off : W64)
  /-- TAKE (R182): Waits for full, returns the word and sets it empty. -/
  | take (sp : Bool) (o : Ord) (rd rs : Reg) (off : W64)
  /-- PEEK (R182): Waits for full and returns the word, leaving it full. -/
  | peek (sp : Bool) (o : Ord) (rd rs : Reg) (off : W64)
  /-- EMPTY (R182): Sets a word empty at once and wakes waiters. -/
  | empty (sp : Bool) (o : Ord) (rs : Reg) (off : W64)
  /-- FENCE (R184): Performs a release, acquire or both at a scope, with no access. -/
  | fence (o : Ord)
  /-- SETTLE (R185): Starts merges over the scope's extent and completes when those entries stand at the scope's level. -/
  | settle (sc : Scope)
  /-- MRESOLVE_RETRY (R193): Replaces a held entry's value, clears HELD and lets it merge again. -/
  | mresolveRetry (rd rs : Reg)
  /-- MRESOLVE_DROP (R193): Discards a held entry with none of its updates applied. -/
  | mresolveDrop (rd rs : Reg)
  /-- MRESOLVE_COMMIT (R193): REPLACEs the destination's lanes with a supplied value and discards the held entry. -/
  | mresolveCommit (rd rs : Reg)
  /-- WAIT (R186): Waits (or tests under .nb) until the counters are within their limits, then acquires for counted completions. -/
  | wait (nb : Bool) (rd : Reg) (lim : BitVec 16)
  /-- BAR (R187): Releases and arrives at the group's whole-group barrier, waking all when every live thread has arrived. -/
  | bar (o : Ord)
  /-- BARP (R188): Joins one of four named barriers with a tag and participant mask. -/
  | barp (o : Ord) (rs rt : Reg)
  /-- CHPUSH (R191): Binds the writer, FILLs the next ring word and advances the handle. -/
  | chpush (o : Ord) (rs rt : Reg)
  /-- CHPOP (R191): Binds the reader, TAKEs the next ring word and advances the handle. -/
  | chpop (o : Ord) (rd rs : Reg)
  /-- VADD (R204): Adds vectors elementwise in scratchpad. -/
  | vadd (f : EFmt) (r : Rnd) (mk : Bool) (pd pa pb : PtrOp)
  /-- VSUB (R204): Subtracts vectors elementwise. -/
  | vsub (f : EFmt) (r : Rnd) (mk : Bool) (pd pa pb : PtrOp)
  /-- VMUL (R204): Multiplies vectors elementwise. -/
  | vmul (f : EFmt) (r : Rnd) (mk : Bool) (pd pa pb : PtrOp)
  /-- VFMA (R204): Computes a·b + dst elementwise with one rounding. -/
  | vfma (f : EFmt) (r : Rnd) (mk : Bool) (pd pa pb : PtrOp)
  /-- VMIN (R204): Elementwise minimum. -/
  | vmin (f : EFmt) (mk : Bool) (pd pa pb : PtrOp)
  /-- VMAX (R204): Elementwise maximum. -/
  | vmax (f : EFmt) (mk : Bool) (pd pa pb : PtrOp)
  /-- VABS (R204): Elementwise absolute value. -/
  | vabs (f : EFmt) (r : Rnd) (mk : Bool) (pd pa : PtrOp)
  /-- VNEG (R204): Elementwise negation. -/
  | vneg (f : EFmt) (r : Rnd) (mk : Bool) (pd pa : PtrOp)
  /-- VAND (R204): Elementwise bitwise AND. -/
  | vand (f : EFmt) (mk : Bool) (pd pa pb : PtrOp)
  /-- VOR (R204): Elementwise bitwise OR. -/
  | vor (f : EFmt) (mk : Bool) (pd pa pb : PtrOp)
  /-- VXOR (R204): Elementwise bitwise XOR. -/
  | vxor (f : EFmt) (mk : Bool) (pd pa pb : PtrOp)
  /-- VSHL (R205): Elementwise shift by a signed amount. -/
  | vshl (f : EFmt) (r : Rnd) (mk : Bool) (pd pa pb : PtrOp)
  /-- VCMPEQ (R206): Writes a bitmap of elementwise equality. -/
  | vcmpeq (f : EFmt) (mk : Bool) (pd pa pb : PtrOp)
  /-- VCMPNE (R206): Writes a bitmap of elementwise inequality. -/
  | vcmpne (f : EFmt) (mk : Bool) (pd pa pb : PtrOp)
  /-- VCMPLT (R206): Writes a bitmap of elementwise less-than. -/
  | vcmplt (f : EFmt) (mk : Bool) (pd pa pb : PtrOp)
  /-- VCMPLE (R206): Writes a bitmap of elementwise less-or-equal. -/
  | vcmple (f : EFmt) (mk : Bool) (pd pa pb : PtrOp)
  /-- VSUM (R208): Reduces a vector into a register in fixed 16-element groups. -/
  | vsum (f : EFmt) (r : Rnd) (mk : Bool) (rd : Reg) (pa : PtrOp)
  /-- VMAXR (R209): Writes the maximum of the unmasked elements into a register. -/
  | vmaxr (f : EFmt) (mk : Bool) (rd : Reg) (pa : PtrOp)
  /-- VSCAN (R210): Writes the inclusive prefix sum. -/
  | vscan (f : EFmt) (r : Rnd) (mk : Bool) (pd pa : PtrOp)
  /-- VDOT (R208): Writes the dot product of two vectors into a register. -/
  | vdot (f : EFmt) (r : Rnd) (mk : Bool) (rd : Reg) (pa pb : PtrOp)
  /-- VFILL (R211): Writes the low bytes of a register into every unmasked element. -/
  | vfill (f : EFmt) (mk : Bool) (pd : PtrOp) (rs : Reg)
  /-- VCOPY (R211): Copies elements unchanged. -/
  | vcopy (f : EFmt) (mk : Bool) (pd pa : PtrOp)
  /-- VSEL (R207): Selects elements from two vectors by the bitmap at p7. -/
  | vsel (f : EFmt) (pd pa pb : PtrOp)
  /-- VNNZ (R212): Writes a nonzero bitmap and counts nonzero elements. -/
  | vnnz (f : EFmt) (mk : Bool) (rd : Reg) (pa pb : PtrOp)
  /-- VLD (R214): Starts an asynchronous load of vl elements from global memory into scratchpad, counted in LOADS. -/
  | vld (wd : Width) (mk : Bool) (pd : PtrOp) (rs : Reg)
  /-- VST (R215): Forms one REPLACE update per element, counted once in UPDATES. -/
  | vst (wd : Width) (mk : Bool) (o : Ord) (pd : PtrOp) (rs : Reg)
  /-- VUPD (R215): Forms one keyed update per element with the coded operator. -/
  | vupd (op : KOp) (f : EFmt) (mk : Bool) (o : Ord) (pd : PtrOp) (rs : Reg)
  /-- VGATH (R214): Starts an asynchronous indexed gather into scratchpad. -/
  | vgath (wd : Width) (mk : Bool) (pd pa : PtrOp) (rt : Reg)
  /-- VSCAT (R216): Forms indexed keyed updates by a descriptor after translating every key. -/
  | vscat (wd : Width) (mk : Bool) (o : Ord) (pd pa : PtrOp) (rt : Reg)
  /-- PSET (R213): Loads a pointer register from a register. -/
  | pset (p : BitVec 3) (rs : Reg)
  /-- PGET (R213): Reads a pointer register into a register. -/
  | pget (rd : Reg) (p : BitVec 3)
  /-- PADD (R213): Adds a register to a pointer register modulo 2^32. -/
  | padd (p : BitVec 3) (rs : Reg)
  /-- VCVT (R218): Converts vector elements to a target format. -/
  | vcvt (src dst : EFmt) (r : Rnd) (mk : Bool) (pd pa : PtrOp)
  /-- CVT (R218): Converts the low bytes of a register to a target format. -/
  | cvt (src dst : EFmt) (r : Rnd) (rd rs : Reg)
  /-- CVT_TO_F64 (R218): Converts a register value to FP64. -/
  | cvtToF64 (src : EFmt) (r : Rnd) (rd rs : Reg)
  /-- CVT_FROM_F64 (R218): Converts an FP64 register value to a target format. -/
  | cvtFromF64 (dst : EFmt) (r : Rnd) (rd rs : Reg)
  /-- VEXP2 (R219): Evaluates the frozen EXP2 table per element. -/
  | vexp2 (f : EFmt) (mk : Bool) (pd pa : PtrOp)
  /-- VLOG2 (R219): Evaluates the frozen LOG2 table per element. -/
  | vlog2 (f : EFmt) (mk : Bool) (pd pa : PtrOp)
  /-- VRCP (R219): Evaluates the frozen reciprocal table per element. -/
  | vrcp (f : EFmt) (mk : Bool) (pd pa : PtrOp)
  /-- VRSQRT (R219): Evaluates the frozen reciprocal square root table per element. -/
  | vrsqrt (f : EFmt) (mk : Bool) (pd pa : PtrOp)
  /-- VSIN2PI (R219): Evaluates the frozen SIN2PI table per element. -/
  | vsin2pi (f : EFmt) (mk : Bool) (pd pa : PtrOp)
  /-- VTANH (R219): Evaluates the frozen TANH table per element. -/
  | vtanh (f : EFmt) (mk : Bool) (pd pa : PtrOp)
  /-- OCLAIM (R223): Claims n consecutive free operand slots or returns all ones. -/
  | oclaim (rd rs : Reg)
  /-- OREL (R224): Releases a run of claimed operand slots once they are not held. -/
  | orel (rs rt : Reg)
  /-- OFILL (R225): Moves bytes between scratchpad and claimed operand slots. -/
  | ofill (rd rs rt : Reg)
  /-- MLATCH (R228): Queues a weight-tile latch on the array, handing its registers over. -/
  | mlatch (f : EFmt) (rs : Reg)
  /-- MSTREAM (R231): Queues a 32-row activation stream through the latched tile, counted in TILES. -/
  | mstream (f : EFmt) (rd rs rt : Reg)
  /-- MDEND (R239): Queues a dendritic-mode stream computing branch sums through curves. -/
  | mdend (f : EFmt) (rd rs rt : Reg)
  /-- MCURVE (R243): Queues the load of one curve table into the array. -/
  | mcurve (rs rt : Reg)
  /-- GSTART (R245): Runs a Gleaner program from scratchpad until it stops, then writes back the state block and STATUS. -/
  | gstart (rd rs rt : Reg)
  /-- GADD (R248): Gleaner add. -/
  | gadd (jd ja jb : JReg)
  /-- GSUB (R248): Gleaner subtract. -/
  | gsub (jd ja jb : JReg)
  /-- GMUL (R248): Gleaner multiply, low 64 bits. -/
  | gmul (jd ja jb : JReg)
  /-- GAND (R248): Gleaner bitwise AND. -/
  | gand (jd ja jb : JReg)
  /-- GOR (R248): Gleaner bitwise OR. -/
  | gor (jd ja jb : JReg)
  /-- GXOR (R248): Gleaner bitwise XOR. -/
  | gxor (jd ja jb : JReg)
  /-- GADDI (R248): Gleaner add immediate. -/
  | gaddi (jd ja : JReg) (imm : BitVec 18)
  /-- GLI (R248): Gleaner load immediate. -/
  | gli (jd : JReg) (imm : BitVec 18)
  /-- GSHLI (R248): Gleaner logical shift left by immediate. -/
  | gshli (jd ja : JReg) (imm : BitVec 18)
  /-- GSHRI (R248): Gleaner logical shift right by immediate. -/
  | gshri (jd ja : JReg) (imm : BitVec 18)
  /-- GHASH (R248): Gleaner multiplicative hash to jb bits. -/
  | ghash (jd ja jb : JReg)
  /-- GLDW (R248): Gleaner 4-byte global load. -/
  | gldw (jd ja : JReg) (imm : BitVec 18)
  /-- GLDD (R248): Gleaner 8-byte global load. -/
  | gldd (jd ja : JReg) (imm : BitVec 18)
  /-- GLDS (R248): Gleaner 8-byte scratchpad load. -/
  | glds (jd ja : JReg) (imm : BitVec 18)
  /-- GBEQ (R248): Gleaner branch if equal. -/
  | gbeq (ja jb : JReg) (off : BitVec 14)
  /-- GBNE (R248): Gleaner branch if unequal. -/
  | gbne (ja jb : JReg) (off : BitVec 14)
  /-- GBLTU (R248): Gleaner branch if less, unsigned. -/
  | gbltu (ja jb : JReg) (off : BitVec 14)
  /-- GJMP (R248): Gleaner relative jump. -/
  | gjmp (imm : BitVec 18)
  /-- GDJNZ (R248): Gleaner decrement and branch if nonzero. -/
  | gdjnz (jd : JReg) (imm : BitVec 18)
  /-- GAPPG (R249): Appends n bytes of global memory to the output run. -/
  | gappg (ja : JReg) (n : BitVec 18)
  /-- GAPPS (R249): Appends n bytes of scratchpad to the output run. -/
  | gapps (ja : JReg) (n : BitVec 18)
  /-- GAPPZ (R249): Appends n zero bytes to the output run. -/
  | gappz (n : BitVec 18)
  /-- GAPPJ (R249): Appends the 8 bytes of a register to the output run. -/
  | gappj (ja : JReg)
  /-- COPY (R255): Starts a strided copy on a copy engine after a die-scope release, counted in COPIES. -/
  | copy (rd rs rt : Reg)
  /-- COPYM (R257): Starts a multicast copy to every member of a group. -/
  | copym (rd rs rt : Reg)
  /-- WBIN (R259): Starts appending bin records into a bin table on the Winnow engine. -/
  | wbin (rd rs rt : Reg)
  /-- WREPLAY (R260): Starts replaying bins region by region into the target tensor. -/
  | wreplay (rd rs rt : Reg)
  /-- WCLASS (R261): Starts sorting rows into length classes. -/
  | wclass (rd rs rt : Reg)
  /-- FERRY (R263): Calls code on the Reed core or cluster nearest an address, handing over w16–w23. -/
  | ferry (cl tt : Bool) (rd rs rt : Reg)
  /-- IXRED (R271): Sends a 64-byte indexed-reduction command to a Reed core. -/
  | ixred (rs rt : Reg)
  /-- RSEND (R267): Sends w16–w23 as a one-way message to a Reed channel. -/
  | rsend (rs rt : Reg)
  /-- SLCTL_STATUS (R277): Returns a snapshot of a Sluice unit's status. -/
  | slctlStatus (rd rs rt : Reg)
  /-- SLCTL_ABORT (R277): Stops a Sluice unit with ABORTED and returns its status. -/
  | slctlAbort (rd rs rt : Reg)
  /-- SLULD (R276): Loads a Sluice unit's microprogram. -/
  | sluld (rs rt : Reg)
  /-- SLUGO (R276): Loads pointers and scalars and starts a Sluice unit. -/
  | slugo (rs rt : Reg)
  /-- SLUWT (R276): Stalls the Reed core until a Sluice unit is not busy. -/
  | sluwt (rs : Reg)
  /-- SLURD (R276): Reads a Sluice unit's status. -/
  | slurd (rd rs : Reg)
  /-- TKSET (R270): Sets BLOCKED on a Reed channel. -/
  | tkset (rs : Reg)
  /-- TKCLR (R270): Clears BLOCKED on a Reed channel. -/
  | tkclr (rs : Reg)
  /-- OVSWAP (R270): Loads a 4 KiB overlay into a Reed code slot. -/
  | ovswap (rs rt : Reg)
  /-- SLU_NOP (R273): Sluice micro-op that does nothing. -/
  | sluNop (u : SluF)
  /-- RLD (R273): Sluice row step loading a row into an accumulator. -/
  | rld (u : SluF)
  /-- RST (R273): Sluice row step storing an accumulator to a row. -/
  | rst (u : SluF)
  /-- SLU_VADD (R273): Sluice elementwise accumulator add. -/
  | sluVadd (u : SluF)
  /-- VMULS (R273): Sluice accumulator times scalar. -/
  | vmuls (u : SluF)
  /-- VFMAS (R273): Sluice fused multiply-add with a scalar. -/
  | vfmas (u : SluF)
  /-- PINC (R273): Sluice row pointer increment. -/
  | pinc (u : SluF)
  /-- SLU_LOOP (R273): Sluice iteration count and restart, or stop with DONE. -/
  | sluLoop (u : SluF)
  /-- SLU_END (R273): Stops the Sluice unit with DONE. -/
  | sluEnd (u : SluF)
  /-- TISSUE (R285): Issues a list of Tilth records after a release, counted in TILES. -/
  | tissue (rd rs rt : Reg)
  /-- TRAP (R323): A trap is taken: trap state saved, level raised, and the vector entered, or the domain contained. -/
  | trap (code sub : Nat) (faddr : W64)
  /-- SRD (R321): Reads a SYS register. -/
  | srd (rd : Reg) (n : BitVec 9)
  /-- SWR (R321): Writes a SYS register that has no behaviour of its own. -/
  | swr (n : BitVec 9) (rd : Reg)
  /-- CTXSW (R331): Makes a context rotate on the selected clusters. -/
  | ctxsw (rd rs rt : Reg)
  /-- XINV_PAGE (R357): Drops a context's translations of a page range. -/
  | xinvPage (rd rs rt : Reg)
  /-- XINV_CONTEXT (R357): Drops every page translation of a context. -/
  | xinvContext (rd rs rt : Reg)
  /-- XINV_RANGE (R357): Reloads a context's range entries and drops its page translations. -/
  | xinvRange (rd rs rt : Reg)
  /-- XINV_ALL (R357): Performs RANGE for both contexts. -/
  | xinvAll (rd rs rt : Reg)
  /-- SAVECTX (R332): Halts a context, merges its entries and writes its state to a save area. -/
  | savectx (rd rs rt : Reg)
  /-- LOADCTX (R335): Restores a saved context and its held entries. -/
  | loadctx (rd rs rt : Reg)
  /-- RET (R164): Returns to w8 and moves the window back. -/
  | ret
  /-- EXIT (R167): Once all counters are zero, ends the thread, frees its slot and ends the group at its last thread. -/
  | exit
  /-- NOP (R167): Does nothing. -/
  | nop
  /-- LDNB_COMPLETE (R178): An LD.nb fold completes, writes its register, decrements LOADS and performs any acquire. -/
  | ldnbComplete
  /-- SHEAF_INSERT (R87): A formed or waiting update is inserted into the core's sheaf run once a slot is free or its held entry resolves, and UPDATES falls. -/
  | sheafInsert
  /-- WAITER_RETRY (R102): A parked thread woken by a state change retries its full/empty or channel operation and completes or parks again. -/
  | waiterRetry
  /-- WAIT_LIST_POLL (R102): A waiter that found the die wait list full retries every 256 clk. -/
  | waitListPoll
  /-- RELEASE_COMPLETE (R108): A release completes once every earlier update stands at its scope and earlier loads have completed. -/
  | releaseComplete
  /-- VLOAD_COMPLETE (R214): All elements of a VLD or VGATH stand in scratchpad and LOADS falls. -/
  | vloadComplete
  /-- VECTOR_BEAT (R200): Each clk, bank arbitration grants pending vector beats and scalar scratchpad accesses. -/
  | vectorBeat
  /-- ARRAY_QUEUE_HEAD (R229): A matrix operation reaches the head of its array queue and acts (latch, curve load, config read or row entry starts). -/
  | arrayQueueHead
  /-- ROW_ENTRY (R231): One unmasked row enters the array per clk; after the last the operands are consumed and the thread returns. -/
  | rowEntry
  /-- ROW_READY (R233): A row's accumulation finishes and it is drained directly or into a handler buffer. -/
  | rowReady
  /-- ROW_HANDLER_DISPATCH (R235): Slot 15 of the issuing core is started as a handler for a drained row. -/
  | rowHandlerDispatch
  /-- ROWDONE (R236): Ends a row handler, ORs its flags, frees the buffer and may complete the stream. -/
  | rowdone
  /-- GNOP (R248): Gleaner no-op. -/
  | gnop
  /-- GEND (R248): Stops the Gleaner program with END. -/
  | gend
  /-- COPY_COMPLETE (R256): A copy's writes all stand; the engine releases at die scope and COPIES falls. -/
  | copyComplete
  /-- COPYM_MEMBER_ANSWER (R257): A multicast member answers once its bytes stand at device scope; the last answer completes COPYM. -/
  | copymMemberAnswer
  /-- WINNOW_COMPLETE (R259): A Winnow operation finishes or stops, writes NEXT and CAUSE, releases and decrements COPIES. -/
  | winnowComplete
  /-- ENGINE_FAULT (R253): An engine fault is taken on the issuing thread at its next rotating boundary. -/
  | engineFault
  /-- FERRY_RETRANSMIT (R265): The 20 µs timer expires and the call is sent again, or after 16 sends returns UNKNOWN. -/
  | ferryRetransmit
  /-- FERRY_REPLY (R264): A reply arrives; the caller acquires at device scope, writes results and status and resumes. -/
  | ferryReply
  /-- FERRY_CALL_ARRIVE (R265): A target receives a call and runs, queues, discards, resends or answers UNKNOWN by its id table. -/
  | ferryCallArrive
  /-- FERRY_SLOT_DISPATCH (R266): A queued cluster call starts on a free slot 14 when its context rotates. -/
  | ferrySlotDispatch
  /-- IXRED_EXECUTE (R272): The Reed core sums the indexed rows exactly, writes the result and fills the DONE word. -/
  | ixredExecute
  /-- RSEND_REPLY (R267): In a ferry-slot handler, releases at device scope, replies OK and ends the handler. -/
  | rsendReply
  /-- REED_DISPATCH (R269): An idle Reed core dispatches the oldest message of the best eligible channel as a task. -/
  | reedDispatch
  /-- TKEND (R270): Ends a Reed task, replying or completing its sender. -/
  | tkend
  /-- SLUICE_WINDOW (R309): An arbitration window ends; the unit suspends if class-0 requests wait, else continues. -/
  | sluiceWindow
  /-- SLUICE_RESUME (R309): After 32 ns of empty queue the suspended unit resumes at UPC. -/
  | sluiceResume
  /-- RECORD_START (R284): A Tilth record starts: it is checked, translated and cut into tiles per die. -/
  | recordStart
  /-- TILE_CLAIM (R290): An eligible claimant takes the next tile from its die queue by ticket. -/
  | tileClaim
  /-- TILE_COMPLETE (R287): A tile finishes and its die's DNEXT and DMASK advance. -/
  | tileComplete
  /-- TILE_FAULT_ROLLUP (R295): A tile fault stops dies, gathers progress and chooses the reported fault. -/
  | tileFaultRollup
  /-- RECORD_COMPLETE (R287): A record completes with a release and the next record starts with an acquire. -/
  | recordComplete
  /-- TISSUE_COMPLETE (R285): Writes the status block, ORs flags, releases and decrements TILES. -/
  | tissueComplete
  /-- RECORD_FORWARD (R288): A forwarded record arrives over Causeway and runs in the receive context. -/
  | recordForward
  /-- RUN_MERGE (R92): A run merges its present entries in ascending word order into the next level or the barn. -/
  | runMerge
  /-- ENTRY_AGE_TIMEOUT (R91): An entry standing 65,536 clk without a merge starts a merge of its run. -/
  | entryAgeTimeout
  /-- ADMIT (R120): A pending entry whose stamp is covered is inserted into the home rick run and reported admitted. -/
  | admitUpdate
  /-- DONE_RING_PASS (R119): The die-to-die ring carries every DONE value past each die once every 64 clk. -/
  | doneRingPass
  /-- PEER_STREAM_ARRIVE (R123): A peer device applies an arriving update, load or full/empty request from an ordered stream. -/
  | peerStreamArrive
  /-- FAULT_RECORD_DELIVERY (R329): A fault record of kind 1, 3 or 4 is delivered to the fault agent at its next boundary. -/
  | faultRecordDelivery
  /-- FAULT_RECORD_WRITE (R327): The part writes a record to the fault ring once there is room, then advances FHEAD. -/
  | faultRecordWrite
  /-- CONTAINMENT (R37): A fault stops every thread and placement below the containing node and writes STATE 5. -/
  | containment
  /-- TRET (R324): Returns from a trap to SYS.TPC at the saved level. -/
  | tret
  /-- CONTEXT_SWITCH (R48): A cluster switches its rotating context at instruction and row boundaries. -/
  | contextSwitch
  /-- PAGE_WALK (R351): A walker performs a five-level walk for a translation miss and answers every waiter. -/
  | pageWalk
  /-- QCTL_START (R339): SYS.QCTL start: reads and checks a queue descriptor and starts the queue. -/
  | qctlStart
  /-- QCTL_STOP (R341): SYS.QCTL stop: the queue stops between entries. -/
  | qctlStop
  /-- DEVRCB_WRITE (R338): Writing SYS.DEVRCB retires the old device region and checks and accepts a new one. -/
  | devrcbWrite
  /-- CELLSTORE_WRITE (R319): Writing SYS.CELLSTORE discards barn cells and applies a new cell-store size. -/
  | cellstoreWrite
  /-- PDIES_WRITE (R360): Firmware write of SYS.PDIES changes the partition's dies when they are idle. -/
  | pdiesWrite
  /-- QUEUE_SEQ_TAKE (R341): A running queue takes entry HEAD's SEQ once full and checks the entry. -/
  | queueSeqTake
  /-- CMD_LAUNCH (R341): A LAUNCH command submits its RCB for acceptance. -/
  | cmdLaunch
  /-- CMD_COPY (R341): A COPY command runs a copy issued by the queue. -/
  | cmdCopy
  /-- CMD_TASK (R341): A TASK command writes a Reed task-table entry. -/
  | cmdTask
  /-- CMD_SEND (R341): A SEND command delivers a message to a Reed channel. -/
  | cmdSend
  /-- CMD_MARK (R342): A MARK command completes when every earlier entry has completed. -/
  | cmdMark
  /-- TOKEN_POLL (R342): The command processor reloads a waited token at least every 1 µs or on any signal. -/
  | tokenPoll
  /-- ENTRY_COMPLETE_SIGNAL (R342): A completed entry performs a cumulative release and increments its STOK token. -/
  | entryCompleteSignal
  /-- RECORD_TAKE (R40): The scheduler takes a tile record's SEQ and launches the record or raises a record fault. -/
  | recordTake
  /-- LAUNCH_ACCEPT (R38): A submitted RCB is checked in fixed order and accepted or refused. -/
  | launchAccept
  /-- GROUP_PLACE (R344): The scheduler places the next group of the highest-ranked launch on a cluster with room. -/
  | groupPlace
  /-- AGING_TICK (R345): Every 10 ms unplaced launches age in rank and may become blocking. -/
  | agingTick
  /-- LAUNCH_COMPLETE (R43): A launch's last group ends: it releases, writes STATE 3 and signals dependants. -/
  | launchComplete
  /-- WATCHDOG_EXPIRE (R347): A group's idle watchdog reaches its limit and the group is contained. -/
  | watchdogExpire
  /-- SPARE_CLUSTER (R362): Moves a cluster's state to a reserved spare and swaps logical numbers. -/
  | spareCluster
  /-- RESERVE_CLUSTER (R362): Marks a cluster as reserved. -/
  | reserveCluster
  /-- RELEASE_CLUSTER (R362): Releases a reserved cluster. -/
  | releaseCluster
  /-- RETIRE_PSEUDO_CHANNEL (R361): Retires a pseudo-channel, making its addresses unpopulated. -/
  | retirePseudoChannel
  /-- SPARE_APPLICATION_CORE (R361): Moves an application core's tasks to another core. -/
  | spareApplicationCore
  /-- LANE_FAILURE (R361): A failed Causeway lane makes its port retrain on the remaining lanes. -/
  | laneFailure
  /-- CRC_RETRY (R363): A flit with a CRC error is resent; after 8 failures the link is down. -/
  | crcRetry
  /-- ECC_ERROR (R363): A check detects an error: corrected and logged, or the datum poisoned. -/
  | eccError
  /-- POISON_CONSUMED (R364): A consumer reads poison and its fault domain is contained. -/
  | poisonConsumed
  /-- PORT_RETRAIN (R375): Firmware writing RETRAIN retrains a Causeway port. -/
  | portRetrain
  /-- BAR2_WRITE (R373): A host write through BAR2 becomes REPLACE updates in the home rick run. -/
  | bar2Write
  /-- BAR2_READ (R373): A host read through BAR2 returns the home view. -/
  | bar2Read
  /-- FEADDR (R373): A host write latches an interleaved key for FEDATA. -/
  | feaddr
  /-- FEDATA (R373): A host write releases earlier BAR2 writes then FILLs the latched key. -/
  | fedata
  /-- ATTREQ (R381): A write requests an attestation report signed with the next identity leaf. -/
  | attreq
  /-- SYS_WINDOW_ACCESS (R369): An application-core access to the SYS window acts as SRD or SWR of the register. -/
  | sysWindowAccess
  /-- HOST_UPDATE (R370): The bridge performs an update to a host key as a write, FetchAdd or read-modify-write. -/
  | hostUpdate
  /-- RESET (R378): Reset starts the boot ROM on application core 0, which verifies and measures stage 1. -/
  | reset
  /-- BOOT_STAGE1 (R378): Stage 1 trains links and HBM, clears memory and causal state, and measures stage 2. -/
  | bootStage1
  /-- BOOT_STAGE2 (R369): Stage 2 trains PCIe and Causeway and writes partition and context registers. -/
  | bootStage2
  /-- GOVERNOR_TICK (R382): Every 1 µs the governor measures compute-die power and throttles above the cap. -/
  | governorTick
  /-- THERMAL_HALVE (R382): Above 110 °C junction the governor halves the power cap. -/
  | thermalHalve
  /-- THERMAL_TRIP (R382): At 120 °C the compute dies are held in reset and a trip is signalled over I3C. -/
  | thermalTrip
  /-- REED_MESSAGE_ARRIVE (R269): A message from RSEND, IXRED or a queue SEND arrives at a Reed channel and is queued, or refused when the channel has ENABLED = 0. -/
  | reedMessageArrive
  /-- PEER_ANSWER (R125): The answer to a peer-key load, ATOM, FILL, TAKE, PEEK or channel operation, or a peer's device-scope acknowledgment, returns to the issuing die and resumes the parked thread or release. -/
  | peerAnswer
  /-- POWER_LOSS (R380): Power fails, all volatile state is lost and any committed but unreleased identity leaf index stays consumed in NVM. -/
  | powerLoss
  deriving DecidableEq, Repr

end Sys2Proof
end

