-- ==== Sys2Proof/Decode.lean ====
section
/-!
DEFINITION. Decode.lean: instruction words to instructions (R130 to R153, R247, R248, R273), total and by R141's order of
checks, and the encoder that writes the words back (R131 to R139, R154). Cluster cores and Reed cores share one decoder.
-/
namespace Sys2Proof

/-- What fetching one 16-bit word gives: the word, a word that cannot be fetched (R142), or a fetch still waiting (R106, R355). -/
inductive FetchR where
  | word (w : Nat)
  | fault
  | wait
  deriving DecidableEq, Repr

/-- The answer of the decoder: an instruction with its length in bytes, or the trap of R141. `fetch n` names the n-th word. -/
inductive DecR where
  | ok (i : Instr) (len : Nat)
  | illegal
  | privileged
  | fetchFault (n : Nat)
  | fetchWait (n : Nat)
  deriving DecidableEq, Repr

/-- The core that decodes: Reed or cluster, user level or above (R140, R152). -/
structure CoreKind where
  reed : Bool
  user : Bool
  deriving DecidableEq, Repr

/-- Prefixes gathered so far (R134): IMM payloads in order, and the REG, PAGE and MOD payloads. -/
structure Pre where
  imms : List Nat
  rg : Option Nat
  pg : Option Nat
  md : Option Nat
  deriving DecidableEq, Repr

/-- The fields of a base word with its prefixes: F1, F2, F3, f, the REG pairs and VAR (R136), the MOD payload (R138),
the IMM payloads and the word (R131). -/
structure Flds where
  reed : Bool
  f1 : Nat
  f2 : Nat
  f3 : Nat
  f : Nat
  p1 : Nat
  p2 : Nat
  p3 : Nat
  var : Nat
  md : Nat
  imms : List Nat
  w : Nat
  deriving DecidableEq, Repr

def Flds.ofWord (reed : Bool) (p : Pre) (w : Nat) : Flds :=
  let rg := p.rg.getD 0
  { reed := reed, f1 := nfld w 8 3, f2 := nfld w 5 3, f3 := nfld w 2 3, f := nfld w 0 2
    p1 := nfld rg 7 2, p2 := nfld rg 5 2, p3 := nfld rg 3 2, var := nfld rg 0 3
    md := p.md.getD 0, imms := p.imms, w := w }

/-- A guard of the decoder: R140's IllegalInstruction when it fails. -/
def need (b : Bool) : Option Unit := if b then some () else none

/-- A register number by R133: on a Reed core numbers 16 to 31 name no register. -/
def regOf (reed : Bool) (pair field : Nat) : Option Reg :=
  if reed && 16 ≤ 8 * pair + field then none else some (BitVec.ofNat 5 (8 * pair + field))

def Flds.r1 (x : Flds) : Option Reg := regOf x.reed x.p1 x.f1
def Flds.r2 (x : Flds) : Option Reg := regOf x.reed x.p2 x.f2
def Flds.r3 (x : Flds) : Option Reg := regOf x.reed x.p3 x.f3
/-- F1, F2 or F3 as a reserved field: it and its pair are zero (R131, R136). -/
def Flds.z1 (x : Flds) : Option Unit := need (x.f1 == 0 && x.p1 == 0)
def Flds.z2 (x : Flds) : Option Unit := need (x.f2 == 0 && x.p2 == 0)
def Flds.z3 (x : Flds) : Option Unit := need (x.f3 == 0 && x.p3 == 0)
/-- No immediate (R135), no variant, no modifier (R138). -/
def Flds.noImm (x : Flds) : Option Unit := need x.imms.isEmpty
def Flds.noVar (x : Flds) : Option Unit := need (x.var == 0)
def Flds.noMod (x : Flds) : Option Unit := need (x.md == 0)
def Flds.plain (x : Flds) : Option Unit := do x.noImm; x.noVar; x.noMod
/-- A pointer field (R133): pair bit 0 is the post-increment, pair bit 1 is reserved. -/
def ptrOf (pair field : Nat) : Option PtrOp :=
  if pair < 2 then some ⟨BitVec.ofNat 3 field, pair == 1⟩ else none
def Flds.q1 (x : Flds) : Option PtrOp := ptrOf x.p1 x.f1
def Flds.q2 (x : Flds) : Option PtrOp := ptrOf x.p2 x.f2
def Flds.q3 (x : Flds) : Option PtrOp := ptrOf x.p3 x.f3

/-- The assembled immediate (R132): its width in bits and its value, from a base field of `n` bits. -/
def Flds.asm (x : Flds) (n base : Nat) : Nat × Nat :=
  (n + 9 * x.imms.length, (x.imms.foldl (fun a p => 512 * a + p) 0) * 2 ^ n + base)
def Flds.immS (x : Flds) (n base : Nat) : W64 := sext64 (x.asm n base).1 (x.asm n base).2
def Flds.immU (x : Flds) (n base : Nat) : Nat := (x.asm n base).2

def eFmtOf (n : Nat) : Option EFmt := [EFmt.f32, .f16, .bf16, .fe4, .fe5, .q4x, .i8, .i32][n]?
def EFmt.code : EFmt → Nat | .f32 => 0 | .f16 => 1 | .bf16 => 2 | .fe4 => 3 | .fe5 => 4 | .q4x => 5 | .i8 => 6 | .i32 => 7
def fFmtOf (n : Nat) : Option FFmt := [FFmt.bf16, .f16, .f32][n]?
def FFmt.code : FFmt → Nat | .bf16 => 0 | .f16 => 1 | .f32 => 2
def widthOf (n : Nat) : Option Width := [Width.b, .h, .w, .d][n]?
def rndOf (n : Nat) : Option Rnd := [Rnd.rne, .rtz, .rup, .rdn, .sat][n]?
def Rnd.code : Rnd → Nat | .rne => 0 | .rtz => 1 | .rup => 2 | .rdn => 3 | .sat => 4
def scopeOf (n : Nat) : Option Scope := [Scope.thread, .core, .clu, .die, .dev, .sys][n]?
def Scope.code : Scope → Nat | .thread => 0 | .core => 1 | .clu => 2 | .die => 3 | .dev => 4 | .sys => 5
def ordOf (n : Nat) : OrdKind := match n with | 0 => .none | 1 => .acq | 2 => .rel | _ => .ar
def OrdKind.code : OrdKind → Nat | .none => 0 | .acq => 1 | .rel => 2 | .ar => 3
def OrdKind.isRel : OrdKind → Bool | .rel => true | .ar => true | _ => false
def OrdKind.isAcq : OrdKind → Bool | .acq => true | .ar => true | _ => false
def kopOf (n : Nat) : Option KOp :=
  [KOp.replace, .iadd, .smin, .smax, .umin, .umax, .and, .or, .xor, .fsum, .fmin, .fmax, .fadd64][n]?
def KOp.code : KOp → Nat
  | .replace => 0 | .iadd => 1 | .smin => 2 | .smax => 3 | .umin => 4 | .umax => 5 | .and => 6 | .or => 7 | .xor => 8
  | .fsum => 9 | .fmin => 10 | .fmax => 11 | .fadd64 => 12
def sregOf (n : Nat) : Option SReg := [SReg.vl, .lc0, .ls0, .le0, .lc1, .ls1, .le1][n]?
def SReg.code : SReg → Nat | .vl => 0 | .lc0 => 1 | .ls0 => 2 | .le0 => 3 | .lc1 => 4 | .ls1 => 5 | .le1 => 6

/-- The default order: no suffix (R138). -/
def Ord.none : Ord := ⟨.none, .thread, false⟩

/-- The order suffix of a page-1 instruction or of VST, VUPD, VSCAT (R176, R203): MOD [8:7] ‖ RS[4] give the scope, RS[3:2]
and MK are reserved, a scope without an order is illegal, `.cum` needs a release. `nb` allows MOD bit 0. -/
def Flds.order (x : Flds) (ok : OrdKind → Bool) (cum nb : Bool) : Option Ord := do
  need (nfld x.md 2 2 == 0 && nfld x.md 1 1 == 0 && (nb || nfld x.md 0 1 == 0))
  let sc ← scopeOf (4 * nfld x.md 4 1 + nfld x.md 7 2)
  let k := ordOf (nfld x.md 5 2)
  need (k == .none || ok k)
  need (k != .none || sc == .thread)
  need (!cum || k.isRel)
  some ⟨k, sc, cum⟩

def okAcq : OrdKind → Bool | .acq => true | _ => false
def okRel : OrdKind → Bool | .rel => true | _ => false
def okAr : OrdKind → Bool | .ar => true | _ => false
def okAny : OrdKind → Bool | _ => true

/-- The rounding code of MOD (R69), with the rest of MOD zero but for `.mk` where `mk` allows it (R199, R203). -/
def Flds.rnd (x : Flds) (ok : Rnd → Bool) (mk : Bool) : Option (Rnd × Bool) := do
  need (nfld x.md 5 4 == 0 && nfld x.md 0 1 == 0 && (mk || nfld x.md 1 1 == 0))
  let r ← rndOf (nfld x.md 2 3)
  need (r == .rne || ok r)
  some (r, nfld x.md 1 1 == 1)

/-- Only `.mk` may be set. -/
def Flds.mkOnly (x : Flds) : Option Bool := do
  need (x.md == 0 || x.md == 2)
  some (x.md == 2)

def EFmt.isFloat : EFmt → Bool | .f32 => true | .f16 => true | .bf16 => true | _ => false
def EFmt.isInt : EFmt → Bool | .i8 => true | .i32 => true | _ => false
def EFmt.arith (f : EFmt) : Bool := f.isFloat || f.isInt

/-- R21: one pointer register may not appear twice with a post-increment on either appearance. -/
def ptrs2 (a b : PtrOp) : Bool := a.p != b.p || (!a.inc && !b.inc)
def ptrs3 (a b c : PtrOp) : Bool := ptrs2 a b && ptrs2 a c && ptrs2 b c

/-- R203: rounding codes of the arithmetic instructions by format. -/
def rndArith (f : EFmt) (r : Rnd) : Bool := f.isFloat || r == .sat
def rndInt (f : EFmt) (r : Rnd) : Bool := f.isInt && r == .sat
def rndSum (f : EFmt) (r : Rnd) : Bool := f.isFloat && r != .sat

/-- R215: the operator and format pairs VUPD accepts. -/
def vupdOk (op : KOp) (f : EFmt) : Bool :=
  match op with
  | .replace => f.isFloat || f.isInt
  | .iadd | .smin | .smax | .umin | .umax | .and | .or | .xor => f.isInt
  | .fsum | .fmin | .fmax => f.isFloat
  | .fadd64 => false

/-- R180: the widths ATOM accepts. -/
def atomOk (op : KOp) (wd : Width) (bf : Bool) : Bool :=
  match op with
  | .fsum | .fmin | .fmax => wd == .h || (wd == .w && !bf)
  | .fadd64 => wd == .d && !bf
  | _ => !bf

/-- T form with three register fields. -/
def Flds.t3 (x : Flds) (g : Reg → Reg → Reg → Instr) : Option Instr := do
  x.plain; some (g (← x.r1) (← x.r2) (← x.r3))
/-- T form with d and s; t reserved. -/
def Flds.t2 (x : Flds) (g : Reg → Reg → Instr) : Option Instr := do
  x.plain; x.z3; some (g (← x.r1) (← x.r2))
/-- T form with s and t; d reserved. -/
def Flds.st (x : Flds) (g : Reg → Reg → Instr) : Option Instr := do
  x.plain; x.z1; some (g (← x.r2) (← x.r3))
/-- T form with s alone. -/
def Flds.s1 (x : Flds) (g : Reg → Instr) : Option Instr := do
  x.plain; x.z1; x.z3; some (g (← x.r2))
/-- T form with d alone. -/
def Flds.d1 (x : Flds) (g : Reg → Instr) : Option Instr := do
  x.plain; x.z2; x.z3; some (g (← x.r1))
/-- T form with no field. -/
def Flds.z (x : Flds) (i : Instr) : Option Instr := do
  x.plain; x.z1; x.z2; x.z3; some i
/-- I form, ImmS (R160). -/
def Flds.iS (x : Flds) (g : Reg → Reg → W64 → Instr) : Option Instr := do
  x.noVar; x.noMod; need (x.p3 == 0); some (g (← x.r1) (← x.r2) (x.immS 5 (nfld x.w 0 5)))
/-- I form, ImmU bounded by 63 (R160). -/
def Flds.iU (x : Flds) (g : Reg → Reg → W64 → Instr) : Option Instr := do
  x.noVar; x.noMod; need (x.p3 == 0)
  let m := x.immU 5 (nfld x.w 0 5)
  need (m < 64)
  some (g (← x.r1) (← x.r2) (BitVec.ofNat 64 m))
/-- B form: s at F1, t at F2 (R162). -/
def Flds.bS (x : Flds) (g : Reg → Reg → W64 → Instr) : Option Instr := do
  x.noVar; x.noMod; need (x.p3 == 0); some (g (← x.r1) (← x.r2) (x.immS 5 (nfld x.w 0 5)))
/-- J form (R163). -/
def Flds.jS (x : Flds) (g : W64 → Instr) : Option Instr := do
  x.noVar; x.noMod; need (x.p1 == 0 && x.p2 == 0 && x.p3 == 0); some (g (x.immS 11 (nfld x.w 0 11)))
/-- One of four by f. -/
def pick4 (f : Nat) (a b c d : Option Instr) : Option Instr :=
  match f with | 0 => a | 1 => b | 2 => c | _ => d

/-- A cluster-core instruction that a Reed core refuses (R152). -/
def Flds.noReed (x : Flds) (i : Option Instr) : Option Instr := if x.reed then none else i

/-- Page 0 (R146). -/
def page0 (x : Flds) : Option Instr :=
  match nfld x.w 11 5 with
  | 0x00 => pick4 x.f (x.t3 .add) (x.t3 .sub) (x.t3 .mul) (x.t3 .mulh)
  | 0x01 => pick4 x.f (x.t3 .mulhu) (x.t3 .div) (x.t3 .divu) (x.t3 .rem)
  | 0x02 => pick4 x.f (x.t3 .and) (x.t3 .or) (x.t3 .xor) (x.t3 .andn)
  | 0x03 => pick4 x.f (x.t3 .shl) (x.t3 .shr) (x.t3 .sar) (x.t3 .ror)
  | 0x04 => pick4 x.f (x.t3 .slt) (x.t3 .sltu) (x.t3 .seq) (x.t3 .sne)
  | 0x05 => pick4 x.f (x.t3 .min) (x.t3 .max) (x.t3 .minu) (x.t3 .maxu)
  | 0x06 => pick4 x.f (x.t2 .clz) (x.t2 .ctz) (x.t2 .popc) (x.t2 .brev)
  | 0x07 => pick4 x.f (x.t3 .bfx) (x.t3 .bfxu) (x.t3 .bfi) (x.t3 .remu)
  | 0x08 => x.iS .addi
  | 0x09 => x.iS .andi
  | 0x0A => x.iS .ori
  | 0x0B => x.iS .xori
  | 0x0C => x.iU .shli
  | 0x0D => x.iU .shri
  | 0x0E => x.iU .sari
  | 0x0F => x.iS .slti
  | 0x10 => x.iS .sltiu
  | 0x11 => do
    x.noVar; x.noMod; need (x.p2 == 0 && x.p3 == 0)
    some (.li (← x.r1) (x.immS 8 (nfld x.w 0 8)))
  | 0x12 => do
    x.noVar; x.noMod; need (x.p2 == 0 && x.p3 == 0)
    let m := x.immU 8 (nfld x.w 0 8)
    need (m < 2 ^ 32)
    some (.lih (← x.r1) (BitVec.ofNat 64 m))
  | 0x13 => x.bS .beq
  | 0x14 => x.bS .bne
  | 0x15 => x.bS .blt
  | 0x16 => x.bS .bge
  | 0x17 => x.bS .bltu
  | 0x18 => x.bS .bgeu
  | 0x19 => x.noReed do
    x.noVar; x.noMod; need (x.p1 == 0 && x.p3 == 0 && x.f1 < 2)
    some (.loop (BitVec.ofNat 1 x.f1) (← x.r2) (x.immS 5 (nfld x.w 0 5)))
  | 0x1A => x.jS .jmp
  | 0x1B => x.noReed (x.jS .call)
  | 0x1C => pick4 x.f (x.s1 .jr) (x.noReed (x.s1 .callr)) (x.noReed (x.z .ret))
      (x.noReed do x.plain; x.z1; x.z2; some (.svc (BitVec.ofNat 5 (8 * x.p3 + x.f3))))
  | 0x1D => pick4 x.f (x.noReed (x.z .exit)) (x.z .nop) (x.noReed (x.s1 .setvl)) (x.noReed (x.t2 .launch))
  | 0x1E => pick4 x.f (x.noReed (x.d1 .rdstat)) (x.noReed (x.s1 .wrstat))
      (x.noReed do x.plain; x.z2; need (x.p3 == 0); some (.movfs (← x.r1) (← sregOf x.f3)))
      (x.noReed do
        x.plain; x.z1; need (x.p3 == 0)
        let sr ← sregOf x.f3
        need (sr != .vl)
        some (.movts sr (← x.r2)))
  | _ => none

/-- A Tm keyed update with a width (R179). -/
def Flds.updW (x : Flds) (g : Width → Ord → Reg → Reg → W64 → Instr) : Option Instr := do
  need (x.p3 == 0 && x.var < 2)
  let wd ← widthOf x.f
  let o ← x.order okRel (x.var == 1) false
  some (g wd o (← x.r1) (← x.r2) (x.immS 3 x.f3))

def Flds.updF (x : Flds) (g : FFmt → Ord → Reg → Reg → W64 → Instr) : Option Instr := do
  need (x.p3 == 0 && x.var < 2)
  let f ← fFmtOf x.f
  let o ← x.order okRel (x.var == 1) false
  some (g f o (← x.r1) (← x.r2) (x.immS 3 x.f3))

/-- LD and LD.s (R177, R178): VAR[1] is the scratchpad space, `.acq` alone, `.nb` global only. -/
def Flds.load (x : Flds) (g : Width → Bool → Bool → Ord → Reg → Reg → W64 → Instr) (signed : Bool) : Option Instr := do
  need (x.p3 == 0 && nfld x.var 0 1 == 0 && nfld x.var 2 1 == 0)
  let wd ← widthOf x.f
  need (!(signed && wd == .d))
  let sp := nfld x.var 1 1 == 1
  let nb := nfld x.md 0 1 == 1
  need (!(sp && nb) && !(x.reed && (sp || nb)))
  let o ← x.order okAcq false true
  some (g wd sp nb o (← x.r1) (← x.r2) (x.immS 3 x.f3))

/-- The scratchpad bit and the order of FILL, TAKE, PEEK and EMPTY (R176, R182). -/
def Flds.feMod (x : Flds) : Option (Bool × Ord) := do
  need (x.p3 == 0 && nfld x.var 2 1 == 0)
  let sp := nfld x.var 1 1 == 1
  need (!(x.reed && sp))
  let o ← x.order okAny (nfld x.var 0 1 == 1) false
  some (sp, o)

def Flds.fe (x : Flds) (g : Bool → Ord → Reg → Reg → W64 → Instr) : Option Instr := do
  let (sp, o) ← x.feMod
  some (g sp o (← x.r1) (← x.r2) (x.immS 3 x.f3))

def barScope (o : Ord) : Bool := o.ord == .none || (o.sc != .thread && o.sc != .core)

/-- Page 1 (R147, R176). -/
def page1 (x : Flds) : Option Instr :=
  match nfld x.w 11 5 with
  | 0x00 => x.load .ld false
  | 0x01 => x.load .ldS true
  | 0x02 => do
    need (x.p3 == 0 && nfld x.var 2 1 == 0)
    let wd ← widthOf x.f
    let sp := nfld x.var 1 1 == 1
    need (!(x.reed && sp))
    let o ← x.order okRel (nfld x.var 0 1 == 1) false
    some (.st wd sp o (← x.r1) (← x.r2) (x.immS 3 x.f3))
  | 0x03 => x.updW .iadd
  | 0x04 => x.updW .smin
  | 0x05 => x.updW .smax
  | 0x06 => x.updW .umin
  | 0x07 => x.updW .umax
  | 0x08 => x.updW .andUpdate
  | 0x09 => x.updW .orUpdate
  | 0x0A => x.updW .xorUpdate
  | 0x0B => x.updF .fsum
  | 0x0C => x.updF .fmin
  | 0x0D => x.updF .fmax
  | 0x0E => do
    need (x.p3 == 0 && x.var < 2 && x.f == 3)
    let o ← x.order okRel (x.var == 1) false
    some (.fadd64 o (← x.r1) (← x.r2) (x.immS 3 x.f3))
  | 0x0F => do
    x.noImm; need (nfld x.var 2 1 == 0)
    let op ← kopOf (8 * x.p3 + x.f3)
    let wd ← widthOf x.f
    let bf := nfld x.var 1 1 == 1
    need (atomOk op wd bf)
    let o ← x.order okAny (nfld x.var 0 1 == 1) false
    some (.atom op wd bf o (← x.r1) (← x.r2))
  | 0x10 => pick4 x.f (x.fe .fill) (x.fe .take) (x.fe .peek)
      (do x.z1; let (sp, o) ← x.feMod; some (.empty sp o (← x.r2) (x.immS 3 x.f3)))
  | 0x11 => pick4 x.f
      (do
        x.noImm; x.z1; x.z2; x.z3; need (x.var < 2)
        let o ← x.order okAny (x.var == 1) false
        need (o.ord != .none)
        some (.fence o))
      (do
        x.noImm; x.z1; x.z2; x.z3; x.noVar
        need (nfld x.md 5 2 == 0 && nfld x.md 0 4 == 0)
        let sc ← scopeOf (4 * nfld x.md 4 1 + nfld x.md 7 2)
        need (sc != .thread)
        some (.settle sc))
      (x.noReed do
        x.plain
        match 8 * x.p3 + x.f3 with
        | 0 => some (.mresolveRetry (← x.r1) (← x.r2))
        | 1 => some (.mresolveDrop (← x.r1) (← x.r2))
        | 2 => some (.mresolveCommit (← x.r1) (← x.r2))
        | _ => none)
      none
  | 0x12 => x.noReed do
    need (x.p2 == 0 && x.p3 == 0 && (x.md == 0 || x.md == 1)); x.noVar
    let m := x.immU 8 (nfld x.w 0 8)
    need (m < 0x10000)
    let nb := x.md == 1
    need (nb || (x.f1 == 0 && x.p1 == 0))
    some (.wait nb (← x.r1) (BitVec.ofNat 16 m))
  | 0x13 => x.noReed (pick4 x.f
      (do
        x.noImm; x.z1; x.z2; x.z3; need (x.var < 2)
        let o ← x.order okAr (x.var == 1) false
        need (barScope o)
        some (.bar o))
      (do
        x.noImm; x.z1; need (x.var < 2)
        let o ← x.order okAr (x.var == 1) false
        need (barScope o)
        some (.barp o (← x.r2) (← x.r3)))
      (do
        x.noImm; x.z1; need (x.var < 2)
        let o ← x.order okRel (x.var == 1) false
        some (.chpush o (← x.r2) (← x.r3)))
      (do
        x.noImm; x.z3; x.noVar
        let o ← x.order okAcq false false
        let d ← x.r1
        let r ← x.r2
        need (d != r)
        some (.chpop o d r)))
  | _ => none

def okFmt (p : EFmt → Bool) (f : EFmt) : Option EFmt := if p f then some f else none
def EFmt.any : EFmt → Bool | _ => true
def EFmt.notQ (f : EFmt) : Bool := f != .q4x

/-- dst, a, b with a rounding code (VADD to VFMA, VSHL). -/
def Flds.v3r (x : Flds) (p : EFmt → Bool) (ok : EFmt → Rnd → Bool) (g : EFmt → Rnd → Bool → PtrOp → PtrOp → PtrOp → Instr) :
    Option Instr := do
  x.noImm
  let f ← (eFmtOf x.var).bind (okFmt p)
  let (r, m) ← x.rnd (ok f) true
  let a ← x.q1; let b ← x.q2; let c ← x.q3
  need (ptrs3 a b c)
  some (g f r m a b c)

def Flds.v3 (x : Flds) (p : EFmt → Bool) (g : EFmt → Bool → PtrOp → PtrOp → PtrOp → Instr) : Option Instr :=
  x.v3r p (fun _ _ => false) (fun f _ m a b c => g f m a b c)

/-- dst, a with a rounding code; F3 reserved. -/
def Flds.v2r (x : Flds) (p : EFmt → Bool) (ok : EFmt → Rnd → Bool) (g : EFmt → Rnd → Bool → PtrOp → PtrOp → Instr) :
    Option Instr := do
  x.noImm; x.z3
  let f ← (eFmtOf x.var).bind (okFmt p)
  let (r, m) ← x.rnd (ok f) true
  let a ← x.q1; let b ← x.q2
  need (ptrs2 a b)
  some (g f r m a b)

def Flds.v2 (x : Flds) (p : EFmt → Bool) (g : EFmt → Bool → PtrOp → PtrOp → Instr) : Option Instr :=
  x.v2r p (fun _ _ => false) (fun f _ m a b => g f m a b)

/-- The `.rel` of VST, VUPD and VSCAT beside `.mk` (R199, R203). -/
def Flds.vOrder (x : Flds) : Option (Bool × Ord) := do
  let y := { x with md := if nfld x.md 1 1 == 1 then x.md - 2 else x.md }
  let o ← y.order okRel false false
  some (nfld x.md 1 1 == 1, o)

/-- Page 2 (R148, R195, R203). -/
def page2 (x : Flds) : Option Instr :=
  match nfld x.w 11 5 with
  | 0x00 => pick4 x.f (x.v3r EFmt.arith rndArith .vadd) (x.v3r EFmt.arith rndArith .vsub)
      (x.v3r EFmt.arith rndArith .vmul) (x.v3r EFmt.arith rndArith .vfma)
  | 0x01 => pick4 x.f (x.v3 EFmt.arith .vmin) (x.v3 EFmt.arith .vmax)
      (x.v2r EFmt.arith rndInt .vabs) (x.v2r EFmt.arith rndInt .vneg)
  | 0x02 => pick4 x.f (x.v3 EFmt.isInt .vand) (x.v3 EFmt.isInt .vor) (x.v3 EFmt.isInt .vxor)
      (x.v3r EFmt.isInt rndInt .vshl)
  | 0x03 => pick4 x.f (x.v3 EFmt.arith .vcmpeq) (x.v3 EFmt.arith .vcmpne) (x.v3 EFmt.arith .vcmplt) (x.v3 EFmt.arith .vcmple)
  | 0x04 => pick4 x.f
      (do
        x.noImm; x.z3
        let f ← (eFmtOf x.var).bind (okFmt EFmt.arith)
        let (r, mk) ← x.rnd (rndSum f) true
        some (.vsum f r mk (← x.r1) (← x.q2)))
      (do
        x.noImm; x.z3
        let f ← (eFmtOf x.var).bind (okFmt EFmt.arith)
        let mk ← x.mkOnly
        some (.vmaxr f mk (← x.r1) (← x.q2)))
      (x.v2r EFmt.arith rndArith .vscan)
      (do
        x.noImm
        let f ← (eFmtOf x.var).bind (okFmt EFmt.arith)
        let (r, mk) ← x.rnd (rndSum f) true
        let a ← x.q2; let b ← x.q3
        need (ptrs2 a b)
        some (.vdot f r mk (← x.r1) a b))
  | 0x05 => pick4 x.f
      (do
        x.noImm; x.z3
        let f ← (eFmtOf x.var).bind (okFmt EFmt.notQ)
        let mk ← x.mkOnly
        some (.vfill f mk (← x.q1) (← x.r2)))
      (x.v2 EFmt.any .vcopy)
      (do
        x.noImm; x.noMod
        let f ← (eFmtOf x.var).bind (okFmt EFmt.notQ)
        let a ← x.q1; let b ← x.q2; let c ← x.q3
        need (ptrs3 a b c)
        some (.vsel f a b c))
      (do
        x.noImm
        let f ← eFmtOf x.var
        let mk ← x.mkOnly
        let a ← x.q2; let b ← x.q3
        need (ptrs2 a b)
        some (.vnnz f mk (← x.r1) a b))
  | 0x06 => pick4 x.f
      (do
        x.noImm; x.z3
        let wd ← widthOf x.var
        let mk ← x.mkOnly
        some (.vld wd mk (← x.q1) (← x.r2)))
      (do
        x.noImm; x.z3
        let wd ← widthOf x.var
        let (mk, o) ← x.vOrder
        some (.vst wd mk o (← x.q1) (← x.r2)))
      (do
        x.noImm
        let f ← eFmtOf x.var
        let op ← kopOf (8 * x.p3 + x.f3)
        need (vupdOk op f)
        let (mk, o) ← x.vOrder
        some (.vupd op f mk o (← x.q1) (← x.r2)))
      (do
        x.noImm
        let wd ← widthOf x.var
        let mk ← x.mkOnly
        let a ← x.q1; let b ← x.q2
        need (ptrs2 a b)
        some (.vgath wd mk a b (← x.r3)))
  | 0x07 => pick4 x.f
      (do
        x.noImm
        let wd ← widthOf x.var
        let (mk, o) ← x.vOrder
        let a ← x.q1; let b ← x.q2
        need (ptrs2 a b)
        some (.vscat wd mk o a b (← x.r3)))
      (do x.plain; x.z3; need (x.p1 == 0); some (.pset (BitVec.ofNat 3 x.f1) (← x.r2)))
      (do x.plain; x.z3; need (x.p2 == 0); some (.pget (← x.r1) (BitVec.ofNat 3 x.f2)))
      (do x.plain; x.z3; need (x.p1 == 0); some (.padd (BitVec.ofNat 3 x.f1) (← x.r2)))
  | _ => none

/-- Page 3 (R149, R153, R218, R219). -/
def page3 (x : Flds) : Option Instr :=
  match nfld x.w 11 5 with
  | 0x00 => pick4 x.f
      (do
        x.noImm
        let src ← eFmtOf x.var
        let dst ← eFmtOf (8 * x.p3 + x.f3)
        need (src != dst)
        let (r, mk) ← x.rnd (fun _ => true) true
        let a ← x.q1; let b ← x.q2
        need (ptrs2 a b)
        some (.vcvt src dst r mk a b))
      (do
        x.noImm
        let src ← (eFmtOf x.var).bind (okFmt EFmt.notQ)
        let dst ← (eFmtOf (8 * x.p3 + x.f3)).bind (okFmt EFmt.notQ)
        need (src != dst)
        let (r, _) ← x.rnd (fun _ => true) false
        some (.cvt src dst r (← x.r1) (← x.r2)))
      (do
        x.noImm; x.z3
        let src ← (eFmtOf x.var).bind (okFmt EFmt.notQ)
        let (r, _) ← x.rnd (fun _ => true) false
        some (.cvtToF64 src r (← x.r1) (← x.r2)))
      (do
        x.noImm; x.noVar
        let dst ← (eFmtOf (8 * x.p3 + x.f3)).bind (okFmt EFmt.notQ)
        let (r, _) ← x.rnd (fun _ => true) false
        some (.cvtFromF64 dst r (← x.r1) (← x.r2)))
  | 0x01 => pick4 x.f (x.v2 EFmt.isFloat .vexp2) (x.v2 EFmt.isFloat .vlog2) (x.v2 EFmt.isFloat .vrcp) (x.v2 EFmt.isFloat .vrsqrt)
  | 0x02 => pick4 x.f (x.v2 EFmt.isFloat .vsin2pi) (x.v2 EFmt.isFloat .vtanh) none none
  | _ => none

/-- R221: the codes MLATCH accepts, and those MSTREAM and MDEND accept. -/
def EFmt.weight : EFmt → Bool | .q4x => true | .i8 => true | .fe4 => true | .fe5 => true | .bf16 => true | .f16 => true | _ => false
def EFmt.activ : EFmt → Bool | .i8 => true | .fe4 => true | .fe5 => true | .f16 => true | .bf16 => true | _ => false

/-- Page 4 (R150, R221, R251). -/
def page4 (x : Flds) : Option Instr :=
  match nfld x.w 11 5 with
  | 0x00 => pick4 x.f (x.t2 .oclaim) (x.st .orel) (x.t3 .ofill) none
  | 0x01 => pick4 x.f
      (do
        x.noImm; x.noMod; x.z1; x.z3
        let f ← (eFmtOf x.var).bind (okFmt EFmt.weight)
        some (.mlatch f (← x.r2)))
      (do
        x.noImm; x.noMod
        let f ← (eFmtOf x.var).bind (okFmt EFmt.activ)
        some (.mstream f (← x.r1) (← x.r2) (← x.r3)))
      (do
        x.noImm; x.noMod
        let f ← (eFmtOf x.var).bind (okFmt EFmt.activ)
        some (.mdend f (← x.r1) (← x.r2) (← x.r3)))
      (x.st .mcurve)
  | 0x02 => pick4 x.f (x.z .rowdone) (x.t3 .gstart) none none
  | _ => none

/-- R254: d names an even register from w0 to w22. -/
def evenW (r : Reg) : Bool := r.toNat % 2 == 0 && r.toNat ≤ 22
def Flds.copy (x : Flds) (g : Reg → Reg → Reg → Instr) : Option Instr := do
  x.plain
  let d ← x.r1
  need (evenW d)
  some (g d (← x.r2) (← x.r3))

/-- Page 5 (R150, R252, R263, R267, R285). RSEND with both fields w0 is the reply form (R267); SLCTL decodes as its STATUS row. -/
def page5 (x : Flds) : Option Instr :=
  match nfld x.w 11 5 with
  | 0x00 => pick4 x.f (x.copy .copy) (x.copy .copym) none none
  | 0x01 => pick4 x.f (x.t3 .wbin) (x.t3 .wreplay) (x.t3 .wclass) none
  | 0x02 => pick4 x.f
      (do
        x.noImm; x.noMod; need (x.var < 4)
        let d ← x.r1
        need (!(decide (16 ≤ d.toNat) && decide (d.toNat ≤ 23)))
        some (.ferry (nfld x.var 1 1 == 1) (nfld x.var 0 1 == 1) d (← x.r2) (← x.r3)))
      (x.st .ixred)
      (x.st fun a b => if a = 0#5 ∧ b = 0#5 then .rsendReply else .rsend a b)
      (x.t3 .slctlStatus)
  | 0x03 => pick4 x.f (x.t3 .tissue) none none none
  | _ => none

/-- Is a page-6 word assigned (R151)? -/
def assigned6 (w : Nat) : Bool :=
  match nfld w 11 5 with
  | 0x00 => true
  | 0x01 => true
  | 0x02 => nfld w 0 2 < 3
  | 0x03 => nfld w 0 2 < 2
  | _ => false

/-- Page 6 (R151, R321). XINV decodes as its PAGE row. -/
def page6 (x : Flds) : Option Instr :=
  match nfld x.w 11 5 with
  | 0x00 => do
    x.noVar; x.noMod; need (x.p2 == 0 && x.p3 == 0)
    let m := x.immU 8 (nfld x.w 0 8)
    need (m < 512)
    some (.srd (← x.r1) (BitVec.ofNat 9 m))
  | 0x01 => do
    x.noVar; x.noMod; need (x.p2 == 0 && x.p3 == 0)
    let m := x.immU 8 (nfld x.w 0 8)
    need (m < 512)
    some (.swr (BitVec.ofNat 9 m) (← x.r1))
  | 0x02 => pick4 x.f (x.z .tret) (x.t3 .ctxsw) (x.t3 .xinvPage) none
  | 0x03 => pick4 x.f (x.t3 .savectx) (x.t3 .loadctx) none none
  | _ => none

/-- Page 7 (R151, R270, R276): Reed cores only. -/
def page7 (x : Flds) : Option Instr :=
  match nfld x.w 11 5 with
  | 0x00 => pick4 x.f (x.st .sluld) (x.st .slugo) (x.s1 .sluwt) (x.t2 .slurd)
  | 0x01 => pick4 x.f (x.s1 .tkset) (x.s1 .tkclr) (x.z .tkend) (x.st .ovswap)
  | _ => none

/-- The base word under its page, in R141's order. -/
def decodeBase (c : CoreKind) (p : Pre) (w : Nat) : Option (Option Instr) :=
  let x := Flds.ofWord c.reed p w
  match p.pg.getD 0 with
  | 0 => some (page0 x)
  | 1 => some (page1 x)
  | 2 => some (x.noReed (page2 x))
  | 3 => some (x.noReed (page3 x))
  | 4 => some (x.noReed (page4 x))
  | 5 => some (x.noReed (page5 x))
  | 6 => if c.reed || !assigned6 w then some none else if c.user then none else some (page6 x)
  | 7 => some (if c.reed then page7 x else none)
  | _ => some none

/-- Gather one prefix word, or refuse it (R140, R141). `n` prefixes came before it. -/
def addPrefix (n : Nat) (p : Pre) (w : Nat) : Option Pre :=
  if n = 4 then none
  else match nfld w 9 2 with
    | 0 => some { p with imms := p.imms ++ [nfld w 0 9] }
    | 1 => if p.rg.isSome then none else some { p with rg := some (nfld w 0 9) }
    | 2 => if p.pg.isSome || nfld w 0 9 == 0 || 7 < nfld w 0 9 then none else some { p with pg := some (nfld w 0 9) }
    | _ => if p.md.isSome then none else some { p with md := some (nfld w 0 9) }

/-- R141 from the n-th word on; `fuel` bounds the words still looked at. -/
def decodeFrom (c : CoreKind) (fetch : Nat → FetchR) : Nat → Nat → Pre → DecR
  | 0, _, _ => .illegal
  | fuel + 1, n, p =>
    match fetch n with
    | .fault => .fetchFault n
    | .wait => .fetchWait n
    | .word w =>
      if nfld w 11 5 = 0x1F then
        match addPrefix n p w with
        | none => .illegal
        | some p' => decodeFrom c fetch fuel (n + 1) p'
      else match decodeBase c p w with
        | none => .privileged
        | some none => .illegal
        | some (some i) => .ok i (2 * n + 2)

/-- FetchDecode of R141. -/
def decode (c : CoreKind) (fetch : Nat → FetchR) : DecR := decodeFrom c fetch 5 0 ⟨[], none, none, none⟩

/-- The fetch of a list of words. -/
def fetchList (ws : List Nat) (n : Nat) : FetchR := match ws[n]? with | some w => .word w | none => .fault

/-- A Gleaner word (R247, R248): a nonzero reserved field or an undefined OP has no instruction. -/
def decodeGleaner (w : Nat) : Option Instr :=
  let d : JReg := BitVec.ofNat 4 (nfld w 22 4)
  let a : JReg := BitVec.ofNat 4 (nfld w 18 4)
  let b : JReg := BitVec.ofNat 4 (nfld w 14 4)
  let imm : BitVec 18 := BitVec.ofNat 18 (nfld w 0 18)
  let off : BitVec 14 := BitVec.ofNat 14 (nfld w 0 14)
  let r3 (g : JReg → JReg → JReg → Instr) : Option Instr := if off = 0#14 then some (g d a b) else none
  let c2 (g : JReg → JReg → BitVec 14 → Instr) : Option Instr := if d = 0#4 then some (g a b off) else none
  match nfld w 26 6 with
  | 0x00 => if nfld w 0 26 = 0 then some .gnop else none
  | 0x01 => r3 .gadd
  | 0x02 => r3 .gsub
  | 0x03 => r3 .gmul
  | 0x04 => r3 .gand
  | 0x05 => r3 .gor
  | 0x06 => r3 .gxor
  | 0x07 => some (.gaddi d a imm)
  | 0x08 => if a = 0#4 then some (.gli d imm) else none
  | 0x09 => some (.gshli d a imm)
  | 0x0A => some (.gshri d a imm)
  | 0x0B => r3 .ghash
  | 0x0C => some (.gldw d a imm)
  | 0x0D => some (.gldd d a imm)
  | 0x0E => some (.glds d a imm)
  | 0x0F => c2 .gbeq
  | 0x10 => c2 .gbne
  | 0x11 => c2 .gbltu
  | 0x12 => if d = 0#4 ∧ a = 0#4 then some (.gjmp imm) else none
  | 0x13 => if a = 0#4 then some (.gdjnz d imm) else none
  | 0x14 => if d = 0#4 then some (.gappg a imm) else none
  | 0x15 => if d = 0#4 then some (.gapps a imm) else none
  | 0x16 => if d = 0#4 ∧ a = 0#4 then some (.gappz imm) else none
  | 0x17 => if d = 0#4 ∧ nfld w 0 18 = 0 then some (.gappj a) else none
  | 0x18 => if nfld w 0 26 = 0 then some .gend else none
  | _ => none

/-- A Sluice micro-op (R273): unused fields must be 0, FMT 0 on RLD, RST, PINC, LOOP and END. -/
def decodeSluice (w : Nat) : Option Instr :=
  let u : SluF := ⟨BitVec.ofNat 2 (nfld w 10 2), BitVec.ofNat 1 (nfld w 9 1), BitVec.ofNat 1 (nfld w 8 1), BitVec.ofNat 2 (nfld w 6 2), BitVec.ofNat 6 (nfld w 0 6)⟩
  let g (b : Bool) (i : Instr) : Option Instr := if b then some i else none
  let z := SluF.mk 0#2 0#1 0#1 0#2 0#6
  match nfld w 12 4 with
  | 0 => g (decide (u = z)) (.sluNop u)
  | 1 => g (decide ({ u with a := 0#1, n := 0#2 } = z)) (.rld u)
  | 2 => g (decide ({ u with a := 0#1, n := 0#2 } = z)) (.rst u)
  | 3 => g (decide ({ u with fmt := 0#2, a := 0#1, b := 0#1 } = z)) (.sluVadd u)
  | 4 => g (decide ({ u with fmt := 0#2, a := 0#1, n := 0#2 } = z)) (.vmuls u)
  | 5 => g (decide ({ u with fmt := 0#2, a := 0#1, b := 0#1, n := 0#2 } = z)) (.vfmas u)
  | 6 => g (decide ({ u with n := 0#2, imm := 0#6 } = z)) (.pinc u)
  | 7 => g (decide (u = z)) (.sluLoop u)
  | 8 => g (decide (u = z)) (.sluEnd u)
  | _ => none

/-- The instruction the decoder reads from bits numbered as spec/opcode_table.json numbers them. A 16-bit row is a page-0 base
word. A 32-bit row with a prefix word in bits 31 to 16 is that PAGE word followed by the base word in bits 15 to 0, as the
part stores them (R130, R139); any other 32-bit row is a Gleaner word (R247). Page 7 is read as a Reed core reads it. (log 8) -/
def decodeTableWord (nbits w : Nat) : Option Instr :=
  if nbits ≤ 16 then
    match decode ⟨false, false⟩ (fetchList [w % 65536]) with | .ok i _ => some i | _ => none
  else if nfld w 27 5 = 0x1F then
    match decode ⟨nfld w 16 16 == 0xFC07, false⟩ (fetchList [nfld w 16 16, nfld w 0 16]) with | .ok i _ => some i | _ => none
  else decodeGleaner (w % 2 ^ 32)

/-! The encoder: the words of an instruction in the order zas emits them, PAGE, REG, MOD, IMM, base (R139, R20). -/

def bv (v n : Nat) : Nat := v % 2 ^ n

/-- The fields of an instruction to encode: page, major, F1 F2 F3 with pairs as 5-bit numbers (pair ‖ field), f, VAR, MOD. -/
structure Enc where
  pg : Nat
  major : Nat
  r1 : Nat := 0
  r2 : Nat := 0
  r3 : Nat := 0
  f : Nat := 0
  var : Nat := 0
  md : Nat := 0
  deriving DecidableEq, Repr

def Enc.rg (e : Enc) : Nat := (e.r1 / 8) * 128 + (e.r2 / 8) * 32 + (e.r3 / 8) * 8 + e.var
def Enc.pre (e : Enc) : List Nat :=
  (if e.pg = 0 then [] else [0xFC00 + e.pg]) ++ (if e.rg = 0 then [] else [0xFA00 + e.rg]) ++
  (if e.md = 0 then [] else [0xFE00 + e.md])

/-- The words of a form without an immediate. -/
def Enc.words (e : Enc) : List Nat :=
  e.pre ++ [e.major * 2048 + (e.r1 % 8) * 256 + (e.r2 % 8) * 32 + (e.r3 % 8) * 4 + e.f]

/-- The least number of IMM prefixes, at most four, by which an `n`-bit base field holds the signed value (R20). -/
def immCountS (n : Nat) (v : W64) : Nat :=
  if sext64 n v.toNat = v then 0 else if sext64 (n + 9) v.toNat = v then 1
  else if sext64 (n + 18) v.toNat = v then 2 else if sext64 (n + 27) v.toNat = v then 3 else 4

/-- The same for an unsigned value. -/
def immCountU (n : Nat) (v : Nat) : Nat :=
  if v < 2 ^ n then 0 else if v < 2 ^ (n + 9) then 1 else if v < 2 ^ (n + 18) then 2 else if v < 2 ^ (n + 27) then 3 else 4

/-- `k` IMM words, most significant payload first, of the bits of `v` above the base field's `n` (R135). -/
def immWords (n : Nat) (v : Nat) : Nat → List Nat
  | 0 => []
  | k + 1 => (0xF800 + nfld v (n + 9 * k) 9) :: immWords n v k

/-- I and B forms: imm5 in [4:0]. -/
def Enc.imm5S (e : Enc) (v : W64) : List Nat :=
  e.pre ++ immWords 5 v.toNat (immCountS 5 v) ++ [e.major * 2048 + (e.r1 % 8) * 256 + (e.r2 % 8) * 32 + nfld v.toNat 0 5]
def Enc.imm5U (e : Enc) (v : Nat) : List Nat :=
  e.pre ++ immWords 5 v (immCountU 5 v) ++ [e.major * 2048 + (e.r1 % 8) * 256 + (e.r2 % 8) * 32 + nfld v 0 5]
/-- K form: imm8 in [7:0]. -/
def Enc.imm8S (e : Enc) (v : W64) : List Nat :=
  e.pre ++ immWords 8 v.toNat (immCountS 8 v) ++ [e.major * 2048 + (e.r1 % 8) * 256 + nfld v.toNat 0 8]
def Enc.imm8U (e : Enc) (v : Nat) : List Nat :=
  e.pre ++ immWords 8 v (immCountU 8 v) ++ [e.major * 2048 + (e.r1 % 8) * 256 + nfld v 0 8]
/-- J form: off11 in [10:0]. -/
def Enc.imm11S (e : Enc) (v : W64) : List Nat :=
  e.pre ++ immWords 11 v.toNat (immCountS 11 v) ++ [e.major * 2048 + nfld v.toNat 0 11]
/-- Tm form: off3 in [4:2]. -/
def Enc.tm (e : Enc) (v : W64) : List Nat :=
  e.pre ++ immWords 3 v.toNat (immCountS 3 v) ++
    [e.major * 2048 + (e.r1 % 8) * 256 + (e.r2 % 8) * 32 + nfld v.toNat 0 3 * 4 + e.f]

def ordMd (o : Ord) (nb : Bool) : Nat :=
  (o.sc.code % 4) * 128 + o.ord.code * 32 + (o.sc.code / 4) * 16 + b2n nb
def rndMd (r : Rnd) (m : Bool) : Nat := r.code * 4 + 2 * b2n m
def PtrOp.num (q : PtrOp) : Nat := 8 * b2n q.inc + q.p.toNat

def e3 (major f : Nat) (d a b : Reg) (pg : Nat := 0) : List Nat := Enc.words { pg := pg, major := major, r1 := d.toNat, r2 := a.toNat, r3 := b.toNat, f := f }
def e2 (major f : Nat) (d a : Reg) (pg : Nat := 0) : List Nat := Enc.words { pg := pg, major := major, r1 := d.toNat, r2 := a.toNat, f := f }
def eSt (major f : Nat) (a b : Reg) (pg : Nat := 0) : List Nat := Enc.words { pg := pg, major := major, r2 := a.toNat, r3 := b.toNat, f := f }
def eS (major f : Nat) (a : Reg) (pg : Nat := 0) : List Nat := Enc.words { pg := pg, major := major, r2 := a.toNat, f := f }
def eD (major f : Nat) (d : Reg) (pg : Nat := 0) : List Nat := Enc.words { pg := pg, major := major, r1 := d.toNat, f := f }
def eZ (major f : Nat) (pg : Nat := 0) : List Nat := Enc.words { pg := pg, major := major, f := f }
def eI (major : Nat) (d a : Reg) (m : W64) : List Nat := Enc.imm5S { pg := 0, major := major, r1 := d.toNat, r2 := a.toNat } m
def eIU (major : Nat) (d a : Reg) (m : W64) : List Nat := Enc.imm5U { pg := 0, major := major, r1 := d.toNat, r2 := a.toNat } m.toNat
def eTm (major f var : Nat) (o : Ord) (nb : Bool) (d a : Reg) (off : W64) : List Nat :=
  Enc.tm { pg := 1, major := major, r1 := d.toNat, r2 := a.toNat, f := f, var := var, md := ordMd o nb } off
def eV3 (major f : Nat) (fm : EFmt) (md : Nat) (a b c : PtrOp) : List Nat :=
  Enc.words { pg := 2, major := major, r1 := a.num, r2 := b.num, r3 := c.num, f := f, var := fm.code, md := md }
def eV2 (pg major f : Nat) (fm : EFmt) (md : Nat) (a b : PtrOp) : List Nat :=
  Enc.words { pg := pg, major := major, r1 := a.num, r2 := b.num, f := f, var := fm.code, md := md }

/-- The words of an instruction of pages 0 to 7; none for events, Gleaner words and micro-ops, and for the rows that
another row's encoding stands for (SLCTL ABORT, XINV CONTEXT, RANGE and ALL). -/
def encode : Instr → Option (List Nat)
  | .add d a b => some (e3 0x00 0 d a b) | .sub d a b => some (e3 0x00 1 d a b)
  | .mul d a b => some (e3 0x00 2 d a b) | .mulh d a b => some (e3 0x00 3 d a b)
  | .mulhu d a b => some (e3 0x01 0 d a b) | .div d a b => some (e3 0x01 1 d a b)
  | .divu d a b => some (e3 0x01 2 d a b) | .rem d a b => some (e3 0x01 3 d a b)
  | .remu d a b => some (e3 0x07 3 d a b)
  | .and d a b => some (e3 0x02 0 d a b) | .or d a b => some (e3 0x02 1 d a b)
  | .xor d a b => some (e3 0x02 2 d a b) | .andn d a b => some (e3 0x02 3 d a b)
  | .shl d a b => some (e3 0x03 0 d a b) | .shr d a b => some (e3 0x03 1 d a b)
  | .sar d a b => some (e3 0x03 2 d a b) | .ror d a b => some (e3 0x03 3 d a b)
  | .slt d a b => some (e3 0x04 0 d a b) | .sltu d a b => some (e3 0x04 1 d a b)
  | .seq d a b => some (e3 0x04 2 d a b) | .sne d a b => some (e3 0x04 3 d a b)
  | .min d a b => some (e3 0x05 0 d a b) | .max d a b => some (e3 0x05 1 d a b)
  | .minu d a b => some (e3 0x05 2 d a b) | .maxu d a b => some (e3 0x05 3 d a b)
  | .clz d a => some (e2 0x06 0 d a) | .ctz d a => some (e2 0x06 1 d a)
  | .popc d a => some (e2 0x06 2 d a) | .brev d a => some (e2 0x06 3 d a)
  | .bfx d a b => some (e3 0x07 0 d a b) | .bfxu d a b => some (e3 0x07 1 d a b) | .bfi d a b => some (e3 0x07 2 d a b)
  | .addi d a m => some (eI 0x08 d a m) | .andi d a m => some (eI 0x09 d a m) | .ori d a m => some (eI 0x0A d a m)
  | .xori d a m => some (eI 0x0B d a m) | .shli d a m => some (eIU 0x0C d a m) | .shri d a m => some (eIU 0x0D d a m)
  | .sari d a m => some (eIU 0x0E d a m) | .slti d a m => some (eI 0x0F d a m) | .sltiu d a m => some (eI 0x10 d a m)
  | .li d m => some (Enc.imm8S { pg := 0, major := 0x11, r1 := d.toNat } m)
  | .lih d m => some (Enc.imm8U { pg := 0, major := 0x12, r1 := d.toNat } m.toNat)
  | .beq a b m => some (eI 0x13 a b m) | .bne a b m => some (eI 0x14 a b m) | .blt a b m => some (eI 0x15 a b m)
  | .bge a b m => some (eI 0x16 a b m) | .bltu a b m => some (eI 0x17 a b m) | .bgeu a b m => some (eI 0x18 a b m)
  | .loop l c m => some (Enc.imm5S { pg := 0, major := 0x19, r1 := l.toNat, r2 := c.toNat } m)
  | .jmp m => some (Enc.imm11S { pg := 0, major := 0x1A } m) | .call m => some (Enc.imm11S { pg := 0, major := 0x1B } m)
  | .jr a => some (eS 0x1C 0 a) | .callr a => some (eS 0x1C 1 a) | .ret => some (eZ 0x1C 2)
  | .svc c => some (Enc.words { pg := 0, major := 0x1C, r3 := c.toNat, f := 3 })
  | .exit => some (eZ 0x1D 0) | .nop => some (eZ 0x1D 1) | .setvl a => some (eS 0x1D 2 a) | .launch d a => some (e2 0x1D 3 d a)
  | .rdstat d => some (eD 0x1E 0 d) | .wrstat a => some (eS 0x1E 1 a)
  | .movfs d r => some (Enc.words { pg := 0, major := 0x1E, r1 := d.toNat, r3 := r.code, f := 2 })
  | .movts r a => some (Enc.words { pg := 0, major := 0x1E, r2 := a.toNat, r3 := r.code, f := 3 })
  | .ld w sp nb o d a m => some (eTm 0x00 w.code (2 * b2n sp) o nb d a m)
  | .ldS w sp nb o d a m => some (eTm 0x01 w.code (2 * b2n sp) o nb d a m)
  | .st w sp o d a m => some (eTm 0x02 w.code (2 * b2n sp + b2n o.cum) o false d a m)
  | .iadd w o d a m => some (eTm 0x03 w.code (b2n o.cum) o false d a m)
  | .smin w o d a m => some (eTm 0x04 w.code (b2n o.cum) o false d a m)
  | .smax w o d a m => some (eTm 0x05 w.code (b2n o.cum) o false d a m)
  | .umin w o d a m => some (eTm 0x06 w.code (b2n o.cum) o false d a m)
  | .umax w o d a m => some (eTm 0x07 w.code (b2n o.cum) o false d a m)
  | .andUpdate w o d a m => some (eTm 0x08 w.code (b2n o.cum) o false d a m)
  | .orUpdate w o d a m => some (eTm 0x09 w.code (b2n o.cum) o false d a m)
  | .xorUpdate w o d a m => some (eTm 0x0A w.code (b2n o.cum) o false d a m)
  | .fsum f o d a m => some (eTm 0x0B f.code (b2n o.cum) o false d a m)
  | .fmin f o d a m => some (eTm 0x0C f.code (b2n o.cum) o false d a m)
  | .fmax f o d a m => some (eTm 0x0D f.code (b2n o.cum) o false d a m)
  | .fadd64 o d a m => some (eTm 0x0E 3 (b2n o.cum) o false d a m)
  | .atom op w bf o d a => some (Enc.words { pg := 1, major := 0x0F, r1 := d.toNat, r2 := a.toNat, r3 := op.code, f := w.code, var := 2 * b2n bf + b2n o.cum, md := ordMd o false })
  | .fill sp o d a m => some (eTm 0x10 0 (2 * b2n sp + b2n o.cum) o false d a m)
  | .take sp o d a m => some (eTm 0x10 1 (2 * b2n sp + b2n o.cum) o false d a m)
  | .peek sp o d a m => some (eTm 0x10 2 (2 * b2n sp + b2n o.cum) o false d a m)
  | .empty sp o a m => some (eTm 0x10 3 (2 * b2n sp + b2n o.cum) o false 0#5 a m)
  | .fence o => some (Enc.words { pg := 1, major := 0x11, var := b2n o.cum, md := ordMd o false })
  | .settle sc => some (Enc.words { pg := 1, major := 0x11, f := 1, md := ordMd ⟨.none, sc, false⟩ false })
  | .mresolveRetry d a => some (Enc.words { pg := 1, major := 0x11, r1 := d.toNat, r2 := a.toNat, f := 2 })
  | .mresolveDrop d a => some (Enc.words { pg := 1, major := 0x11, r1 := d.toNat, r2 := a.toNat, r3 := 1, f := 2 })
  | .mresolveCommit d a => some (Enc.words { pg := 1, major := 0x11, r1 := d.toNat, r2 := a.toNat, r3 := 2, f := 2 })
  | .wait nb d l => some (Enc.imm8U { pg := 1, major := 0x12, r1 := d.toNat, md := b2n nb } l.toNat)
  | .bar o => some (Enc.words { pg := 1, major := 0x13, var := b2n o.cum, md := ordMd o false })
  | .barp o a b => some (Enc.words { pg := 1, major := 0x13, r2 := a.toNat, r3 := b.toNat, f := 1, var := b2n o.cum, md := ordMd o false })
  | .chpush o a b => some (Enc.words { pg := 1, major := 0x13, r2 := a.toNat, r3 := b.toNat, f := 2, var := b2n o.cum, md := ordMd o false })
  | .chpop o d a => some (Enc.words { pg := 1, major := 0x13, r1 := d.toNat, r2 := a.toNat, f := 3, md := ordMd o false })
  | .vadd f r m a b c => some (eV3 0x00 0 f (rndMd r m) a b c) | .vsub f r m a b c => some (eV3 0x00 1 f (rndMd r m) a b c)
  | .vmul f r m a b c => some (eV3 0x00 2 f (rndMd r m) a b c) | .vfma f r m a b c => some (eV3 0x00 3 f (rndMd r m) a b c)
  | .vmin f m a b c => some (eV3 0x01 0 f (rndMd .rne m) a b c) | .vmax f m a b c => some (eV3 0x01 1 f (rndMd .rne m) a b c)
  | .vabs f r m a b => some (eV2 2 0x01 2 f (rndMd r m) a b) | .vneg f r m a b => some (eV2 2 0x01 3 f (rndMd r m) a b)
  | .vand f m a b c => some (eV3 0x02 0 f (rndMd .rne m) a b c) | .vor f m a b c => some (eV3 0x02 1 f (rndMd .rne m) a b c)
  | .vxor f m a b c => some (eV3 0x02 2 f (rndMd .rne m) a b c) | .vshl f r m a b c => some (eV3 0x02 3 f (rndMd r m) a b c)
  | .vcmpeq f m a b c => some (eV3 0x03 0 f (rndMd .rne m) a b c) | .vcmpne f m a b c => some (eV3 0x03 1 f (rndMd .rne m) a b c)
  | .vcmplt f m a b c => some (eV3 0x03 2 f (rndMd .rne m) a b c) | .vcmple f m a b c => some (eV3 0x03 3 f (rndMd .rne m) a b c)
  | .vsum f r m d a => some (Enc.words { pg := 2, major := 0x04, r1 := d.toNat, r2 := a.num, var := f.code, md := rndMd r m })
  | .vmaxr f m d a => some (Enc.words { pg := 2, major := 0x04, r1 := d.toNat, r2 := a.num, f := 1, var := f.code, md := rndMd .rne m })
  | .vscan f r m a b => some (eV2 2 0x04 2 f (rndMd r m) a b)
  | .vdot f r m d a b => some (Enc.words { pg := 2, major := 0x04, r1 := d.toNat, r2 := a.num, r3 := b.num, f := 3, var := f.code, md := rndMd r m })
  | .vfill f m a r => some (Enc.words { pg := 2, major := 0x05, r1 := a.num, r2 := r.toNat, var := f.code, md := rndMd .rne m })
  | .vcopy f m a b => some (eV2 2 0x05 1 f (rndMd .rne m) a b)
  | .vsel f a b c => some (eV3 0x05 2 f 0 a b c)
  | .vnnz f m d a b => some (Enc.words { pg := 2, major := 0x05, r1 := d.toNat, r2 := a.num, r3 := b.num, f := 3, var := f.code, md := rndMd .rne m })
  | .vld w m a r => some (Enc.words { pg := 2, major := 0x06, r1 := a.num, r2 := r.toNat, var := w.code, md := rndMd .rne m })
  | .vst w m o a r => some (Enc.words { pg := 2, major := 0x06, r1 := a.num, r2 := r.toNat, f := 1, var := w.code, md := ordMd o false + 2 * b2n m })
  | .vupd op f m o a r => some (Enc.words { pg := 2, major := 0x06, r1 := a.num, r2 := r.toNat, r3 := op.code, f := 2, var := f.code, md := ordMd o false + 2 * b2n m })
  | .vgath w m a b r => some (Enc.words { pg := 2, major := 0x06, r1 := a.num, r2 := b.num, r3 := r.toNat, f := 3, var := w.code, md := rndMd .rne m })
  | .vscat w m o a b r => some (Enc.words { pg := 2, major := 0x07, r1 := a.num, r2 := b.num, r3 := r.toNat, var := w.code, md := ordMd o false + 2 * b2n m })
  | .pset p r => some (Enc.words { pg := 2, major := 0x07, r1 := p.toNat, r2 := r.toNat, f := 1 })
  | .pget d p => some (Enc.words { pg := 2, major := 0x07, r1 := d.toNat, r2 := p.toNat, f := 2 })
  | .padd p r => some (Enc.words { pg := 2, major := 0x07, r1 := p.toNat, r2 := r.toNat, f := 3 })
  | .vcvt src dst r m a b => some (Enc.words { pg := 3, major := 0x00, r1 := a.num, r2 := b.num, r3 := dst.code, var := src.code, md := rndMd r m })
  | .cvt src dst r d a => some (Enc.words { pg := 3, major := 0x00, r1 := d.toNat, r2 := a.toNat, r3 := dst.code, f := 1, var := src.code, md := rndMd r false })
  | .cvtToF64 src r d a => some (Enc.words { pg := 3, major := 0x00, r1 := d.toNat, r2 := a.toNat, f := 2, var := src.code, md := rndMd r false })
  | .cvtFromF64 dst r d a => some (Enc.words { pg := 3, major := 0x00, r1 := d.toNat, r2 := a.toNat, r3 := dst.code, f := 3, md := rndMd r false })
  | .vexp2 f m a b => some (eV2 3 0x01 0 f (rndMd .rne m) a b) | .vlog2 f m a b => some (eV2 3 0x01 1 f (rndMd .rne m) a b)
  | .vrcp f m a b => some (eV2 3 0x01 2 f (rndMd .rne m) a b) | .vrsqrt f m a b => some (eV2 3 0x01 3 f (rndMd .rne m) a b)
  | .vsin2pi f m a b => some (eV2 3 0x02 0 f (rndMd .rne m) a b) | .vtanh f m a b => some (eV2 3 0x02 1 f (rndMd .rne m) a b)
  | .oclaim d a => some (e2 0x00 0 d a 4) | .orel a b => some (eSt 0x00 1 a b 4) | .ofill d a b => some (e3 0x00 2 d a b 4)
  | .mlatch f a => some (Enc.words { pg := 4, major := 0x01, r2 := a.toNat, var := f.code })
  | .mstream f d a b => some (Enc.words { pg := 4, major := 0x01, r1 := d.toNat, r2 := a.toNat, r3 := b.toNat, f := 1, var := f.code })
  | .mdend f d a b => some (Enc.words { pg := 4, major := 0x01, r1 := d.toNat, r2 := a.toNat, r3 := b.toNat, f := 2, var := f.code })
  | .mcurve a b => some (eSt 0x01 3 a b 4) | .rowdone => some (eZ 0x02 0 4) | .gstart d a b => some (e3 0x02 1 d a b 4)
  | .copy d a b => some (e3 0x00 0 d a b 5) | .copym d a b => some (e3 0x00 1 d a b 5)
  | .wbin d a b => some (e3 0x01 0 d a b 5) | .wreplay d a b => some (e3 0x01 1 d a b 5) | .wclass d a b => some (e3 0x01 2 d a b 5)
  | .ferry cl tt d a b => some (Enc.words { pg := 5, major := 0x02, r1 := d.toNat, r2 := a.toNat, r3 := b.toNat, var := 2 * b2n cl + b2n tt })
  | .ixred a b => some (eSt 0x02 1 a b 5) | .rsend a b => some (eSt 0x02 2 a b 5) | .rsendReply => some (eZ 0x02 2 5)
  | .slctlStatus d a b => some (e3 0x02 3 d a b 5) | .tissue d a b => some (e3 0x03 0 d a b 5)
  | .srd d n => some (Enc.imm8U { pg := 6, major := 0x00, r1 := d.toNat } n.toNat)
  | .swr n d => some (Enc.imm8U { pg := 6, major := 0x01, r1 := d.toNat } n.toNat)
  | .tret => some (eZ 0x02 0 6) | .ctxsw d a b => some (e3 0x02 1 d a b 6) | .xinvPage d a b => some (e3 0x02 2 d a b 6)
  | .savectx d a b => some (e3 0x03 0 d a b 6) | .loadctx d a b => some (e3 0x03 1 d a b 6)
  | .sluld a b => some (eSt 0x00 0 a b 7) | .slugo a b => some (eSt 0x00 1 a b 7) | .sluwt a => some (eS 0x00 2 a 7)
  | .slurd d a => some (e2 0x00 3 d a 7) | .tkset a => some (eS 0x01 0 a 7) | .tkclr a => some (eS 0x01 1 a 7)
  | .tkend => some (eZ 0x01 2 7) | .ovswap a b => some (eSt 0x01 3 a b 7)
  | _ => none

def gR (op : Nat) (d a b : JReg) : Nat := op * 2 ^ 26 + d.toNat * 2 ^ 22 + a.toNat * 2 ^ 18 + b.toNat * 2 ^ 14
def gI (op : Nat) (d a : JReg) (m : BitVec 18) : Nat := op * 2 ^ 26 + d.toNat * 2 ^ 22 + a.toNat * 2 ^ 18 + m.toNat
def gC (op : Nat) (a b : JReg) (o : BitVec 14) : Nat := op * 2 ^ 26 + a.toNat * 2 ^ 18 + b.toNat * 2 ^ 14 + o.toNat

/-- The word of a Gleaner instruction (R247, R248). -/
def encodeGleaner : Instr → Option Nat
  | .gnop => some 0
  | .gadd d a b => some (gR 0x01 d a b) | .gsub d a b => some (gR 0x02 d a b) | .gmul d a b => some (gR 0x03 d a b)
  | .gand d a b => some (gR 0x04 d a b) | .gor d a b => some (gR 0x05 d a b) | .gxor d a b => some (gR 0x06 d a b)
  | .gaddi d a m => some (gI 0x07 d a m) | .gli d m => some (gI 0x08 d 0#4 m) | .gshli d a m => some (gI 0x09 d a m)
  | .gshri d a m => some (gI 0x0A d a m) | .ghash d a b => some (gR 0x0B d a b)
  | .gldw d a m => some (gI 0x0C d a m) | .gldd d a m => some (gI 0x0D d a m) | .glds d a m => some (gI 0x0E d a m)
  | .gbeq a b o => some (gC 0x0F a b o) | .gbne a b o => some (gC 0x10 a b o) | .gbltu a b o => some (gC 0x11 a b o)
  | .gjmp m => some (gI 0x12 0#4 0#4 m) | .gdjnz d m => some (gI 0x13 d 0#4 m)
  | .gappg a m => some (gI 0x14 0#4 a m) | .gapps a m => some (gI 0x15 0#4 a m) | .gappz m => some (gI 0x16 0#4 0#4 m)
  | .gappj a => some (gI 0x17 0#4 a 0#18) | .gend => some (0x18 * 2 ^ 26)
  | _ => none

def sluW (op : Nat) (u : SluF) : Nat :=
  op * 4096 + u.fmt.toNat * 1024 + u.a.toNat * 512 + u.b.toNat * 256 + u.n.toNat * 64 + u.imm.toNat

/-- The 16 bits of a Sluice micro-op (R273). -/
def encodeSluice : Instr → Option Nat
  | .sluNop u => some (sluW 0 u) | .rld u => some (sluW 1 u) | .rst u => some (sluW 2 u) | .sluVadd u => some (sluW 3 u)
  | .vmuls u => some (sluW 4 u) | .vfmas u => some (sluW 5 u) | .pinc u => some (sluW 6 u) | .sluLoop u => some (sluW 7 u)
  | .sluEnd u => some (sluW 8 u)
  | _ => none

end Sys2Proof
end

