-- ==== Sys2Proof/Agent.lean ====
section
/-!
DEFINITION. Agent.lean: who moves next, and the arguments of an event. Both are plain data (DESIGN CHOICE, log 1).
-/
namespace Sys2Proof

/-- The arguments of an event. Each event's meaning says which it reads: the unit it concerns, a count of elements, keys or
bytes, values that come from outside the part. -/
structure EvArgs where
  /-- partition, by its lowest die (R360) -/
  p    : Nat
  die  : Nat
  clu  : Nat
  ctx  : Nat
  core : Nat
  /-- an operation, queue, pseudo-channel, launch, group or port number -/
  q    : Nat
  /-- a second number: bank group, tile, sender, device -/
  u    : Nat
  /-- how far the step goes -/
  n    : Nat
  ti   : SlotId
  run  : RunId
  flag : Bool
  v    : W64
  ws   : List W64
  wr   : List (Nat × W64)
  req  : PeerReq
  deriving DecidableEq, Repr

/-- No arguments. -/
def EvArgs.zero : EvArgs :=
  ⟨0, 0, 0, 0, 0, 0, 0, 0, ⟨0, 0, 0, 0, 0⟩, .rick 0, false, 0#64, [], [], .load 0 .d⟩

/-- The agents (INVENTORY.md, Agents). -/
inductive Agent where
  /-- a cluster thread's issue turn (R26) -/
  | thread (ti : SlotId)
  /-- the Reed core of pseudo-channel q (R268) -/
  | reed (q : Nat)
  /-- the Gleaner of a cluster (R245) -/
  | gleaner (die clu : Nat)
  /-- the Sluice unit of bank group g (R273) -/
  | sluice (q g : Nat)
  /-- an event of the part -/
  | event (i : Instr) (e : EvArgs)
  /-- n clk pass -/
  | clk (n : Nat)
  /-- the granary of a die replaces a line (R99), or the instruction cache of one of its clusters does (R144) -/
  | granaryDrop (die line : Nat)
  /-- a host agent writes one byte of host memory (R371) -/
  | hostWrite (addr : Nat) (b : Byte)
  deriving DecidableEq, Repr

end Sys2Proof
end

