-- ==== Sys2Proof/Config.lean ====
section
/-!
DEFINITION. Config.lean: what the manual leaves open. Every name here is opaque: nothing can evaluate it and no proof can
lean on a value of it. Each carries the log entry that declares it.
-/
namespace Sys2Proof

/-- The agent that moves next when the agenda is empty (R26, R44, R109, R127: the order is the part's). DESIGN CHOICE, log 1. -/
opaque Config.choose : Nat → Option Agent
/-- A free doubleword, one for each value of the counter State holds. DESIGN CHOICE, log 20. -/
opaque Config.freeWord : Nat → W64
/-- A byte of a scratchpad slice that the group placed as `epoch` has not written (R85). DESIGN CHOICE, log 4. -/
opaque Config.spByte : (epoch addr : Nat) → Byte
/-- A byte of an operand slot that nothing has written since it was released (R222). DESIGN CHOICE, log 17. -/
opaque Config.opByte : (epoch addr : Nat) → Byte
/-- Which of 16 differing level-4 entries of a C64 block an access uses (R351). DESIGN CHOICE, log 19. -/
opaque Config.c64Pick : Nat → Nat
/-- A byte of host memory that nothing in the model has written (R370). DESIGN CHOICE, log 26. -/
opaque Config.hostByte : Nat → Byte
/-- What a firmware-defined Steading register reads as (R368). DESIGN CHOICE, log 27. -/
opaque Config.steadingRead : (count addr : Nat) → W64
/-- The images in SPI flash: 0 and 1 the copies of stage 1, 2 the stage-2 runtime, 3 the command-processor firmware, later ones as firmware
has them; with each its HSS signature and the top public key that comes with it (R378, R379). DESIGN CHOICE, log 15. -/
opaque Config.flashImage : Nat → List Byte
opaque Config.flashSig : Nat → List Byte
opaque Config.flashKey : Nat → List Byte
/-- The SHA-256 of the top public key that the fuses hold (R379). DESIGN CHOICE, log 15. -/
opaque Config.fuseKey : List Byte
/-- The fuse and sparing maps measured into MEAS1 (R378). DESIGN CHOICE, log 15. -/
opaque Config.fuseMaps : List Byte
/-- What stage 2 writes through the SYS window, and how many lanes each Causeway port trains on (R369, R378). DESIGN CHOICE, log 15. -/
opaque Config.bootWrites : List (Nat × W64)
opaque Config.bootLanes : List W64
/-- What firmware and the fabric give at bring-up (R360, R375): the Causeway ports of the partition whose lowest die is p, the devices that
plane i reaches (bit by bit, in three words), and whether it offers 112 Gb/s alone. DESIGN CHOICE, log 15. -/
opaque Config.bootPorts : Nat → BitVec 24
opaque Config.bootPlane : Nat → List W64
opaque Config.bootSlow : Nat → Bool
/-- The identity key pair (R380): the name of a tree, the secret start of a chain of its leaf q, and the leaf's salt. Tree 0 is the top
tree, tree t + 1 the one below its leaf t. DESIGN CHOICE, log 15. -/
opaque Config.treeName : (tree : Nat) → List Byte
opaque Config.otsSecret : (tree q chain : Nat) → List Byte
opaque Config.otsSalt : (tree q : Nat) → List Byte
/-- Has the port of a root complex AtomicOp requests enabled (R370)? DESIGN CHOICE, log 26. -/
opaque Config.hostAtomics : Nat → Bool
end Sys2Proof
end

