-- ==== Sys2Proof/Machine/Types.lean ====
section
/-!
DEFINITION. Types.lean: the records State is made of: Fen entries (R89), thread slots (R53), groups and launches (R31 to R37),
the matrix array (R229), the Gleaner (R245), engines (R254 to R262), FERRY and Reed cores (R263 to R272), Sluice units (R273),
Tilth (R285 to R295), translation (R350 to R356), queues (R339) and the integrity hardware (R359 to R366). All plain data.
-/
namespace Sys2Proof.Machine
open Sys2Proof

/-- An FSUM wide cell (R75): C of 320 bits with PINF, NINF and NANS. -/
structure Cell where
  c    : Int
  pinf : Bool
  ninf : Bool
  nans : Bool
  deriving DecidableEq, Repr

/-- Whose update an entry carries: the launch and the thread's number (R43, R108; the model's bookkeeping, log 8). -/
structure Owner where
  launch : Nat
  uid    : Nat
  deriving DecidableEq, Repr

/-- A run entry (R89), beside the model's bookkeeping of releases (owners, marks), age and handle. -/
structure Entry where
  word   : Nat
  op     : KOp
  width  : Width
  be     : BitVec 8
  bf     : Bool
  held   : Bool
  ctx    : Nat
  qtag   : Nat
  val    : W64
  cell   : Cell
  owners : List Owner
  marks  : List Nat
  born   : Nat
  handle : Nat
  /-- held in the home rick run as a hand-off (R104) -/
  pendHome : Bool
  /-- the datum is poisoned (R364) -/
  poison : Bool
  deriving DecidableEq, Repr

/-- A run (R90): its entries in ascending WORD order, the entries the merge in progress has still to move (each by its word, with the
handle of a resolved hand-off or 0), and whether a merge is asked for (R91). -/
structure Run where
  ents : List Entry
  todo : List (Nat × Nat)
  want : Bool
  deriving DecidableEq, Repr

def Run.zero : Run := ⟨[], [], false⟩

/-- A sent entry awaiting admission (R119, R120). -/
structure Sent where
  e     : Entry
  snd   : Nat
  home  : Nat
  seq   : Nat
  stamp : List Nat
  deriving DecidableEq, Repr

/-- Where an update's value comes from: known at issue, or a scratchpad element read when it is inserted (R215, R217). -/
inductive InsSrc where
  | val (v : W64)
  | sp (grp addr : Nat)
  deriving DecidableEq, Repr

/-- A formed update waiting to be inserted (R87, R112). `uop` numbers the instruction: UPDATES falls when none of it remains. -/
structure Ins where
  ti    : SlotId
  owner : Owner
  uop   : Nat
  key   : Nat
  op    : KOp
  width : Width
  bf    : Bool
  ctx   : Nat
  qtag  : Nat
  src   : InsSrc
  /-- the number of its place in a host's or a peer's stream, 0 for device memory (R123, R371) -/
  req   : Nat
  /-- it stands in the sheaf run, or in its stream; it stays listed until every element of its instruction does (R109) -/
  stands : Bool
  deriving DecidableEq, Repr

/-- A granary line (R99) with the vector that came with its fill (R120) and its poisoned words (R364). -/
structure GLine where
  line  : Nat
  bytes : List Byte
  cvec  : List Nat
  bad   : List Nat
  deriving DecidableEq, Repr

/-- What a thread slot holds: a group's thread, a row handler on slot 15 (R235), a ferry-slot handler on slot 14 (R266). -/
inductive TKind where | group | rowH | ferryH
  deriving DecidableEq, Repr

/-- A full/empty or channel operation that a parked thread retries (R102, R183). -/
structure FeOp where
  /-- 0 FILL, 1 TAKE, 2 PEEK -/
  kind  : Nat
  sp    : Bool
  /-- physical key address, or the context-view scratchpad address -/
  addr  : Nat
  rd    : Nat
  val   : W64
  acq   : Option Scope
  /-- a channel handle register and its next value (R191) -/
  hreg  : Option (Nat × W64)
  listed : Bool
  woken : Bool
  ord   : Nat
  deriving DecidableEq, Repr

/-- How a thread's wait for a peer's answer may end early: not at all, with a pre-emption (a full/empty or channel operation, R183), or with a
context switch as well (a load with an order suffix, R128). -/
inductive PeerWait where | stays | parks | ordered
  deriving DecidableEq, Repr

/-- Why a thread is not ready (R26, R61, R102, R125). -/
inductive Wait where
  | no
  | word (o : FeOp)
  /-- out of the rotation for an engine handoff -/
  | engine
  /-- an answer of a peer device (R125) -/
  | peer (id : Nat) (how : PeerWait)
  /-- a walk for a page -/
  | walk (vpn : Nat)
  /-- the scheduler's answer to LAUNCH -/
  | sched
  /-- the clusters that a CTXSW switches (R331): the instruction has left the thread -/
  | cmd
  deriving DecidableEq, Repr

/-- How far an instruction that takes several turns has come. All of it goes when the instruction completes, traps or is abandoned (R128). -/
structure Phase where
  /-- 0 no release begun, 1 waiting, 2 complete -/
  rel   : Nat
  relSc : Scope
  cum   : Bool
  mark  : Nat
  /-- the instruction's own stage -/
  stage : Nat
  aux   : Nat
  /-- its length in bytes, kept while it is out of the rotation -/
  len   : Nat
  /-- an answer that has come: a peer's (R125), a unit's (R277), the scheduler's (R170) -/
  ans   : Option (List W64)
  /-- a walk answered with a fault for this page (R356) -/
  xfault : Option Nat
  /-- what the instruction read before its release: the scratchpad words (R285), the keys of its elements (R216) -/
  copied : List W64
  deriving DecidableEq, Repr

def Phase.zero : Phase := ⟨0, .thread, false, 0, 0, 0, 0, none, none, []⟩

/-- A thread slot's state (R53, R58, R318), with the model's own bookkeeping. -/
structure Thread where
  live  : Bool
  kind  : TKind
  grp   : Nat
  tidx  : Nat
  uid   : Nat
  phys  : Vector W64 128
  h     : Vector W64 8
  p     : Vector (BitVec 32) 8
  vl    : BitVec 13
  lc0   : W64
  ls0   : W64
  le0   : W64
  lc1   : W64
  ls1   : W64
  le1   : W64
  flags : BitVec 9
  wb    : BitVec 3
  bot   : BitVec 3
  depth : BitVec 16
  det   : Bool
  loads   : Nat
  updates : Nat
  copies  : Nat
  tiles   : Nat
  pc    : W64
  callCtr : BitVec 16
  tpc   : W64
  taddr : W64
  tcause : W64
  tstat : W64
  tscr  : Vector W64 4
  wsp   : W64
  /-- supervisor level (R317) -/
  sup   : Bool
  /-- faults due at the next boundary: trap code and record address (R253, R329) -/
  due   : List (Nat × Nat)
  wait  : Wait
  ph    : Phase
  /-- completion scopes of operations no WAIT has counted yet (R127) -/
  doneOps : List Scope
  /-- an LD.nb.acq is incomplete (R178) -/
  acqPend : Nat
  /-- stopped by containment (R37) or by consuming poison (R364) -/
  halted : Bool
  /-- a ferry-slot handler's call: source and id (R266) -/
  call : Option (Nat × Nat)
  /-- poisoned registers, by their places (R364) -/
  rpois : List Nat
  deriving DecidableEq, Repr

/-- The state of R53 at a thread's first instruction, every register at its reset value. -/
def Thread.zero : Thread :=
  { live := false, kind := .group, grp := 0, tidx := 0, uid := 0
    phys := Vector.replicate 128 0#64, h := Vector.replicate 8 0#64, p := Vector.replicate 8 0#32, vl := 1#13
    lc0 := 0#64, ls0 := 0#64, le0 := 0#64, lc1 := 0#64, ls1 := 0#64, le1 := 0#64
    flags := 0#9, wb := 0#3, bot := 0#3, depth := 0#16, det := false
    loads := 0, updates := 0, copies := 0, tiles := 0, pc := 0#64, callCtr := 0#16
    tpc := 0#64, taddr := 0#64, tcause := 0#64, tstat := 0#64, tscr := Vector.replicate 4 0#64, wsp := 0#64
    sup := false, due := [], wait := .no, ph := Phase.zero, doneOps := [], acqPend := 0, halted := false, call := none, rpois := [] }

/-- One element of a load in flight: key address, where it goes (a scratchpad view address), and for a peer's key its place in the
stream and the peer's answer (R123). -/
structure LElem where
  key  : Nat
  dst  : Nat
  req  : Nat
  ans  : Option W64
  /-- folded and in its place -/
  done : Bool
  deriving DecidableEq, Repr

/-- An LD.nb, VLD or VGATH in flight (R178, R214). -/
structure LoadOp where
  id    : Nat
  ti    : SlotId
  uid   : Nat
  grp   : Nat
  /-- LD.nb: the destination's physical register, or 128 + i for h register i -/
  reg   : Option Nat
  signed : Bool
  width : Width
  acq   : Option Scope
  elems : List LElem
  deriving DecidableEq, Repr

/-- A named barrier (R188). -/
structure BarP where
  tag  : Nat
  mask : W64
  arrived : List Nat
  deriving DecidableEq, Repr

/-- A placed group and its node (R31, R32, R37). -/
structure Group where
  launch : Nat
  gi    : Nat
  die   : Nat
  clu   : Nat
  ctx   : Nat
  row   : Nat
  n     : Nat
  spBase : Nat
  spSize : Nat
  opPhys : List Nat
  claimed : List Nat
  /-- threads (by index) that have not executed EXIT -/
  live  : List Nat
  ended : Bool
  contained : Bool
  contains : Bool
  /-- threads that have arrived at the barrier in progress, and threads an opening has released that have still to go on -/
  barArr : List Nat
  barRel : List Nat
  barps : List (Nat × BarP)
  barpRel : List (Nat × Nat)
  wd    : Nat
  issued : Bool
  deriving DecidableEq, Repr

/-- How a launch arrived (R38). -/
inductive Origin where
  | queue (p q idx : Nat)
  | thread (ti : SlotId) (uid : Nat)
  | record (p q idx : Nat)
  deriving DecidableEq, Repr

/-- A live or ended launch region (R34 to R37, R343 to R346). -/
structure Launch where
  p      : Nat
  ctx    : Nat
  /-- physical address of the RCB, none for a record's launch -/
  rcb    : Option Nat
  /-- the template of a record's launch, its physical address as its acceptance found it (R40) -/
  tmpl   : Option Nat
  tag    : Nat
  /-- the parent launch region; none: the device region -/
  parent : Option Nat
  entry  : W64
  args   : W64
  groups : Nat
  size   : Nat
  rowh   : Bool
  prio   : Nat
  contain : Bool
  gcontain : Bool
  det    : Bool
  cohort : Bool
  place  : Nat
  pDie   : Nat
  pClu   : Nat
  narrow : Bool
  wide   : Bool
  dies   : Nat
  spGroup : Nat
  opGroup : Nat
  slotBud : Nat
  spBud  : Nat
  opBud  : Nat
  domain : Nat
  quota  : Nat
  qtag   : Nat
  next   : Nat
  done   : Nat
  state  : Nat
  /-- when it was accepted or last placed a group (R345) -/
  accAt  : Nat
  origin : Origin
  /-- groups that have ended and whose count its RCB does not show yet, and the count it shows (R34, R35) -/
  endQ   : List Nat
  seen   : Nat
  deriving DecidableEq, Repr

/-- The device region of a context (R34, R338); state 4: the RCB was refused, and there is no device region. -/
structure DevReg where
  rcb     : Nat
  prio    : Nat
  slotBud : Nat
  spBud   : Nat
  opBud   : Nat
  domain  : Nat
  quota   : Nat
  det     : Bool
  state   : Nat
  deriving DecidableEq, Repr

/-- A submission awaiting the scheduler (R38, R170, R343). -/
structure Sub where
  va     : Nat
  ctx    : Nat
  p      : Nat
  origin : Origin
  args   : Option W64
  groups : Option Nat
  tag    : Nat
  deriving DecidableEq, Repr

/-- An entry of a context's array queue (R228 to R231, R239, R243, R291). -/
structure MOp where
  /-- 0 MLATCH, 1 MSTREAM, 2 MDEND, 3 MCURVE, 4 a tile -/
  kind  : Nat
  ti    : SlotId
  uid   : Nat
  grp   : Nat
  fmt   : EFmt
  s     : W64
  t     : W64
  hentry : W64
  /-- has reached the head and acted there -/
  begun : Bool
  /-- rows not yet entered, in increasing order -/
  rows  : List Nat
  /-- rows entered and not yet drained: row and its FP32 codes, with the tap words -/
  out   : List (Nat × List Nat × List Nat)
  /-- drained rows waiting for a handler: row, buffer, tap words -/
  ready : List (Nat × Nat × List Nat)
  drained : Nat
  bufUse : List Nat
  /-- the buffer of the row whose handler runs -/
  inFlight : Option Nat
  consumed : Bool
  cfg   : List Byte
  bw    : List Byte
  /-- a tile's TISSUE and its number -/
  tile  : Nat × Nat
  deriving DecidableEq, Repr

/-- The matrix array of one context (R229). -/
structure MArray where
  tile   : List Byte
  fmt    : Option EFmt
  owner  : Nat
  acc    : List (Nat × List Nat)
  curves : List (Nat × List Byte)
  queue  : List MOp
  /-- poisoned SRAM of the array: 0 the latch, 1 a curve's slot, 2 a row of accumulators (R363, R364) -/
  bad    : List (Nat × Nat)
  deriving DecidableEq, Repr

def MArray.zero : MArray := ⟨[], none, 0, [], [], [], []⟩

/-- A GSTART waiting or running (R245, R246). -/
structure GJob where
  id    : Nat
  ti    : SlotId
  uid   : Nat
  grp   : Nat
  rd    : Nat
  block : Nat
  first : W64
  store : List Nat
  j     : Vector W64 16
  pc    : Nat
  plen  : Nat
  outslot : Nat
  nslot : Nat
  off   : Nat
  rows  : W64
  deriving DecidableEq, Repr

/-- A copy in a copy engine (R254 to R257). -/
structure CopyOp where
  id    : Nat
  die   : Nat
  eng   : Nat
  /-- the issuing thread, or a queue entry -/
  ti    : Option SlotId
  uid   : Nat
  grp   : Nat
  clu   : Nat
  ctx   : Nat
  qent  : Option (Nat × Nat × Nat)
  sup   : Bool
  first : W64
  multi : Bool
  d0    : W64
  d1    : W64
  s     : W64
  t     : W64
  row   : Nat
  byte  : Nat
  /-- COPYM: members (device, base) and those still to answer -/
  mem   : List (Nat × Nat)
  await : List Nat
  lost  : List Nat
  /-- a fault has stopped it, and what it has written still completes: cause, RESUME, FADDR (R253, R257) -/
  stop  : Option (Nat × W64 × W64)
  /-- the source words read last, by address, and the one asked of a peer (R125, R256) -/
  buf   : List (W64 × W64)
  want  : W64
  /-- it has written to a peer's keys: its completion is a release at .sys (R125) -/
  sys   : Bool
  deriving DecidableEq, Repr

/-- A Winnow operation (R259 to R261): kind 0 WBIN, 1 WREPLAY, 2 WCLASS. -/
structure WinOp where
  id    : Nat
  kind  : Nat
  die   : Nat
  ti    : SlotId
  uid   : Nat
  grp   : Nat
  clu   : Nat
  ctx   : Nat
  sup   : Bool
  det   : Bool
  first : W64
  d     : W64
  s     : W64
  t     : W64
  pos   : Nat
  /-- the header words, once they have been read -/
  hdr   : Option (List W64)
  /-- WREPLAY: COUNT of the region whose elements the loft holds (R260) -/
  staged : Option Nat
  /-- the owner number its entries carry: 0, or the TISSUE whose tile it runs (R287) -/
  own   : Nat
  /-- how it stops, while its table cannot take the report: cause, region, faulting address -/
  halt  : Option (Nat × Nat × W64) := none
  deriving DecidableEq, Repr

/-- A message to a Reed channel (R267, R269, R271): kind 0 FERRY, 1 RSEND, 2 IXRED, 3 SEND of a queue, 4 from a peer. -/
structure Msg where
  kind  : Nat
  q     : Nat
  chan  : Nat
  src   : Nat
  ctx   : Nat
  id    : Nat
  entry : Nat
  pay   : List W64
  ti    : Option SlotId
  uid   : Nat
  qent  : Option (Nat × Nat × Nat)
  first : W64
  tile  : Option (Nat × Nat)
  deriving DecidableEq, Repr

/-- How a call id stands at a target (R265): finished with a reply, queued or running, or dropped. -/
inductive IdState where
  | finished (status : Nat) (pay : List W64)
  | active
  | dropped
  deriving DecidableEq, Repr

/-- A FERRY in progress (R264, R265). -/
structure Call where
  ti    : SlotId
  uid   : Nat
  rd    : Nat
  tt    : Bool
  id    : Nat
  cl    : Bool
  /-- target pseudo-channel, or die·96 + cluster; a peer device's unit when `peer` -/
  tgt   : Nat
  peer  : Option Nat
  entry : Nat
  pay   : List W64
  src   : Nat
  ctx   : Nat
  sends : Nat
  /-- copies of the call under way, each with its retransmission mark -/
  inFly : List Bool
  reply : Option (Nat × List W64)
  /-- the FERRY has returned: only copies still under way are left -/
  ended : Bool
  deriving DecidableEq, Repr

/-- A cluster call waiting for slot 14 (R266). -/
structure CCall where
  src   : Nat
  id    : Nat
  ctx   : Nat
  entry : Nat
  pay   : List W64
  deriving DecidableEq, Repr

/-- A Reed core (R268, R269). -/
structure Reed where
  e      : Vector W64 16
  ov0    : Option (List Byte)
  ov1    : Option (List Byte)
  table  : List Nat
  queue  : List Msg
  task   : Option Msg
  pc     : W64
  ids    : List (Nat × List (Nat × IdState))
  retired : Bool
  wait   : Phase
  deriving DecidableEq, Repr

/-- A Reed core at reset (log 13). -/
def Reed.zero : Reed := ⟨Vector.replicate 16 0#64, none, none, List.replicate 16 0, [], none, 0#64, [], false, Phase.zero⟩

/-- A Sluice unit (R273, R276). -/
structure Sluice where
  prog  : List Nat
  a0    : List Nat
  a1    : List Nat
  p     : List (BitVec 32)
  sc    : List (BitVec 32)
  count : Nat
  iter  : Nat
  upc   : Nat
  busy  : Bool
  susp  : Bool
  endc  : Nat
  nv    : Bool
  of    : Bool
  uf    : Bool
  nx    : Bool
  /-- an arbitration window is open (R274) -/
  win   : Bool
  deriving DecidableEq, Repr

def Sluice.zero : Sluice :=
  ⟨List.replicate 16 0, [], [], List.replicate 4 0#32, List.replicate 4 0#32, 0, 0, 0, false, false, 0, false, false, false, false, false⟩

/-- A die's share of a record's tiles (R290, R295). -/
structure DieTiles where
  die   : Nat
  lo    : Nat
  hi    : Nat
  next  : Nat
  prog  : List (Nat × Nat)
  done  : List Nat
  /-- reported faults: tile, CAUSE, CLUSTER, FADDR, PART -/
  faults : List (Nat × Nat × Nat × Nat × Nat)
  /-- the number of each claim in progress: tile, number (R357) -/
  began : List (Nat × Nat) := []
  deriving DecidableEq, Repr

/-- The number of a tile's claim. -/
def DieTiles.claimNo (d : DieTiles) (t : Nat) : Nat := ((d.began.find? fun x => x.1 == t).map (·.2)).getD 0

/-- An incomplete TISSUE (R285 to R297). -/
structure Tissue where
  id    : Nat
  p     : Nat
  ctx   : Nat
  ti    : SlotId
  uid   : Nat
  grp   : Nat
  sup   : Bool
  ftz   : Bool
  det   : Bool
  first : W64
  status : Nat
  recs  : List (List W64)
  idx   : Nat
  /-- 0 the record has still to start, 1 tiles run, 2 a fault is being gathered, 3 ready to complete, 4 at a peer -/
  st    : Nat
  stop  : Bool
  dies  : List DieTiles
  tcount : Nat
  flags : Nat
  cause : Nat
  level : Nat
  dev   : Nat
  fdie  : Nat
  fclu  : Nat
  ftile : Nat
  faddr : Nat
  part  : Nat
  sys   : Bool
  /-- RESUME: the record, the masks of the status block, the faulting tile and its PART -/
  resume : Option (Nat × List (Nat × Nat) × Nat × Nat)
  /-- record forwarded here by a peer: `uid` is the peer's request and `status` the peer (R288) -/
  remote : Bool
  /-- DNEXT and DMASK of every die, as a peer answered them -/
  peerMask : List (Nat × Nat)
  deriving DecidableEq, Repr

/-- A range entry (R350), its four doublewords. -/
structure RangeE where
  w0 : W64
  w1 : W64
  w2 : W64
  w3 : W64
  deriving DecidableEq, Repr

/-- A cached page translation (R355): context, first page, log2 of its 4 KiB pages, physical page, WR EX USR. -/
structure XEnt where
  ctx  : Nat
  vpn  : Nat
  size : Nat
  ppn  : Nat
  wr   : Bool
  ex   : Bool
  usr  : Bool
  deriving DecidableEq, Repr

/-- A walk or miss (R356): the threads that wait for it, and by number what else does (engines, tiles, Gleaners, the part itself). -/
structure Walk where
  ctx  : Nat
  vpn  : Nat
  who  : List SlotId
  units : List Nat
  deriving DecidableEq, Repr

/-- A channel binding (R192): ring base, writer and reader as launch, group, thread. -/
structure Bind where
  base : Nat
  wr   : Option (Nat × Nat × Nat)
  rd   : Option (Nat × Nat × Nat)
  deriving DecidableEq, Repr

/-- A fault record (R328) before it is written, as its 16 doublewords, with whom an engine record goes to. -/
structure FRec where
  kind  : Nat
  words : List W64
  ti    : Option SlotId
  uid   : Nat
  deriving DecidableEq, Repr

/-- A queue entry that has been taken and not yet completed (R341, R342): 1 LAUNCH, 2 COPY, 3 TASK, 4 SEND, 5 MARK, 0 record. -/
structure QEnt where
  idx   : Nat
  op    : Nat
  stok  : Nat
  /-- the number its own writes carry (R342) -/
  own   : Nat
  done  : Bool
  deriving DecidableEq, Repr

/-- A command queue as the part holds it while it runs (R339 to R342). -/
structure Queue where
  base   : Nat
  logN   : Nat
  typ    : Nat
  prio   : Nat
  ctx    : Nat
  serial : Bool
  narrow : Bool
  wide   : Bool
  sup    : Bool
  dies   : Nat
  head   : Nat
  state  : Nat
  stop   : Bool
  /-- the entry taken and not yet acted on: its index and words -/
  cur    : Option (Nat × List W64)
  /-- its token wait is over -/
  tokOk  : Bool
  ents   : List QEnt
  /-- completed entries whose signal has begun its cumulative release: index, and the mark it waits on (R342) -/
  rels   : List (Nat × Nat) := []
  deriving DecidableEq, Repr

/-- An update or a flush in a root complex's stream (R370, R371). -/
structure HUpd where
  id    : Nat
  addr  : Nat
  op    : KOp
  width : Width
  bf    : Bool
  val   : W64
  owner : Owner
  /-- its value is known: a vector update's element has its place in the stream before its source is read (R215, R371) -/
  ready : Bool
  /-- what the bridge has read, of an update it reads and then writes (R370) -/
  got   : Option Nat
  deriving DecidableEq, Repr

/-- A request sent to a peer device (R123, R125), in stream order, with whom its answer resumes. -/
structure PReq where
  id    : Nat
  dev   : Nat
  req   : PeerReq
  owner : Owner
  ti    : Option SlotId
  /-- the instruction's first-byte address -/
  first : W64
  /-- its value is known (R123, R215) -/
  ready : Bool
  deriving DecidableEq, Repr

/-- A peer's request that waits on its home die's wait list (R125). -/
structure PWait where
  p     : Nat
  dev   : Nat
  id    : Nat
  ctx   : Nat
  req   : PeerReq
  woken : Bool
  ord   : Nat
  deriving DecidableEq, Repr

/-- Per-context privileged registers and queues (R318, R338, R349). -/
structure Ctx where
  tvec   : W64
  fring  : W64
  fhead  : W64
  ftail  : W64
  fagent : W64
  tilth  : W64
  devrcb : W64
  wdog   : W64
  ptroot : W64
  /-- the table base that walks use: PTROOT as it stood at the last XINV that named the context (R349) -/
  ptact  : W64
  rtab   : W64
  dev    : Option DevReg
  /-- records waiting for room in the ring (R327) -/
  recq   : List FRec
  /-- records of KIND 1, 3 and 4 waiting for the fault agent: their addresses (R329) -/
  dueAgent : List Nat
  saved  : Bool
  halted : Bool
  deriving DecidableEq, Repr

def Ctx.zero : Ctx := ⟨0#64, 0#64, 0#64, 0#64, 0#64, 0#64, 0#64, 24#64, 0#64, 0#64, 0#64, none, [], [], false, false⟩

/-- A CTXSW or SAVECTX that has been issued and has still to act (R331): its issuer, the context that a CTXSW makes rotate (none: a SAVECTX, which
acts on every cluster of the partition), the clusters that a CTXSW has still to act on, and how many of them have switched. -/
structure CtxCmd where
  ti   : SlotId
  ctx  : Option Nat
  left : List (Nat × Nat)
  n    : Nat
  deriving DecidableEq, Repr

/-- Does the command act on a cluster? -/
def CtxCmd.covers (m : CtxCmd) (d cl : Nat) : Bool := m.ctx.isNone || m.left.contains (d, cl)

/-- Per-partition registers (R318, R338, R359, R374) and the scheduler's state (R343 to R345). -/
structure Part where
  pdies  : BitVec 8
  cellstore : W64
  qtab   : W64
  elog   : W64
  ehead  : W64
  etail  : W64
  ecount : W64
  /-- error records still to be written (R366) -/
  errQ   : List (List W64)
  /-- the sparing command that runs (R362) -/
  spareCmd : Option Nat
  /-- the commands that act on the partition's clusters, in arrival order (R331) -/
  cmds   : List CtxCmd
  spareFailed : Bool
  devid  : W64
  rxctx  : W64
  reach  : List W64
  mctab  : W64
  subs   : List Sub
  /-- the Causeway ports that firmware has given the partition (R360) -/
  ports  : BitVec 24
  /-- the queue whose submission was accepted last at each level of PRIO (R343) -/
  qturn  : List (Nat × Nat)
  prevDie : Nat
  blocking : Option Nat
  /-- the acceptance number of the launch that last placed a group at each rank (R345) -/
  turn   : List Nat
  /-- RCB writes of STATE 5 that a containment has still to make (R37) -/
  contQ  : List (Nat × Nat)
  /-- poison consumed and not yet contained: group, ctx, address (R364) -/
  poisonQ : List (Nat × Nat × Nat)
  deriving DecidableEq, Repr

def Part.zero : Part :=
  { pdies := 0#8, cellstore := 1#64, qtab := 0#64, elog := 0#64, ehead := 0#64, etail := 0#64, ecount := 0#64, errQ := []
    spareCmd := none, cmds := [], spareFailed := false, devid := 0#64, rxctx := 0#64, reach := [0#64, 0#64, 0#64], mctab := 0#64
    subs := [], ports := 0#24, qturn := [], prevDie := 7, blocking := none, turn := [], contQ := [], poisonQ := [] }

/-- Per-die state of the Fen and the walkers (R99, R102, R119, R350, R355, R356). -/
structure Die where
  hseq  : Nat
  done  : Nat
  dview : List Nat
  cvec  : List Nat
  sent  : List Sent
  /-- admitted sequence numbers above DONE (R119) -/
  admitted : List Nat
  granary : List GLine
  /-- waiters of the die's wait list, in the order they parked (R102) -/
  waiters : List SlotId
  ranges : List ((Nat × Nat) × RangeE)
  l2    : List XEnt
  walks : List Walk
  /-- walks that failed, for each number that waited and has still to learn it: number, context, page, and the poisoned table word if that
  stopped the walk (R356) -/
  failed : List (Nat × Nat × Nat × Option Nat)
  binds : List (Nat × Bind)
  /-- the words staged in the loft by WREPLAY, and which of them are poisoned (R4, R260, R364) -/
  loft  : List W64
  loftBad : List Nat
  /-- peers' requests on the wait list (R125) -/
  peerWait : List PWait
  deriving DecidableEq, Repr

def Die.zero : Die := ⟨0, 0, List.replicate 8 0, List.replicate 8 0, [], [], [], [], [], [], [], [], [], [], [], []⟩

/-- Per-cluster state that both contexts share (R28, R245, R318, R355). -/
structure Cluster where
  rot    : Nat
  xlat   : List XEnt
  gleaner : List GJob
  reserved : Bool
  phys   : Nat
  /-- the instruction cache: physical address and 16-bit word (R144) -/
  icache : List (Nat × Nat)
  deriving DecidableEq, Repr

/-- Per-cluster, per-context state (R85, R86, R192, R222, R226, R229, R266). -/
structure Half where
  /-- scratchpad bytes written since placement, ascending (R85) -/
  sp     : List (Nat × Byte)
  /-- full scratchpad words, ascending (R100) -/
  spFull : List Nat
  /-- which placement owns each scratchpad byte range: base, size, epoch -/
  spEpoch : List (Nat × Nat × Nat)
  /-- operand bytes written since the slot was released, ascending -/
  opm    : List (Nat × Byte)
  opEpoch : List (Nat × Nat)
  /-- poisoned 8-byte words of scratchpad and of operand memory, ascending (R364) -/
  spPois : List Nat
  opPois : List Nat
  held   : List Nat
  arr    : MArray
  calls  : List CCall
  ids    : List (Nat × List (Nat × IdState))
  binds  : List (Nat × Bind)
  deriving DecidableEq, Repr

def Half.zero : Half := ⟨[], [], [], [], [], [], [], [], MArray.zero, [], [], []⟩

/-- A context saved to memory: what the save area's blocks hold, keyed by its address (R333). DESIGN CHOICE, log 14. -/
structure Saved where
  ctx    : Nat
  p      : Nat
  base   : Nat
  slots  : List (SlotId × Thread)
  halves : List ((Nat × Nat) × Half)
  groups : List (Nat × Group)
  tissues : List Tissue
  binds  : List (Nat × List (Nat × Bind))
  ents   : List (RunId × Entry)
  items  : List ((Nat × Nat × Nat) × List Ins)
  /-- the launches of the context when it was saved -/
  launches : List Nat
  deriving DecidableEq, Repr

/-- A held vector unit (R28, R200, R202): its pending beats, each with the accesses per bank and how many source elements of update
`uop` it reads. `sync`: the holder's instruction completes with the last beat. -/
structure VUnit where
  ti    : SlotId
  sync  : Bool
  uop   : Nat
  beats : List (List Nat × Nat)
  deriving DecidableEq, Repr

/-- The stage of bring-up (R378, R382). -/
inductive Boot where | rom | stage1 | stage2 | up | recovery | tripped
  deriving DecidableEq, Repr

/-- Who issues, where its instruction starts and how long it is (R130, R141); and the event's arguments. -/
structure Cur where
  who  : Agent
  addr : W64
  len  : Nat
  ev   : EvArgs
  deriving DecidableEq, Repr

end Sys2Proof.Machine
end

