-- ==== Sys2Proof/Machine/State.lean ====
section
/-!
DEFINITION. State.lean: the state of the part, all of it plain data (INVENTORY.md, State), and its reset (R378).
Sparse tables are association lists; a key that is absent reads as its zero record.
-/
namespace Sys2Proof.Machine
open Sys2Proof

/-- Device memory: (byte address in the DRAM, byte), addresses strictly rising, no entry equal to what an unlisted byte reads as. -/
abbrev Memory := List Host.Cell

/-- What an unlisted byte of device memory reads as: zero, as bring-up leaves it (R378); DESIGN CHOICE before it (log 3). -/
def Memory.unlisted : Byte := 0#8

/-- The canonical form from a lower bound on. -/
def Memory.wfFrom : Nat → Memory → Bool
  | _, [] => true
  | lo, (a, b) :: r => decide (lo ≤ a) && b != Memory.unlisted && Memory.wfFrom (a + 1) r

/-- The canonical form of device memory. -/
def Memory.wf (m : Memory) : Bool := Memory.wfFrom 0 m

/-- Why the machine stops. -/
inductive Fault where
  /-- Raised by `step` when the agenda names a unit the package does not have (R1, R2). Safe: nothing the part does reads it. -/
  | noSuchUnit
  deriving DecidableEq, Repr

/-- Why an instruction has no meaning. -/
inductive Refusal where
  /-- An instruction whose meaning is not written yet, by its mnemonic. Safe. -/
  | notModelled (mnemonic : String)
  deriving DecidableEq, Repr

structure State where
  /-- who issues now, and the event's arguments -/
  cur : Cur
  /-- which agent moves next (log 1) -/
  agenda : List Agent
  /-- how often the order was left to the part, and the counter of free values (log 1, log 20) -/
  turns : Nat
  frees : Nat
  clk : Nat
  /-- fresh numbers for threads, operations, marks, handles and placements -/
  fresh : Nat
  boot : Boot
  slots : List (SlotId × Thread)
  clusters : List ((Nat × Nat) × Cluster)
  halves : List ((Nat × Nat × Nat) × Half)
  dies : List (Nat × Die)
  runs : List (RunId × Run)
  ins : List ((Nat × Nat × Nat) × List Ins)
  /-- cores whose vector unit is held (R28, R200, R202) -/
  vunit : List ((Nat × Nat × Nat) × VUnit)
  mem : Memory
  /-- words of device memory that are full, ascending (R100) -/
  full : List Nat
  /-- barn cells: (byte address of the lane, width and BF, cell) (R77) -/
  cells : List (Nat × Width × Bool × Cell)
  poison : List Nat
  reeds : List (Nat × Reed)
  sluices : List ((Nat × Nat) × Sluice)
  /-- Sluice units, by pseudo-channel and bank group, that a class-0 request to their bank group waits for (R274, R309) -/
  asked : List (Nat × Nat)
  loads : List LoadOp
  copies : List CopyOp
  winnow : List WinOp
  calls : List Call
  msgs : List Msg
  tissues : List Tissue
  /-- updates of tiles that await room in their die's rick run, oldest first, by `unitTile` (R287) -/
  late : List (Nat × Entry)
  groups : List (Nat × Group)
  launches : List (Nat × Launch)
  ctxs : List ((Nat × Nat) × Ctx)
  parts : List (Nat × Part)
  queues : List ((Nat × Nat) × Queue)
  savedCtx : List Saved
  /-- host memory written, and the streams of the root complexes (R370) -/
  host : List (Nat × Byte)
  hostq : List (Nat × List HUpd)
  /-- streams to peers, and answers due to peers (R123, R288) -/
  peerq : List PReq
  toPeer : List (Nat × List W64)
  /-- peers' answers to requests of the part itself that it has still to use: who asked, the request, the words (R123, R352) -/
  peerAns : List (Owner × PeerReq × List W64)
  cwport : List W64
  /-- the devices that each port's plane reaches, as its training found them (R375) -/
  planes : List (List W64)
  pwrcap : W64
  throttle : Bool
  therm : W64
  nvmNext : Nat
  meas : List (List Byte)
  feaddrReg : W64
  /-- FEDATA writes waiting, and reads answered (R369, R373) -/
  feq : List (Nat × W64)
  hostReads : List (Nat × Option W64)
  /-- writes through the SYS register window that wait, oldest first: offset and value, and once its XINV has acted the number up to which
  operations are waited for, else 0 (R369) -/
  winq : List (Nat × W64 × Nat)
  /-- attestation requests: the partition, the key A, and 0 or 1 for a status to fill, 2 while it waits, 3 + n with leaf n committed
  (R380, R381) -/
  attq : List (Nat × Nat × Nat)
  /-- application cores spared (R361) -/
  appSpared : List Nat
  /-- the links of the die-to-die ring that are down, each by the die it leaves (R363; log 58) -/
  linkDown : List Nat
  deriving DecidableEq, Repr

/-- The state at reset (R378): the boot ROM about to run, everything the chapters give a reset value at that value. The
partition's dies and the device number, which boot sets, are DESIGN CHOICE (log 5). (log 67) -/
def State.reset : State :=
  { cur := ⟨.clk 0, 0#64, 0, EvArgs.zero⟩, agenda := [], turns := 0, frees := 0, clk := 0, fresh := 1, boot := .rom
    slots := [], clusters := [], halves := [], dies := [], runs := [], ins := [], vunit := []
    mem := [], full := [], cells := [], poison := [], reeds := [], sluices := [], asked := [], loads := [], copies := [], winnow := []
    calls := [], msgs := [], tissues := [], late := [], groups := [], launches := [], ctxs := []
    parts := [(0, { Part.zero with pdies := 0xFF#8 })], queues := [], savedCtx := [], host := [], hostq := []
    peerq := [], toPeer := [], peerAns := [], cwport := List.replicate 24 0#64, planes := List.replicate 24 [0#64, 0#64, 0#64], pwrcap := 2400#64, throttle := false, therm := 0#64
    nvmNext := 0, meas := List.replicate 8 (List.replicate 32 0#8), feaddrReg := 0#64, feq := []
    hostReads := [], winq := [], attq := [], appSpared := [], linkDown := [] }

end Sys2Proof.Machine
end

