-- ==== Sys2Proof/Machine/Num.lean ====
section
/-!
DEFINITION. Num.lean: exact numbers, the formats of R62 to R68, rounding and flags (R69 to R73, R383), the wide cell (R75,
R76) and the keyed operators on one lane (R78, R88).
-/
namespace Sys2Proof.Machine
open Sys2Proof

/-- An exact value: a NaN (signalling or quiet), an infinity, or (−1)^neg · m · 2^e. -/
inductive Num where
  | nan (sig : Bool)
  | inf (neg : Bool)
  | fin (neg : Bool) (m : Nat) (e : Int)
  deriving DecidableEq, Repr

/-- The sticky flags, at their places in stat[8:0] (R58). -/
abbrev Flags := BitVec 9
def Flags.no : Flags := 0#9
def Flags.NV : Flags := 0x002#9
def Flags.DZ : Flags := 0x004#9
def Flags.OF : Flags := 0x008#9
def Flags.UF : Flags := 0x010#9
def Flags.NX : Flags := 0x020#9
def Flags.FORMAT : Flags := 0x040#9
def Flags.SAT : Flags := 0x080#9
def Flags.MF : Flags := 0x100#9
def Flags.when (b : Bool) (f : Flags) : Flags := if b then f else Flags.no

/-- A float format (R62): exponent and mantissa widths and bias; `fe4` has no infinities (R63). -/
structure FF where
  eb  : Nat
  mb  : Nat
  bias : Nat
  fe4 : Bool
  deriving DecidableEq, Repr

def ff64 : FF := ⟨11, 52, 1023, false⟩
def ff32 : FF := ⟨8, 23, 127, false⟩
def ff16 : FF := ⟨5, 10, 15, false⟩
def ffBf16 : FF := ⟨8, 7, 127, false⟩
def ffFe5 : FF := ⟨5, 2, 15, false⟩
def ffFe4 : FF := ⟨4, 3, 7, true⟩

def FF.bits (f : FF) : Nat := 1 + f.eb + f.mb
def FF.signBit (f : FF) : Nat := 2 ^ (f.eb + f.mb)
/-- The code of +∞, or for FE4 of its NaN. -/
def FF.infCode (f : FF) : Nat := if f.fe4 then 0x7F else (2 ^ f.eb - 1) * 2 ^ f.mb
/-- The largest finite code. -/
def FF.maxCode (f : FF) : Nat := f.infCode - 1
/-- The canonical NaN (R64). -/
def FF.nanCode (f : FF) : Nat := if f.fe4 then 0x7F else f.infCode + 2 ^ (f.mb - 1)
/-- The exponent of one unit of a subnormal. -/
def FF.emin (f : FF) : Int := 1 - (f.bias : Int) - (f.mb : Int)

/-- The exact value of a code (R62 to R64). -/
def FF.value (f : FF) (code : Nat) : Num :=
  let neg := nbit code (f.eb + f.mb)
  let e := nfld code f.mb f.eb
  let m := nfld code 0 f.mb
  if f.fe4 then
    if e = 15 ∧ m = 7 then .nan false
    else if e = 0 then .fin neg m f.emin
    else .fin neg (2 ^ f.mb + m) (f.emin + (e : Int) - 1)
  else if e = 2 ^ f.eb - 1 then
    if m = 0 then .inf neg else .nan (!nbit m (f.mb - 1))
  else if e = 0 then .fin neg m f.emin
  else .fin neg (2 ^ f.mb + m) (f.emin + (e : Int) - 1)

/-- `m · 2^e` in units of 2^q: the whole part, and the remainder as twice its value against one unit (0 exact, 1 below
half, 2 half, 3 above half). -/
def inUnits (m : Nat) (e q : Int) : Nat × Nat :=
  if q ≤ e then (m * 2 ^ (e - q).toNat, 0)
  else
    let k := (q - e).toNat
    let r := m % 2 ^ k
    (m / 2 ^ k, if r = 0 then 0 else if 2 * r < 2 ^ k then 1 else if 2 * r = 2 ^ k then 2 else 3)

/-- Does rounding go away from zero (R69)? -/
def roundAway (r : Rnd) (neg : Bool) (n rem : Nat) : Bool :=
  match r with
  | .rne | .sat => rem == 3 || (rem == 2 && n % 2 == 1)
  | .rtz => false
  | .rup => rem != 0 && !neg
  | .rdn => rem != 0 && neg

def roundUnits (r : Rnd) (neg : Bool) (m : Nat) (e q : Int) : Nat × Bool :=
  let (n, rem) := inUnits m e q
  (if roundAway r neg n rem then n + 1 else n, rem != 0)

/-- Round an exact value into a float format (R69 to R71, R73), with the flags raised. `ftz` flushes subnormal results. -/
def FF.round (f : FF) (r : Rnd) (ftz : Bool) (x : Num) : Nat × Flags :=
  match x with
  | .nan sig => (f.nanCode, Flags.when sig Flags.NV)
  | .inf neg =>
    let s := if neg then f.signBit else 0
    if f.fe4 || r == .sat then (s + f.maxCode, Flags.SAT) else (s + f.infCode, Flags.no)
  | .fin neg m e =>
    let s := if neg then f.signBit else 0
    if m = 0 then (s, Flags.no)
    else
      let top : Int := (Nat.log2 m : Int) + e
      let q : Int := max (top - f.mb) f.emin
      let (n, inex) := roundUnits r neg m e q
      let code := (q - f.emin).toNat * 2 ^ f.mb + n
      if f.maxCode < code then
        if f.fe4 || r == .sat then (s + f.maxCode, Flags.SAT ||| Flags.NX)
        else
          let toInf := match r with | .rne | .sat => true | .rtz => false | .rup => !neg | .rdn => neg
          (s + (if toInf then f.infCode else f.maxCode), Flags.OF ||| Flags.NX)
      else
        let tiny : Bool :=
          if top < f.emin + f.mb then
            let (n', _) := roundUnits r neg m e (top - f.mb)
            !(decide (top + 1 = f.emin + f.mb) && n' == 2 ^ (f.mb + 1))
          else false
        let fl := Flags.when inex Flags.NX ||| Flags.when (tiny && inex) Flags.UF
        if ftz && code != 0 && decide (code < 2 ^ f.mb) then (s, fl ||| Flags.UF ||| Flags.NX)
        else (s + code, fl)

/-- The rounding of an arithmetic result (R70): as `FF.round`, and an infinite result that is clamped to the finite range differs
from the exact one, so NX is set beside SAT (only a conversion of an infinite source sets SAT alone, R73). -/
def FF.arith (f : FF) (r : Rnd) (ftz : Bool) (x : Num) : Nat × Flags :=
  let (c, fl) := f.round r ftz x
  (c, fl ||| Flags.when (match x with | .inf _ => f.fe4 || r == .sat | _ => false) Flags.NX)

/-- FTZ on an operand (R71): a subnormal reads as a zero of its sign. -/
def FF.valueFtz (f : FF) (ftz : Bool) (code : Nat) : Num :=
  if ftz && nfld code f.mb f.eb == 0 then .fin (nbit code (f.eb + f.mb)) 0 0 else f.value code

/-- Round to an integer by a mode (R156 RoundInt). -/
def roundInt (r : Rnd) (neg : Bool) (m : Nat) (e : Int) : Int × Bool :=
  let (n, inex) := roundUnits r neg m e 0
  (if neg then -(n : Int) else (n : Int), inex)

def Num.isNan : Num → Bool | .nan _ => true | _ => false
def Num.sig : Num → Bool | .nan s => s | _ => false
def Num.ofInt (i : Int) : Num := .fin (decide (i < 0)) i.natAbs 0
def Num.zero : Num := .fin false 0 0
def Num.neg : Num → Num | .nan s => .nan s | .inf n => .inf (!n) | .fin n m e => .fin (!n) m e
def Num.quiet : Num → Num | .nan _ => .nan false | x => x

/-- Signed integer of a finite value in units of 2^q, q at or below its exponent. -/
def finInt (neg : Bool) (m : Nat) (e q : Int) : Int :=
  let v : Int := (m : Int) * ((2 ^ (e - q).toNat : Nat) : Int)
  if neg then -v else v

/-- Exact addition with IEEE specials and R383's zero signs; the flag NV (R70). -/
def Num.add (r : Rnd) (x y : Num) : Num × Flags :=
  let nv := Flags.when (x.sig || y.sig) Flags.NV
  match x, y with
  | .nan _, _ => (.nan false, nv)
  | _, .nan _ => (.nan false, nv)
  | .inf a, .inf b => if a == b then (.inf a, nv) else (.nan false, Flags.NV)
  | .inf a, _ => (.inf a, nv)
  | _, .inf b => (.inf b, nv)
  | .fin a m e, .fin b n k =>
    let q := min e k
    let v := finInt a m e q + finInt b n k q
    if v = 0 then
      if m = 0 ∧ n = 0 ∧ a = b then (.fin a 0 0, nv) else (.fin (r == .rdn) 0 0, nv)
    else (.fin (decide (v < 0)) v.natAbs q, nv)

/-- Exact multiplication (R70). -/
def Num.mul (x y : Num) : Num × Flags :=
  let nv := Flags.when (x.sig || y.sig) Flags.NV
  match x, y with
  | .nan _, _ => (.nan false, nv)
  | _, .nan _ => (.nan false, nv)
  | .inf a, .inf b => (.inf (a != b), nv)
  | .inf a, .fin b m _ => if m = 0 then (.nan false, Flags.NV) else (.inf (a != b), nv)
  | .fin a m _, .inf b => if m = 0 then (.nan false, Flags.NV) else (.inf (a != b), nv)
  | .fin a m e, .fin b n k => (.fin (a != b) (m * n) (e + k), nv)

/-- Compare two values that are not NaN: −1, 0 or 1; −0 equals +0. -/
def Num.cmp (x y : Num) : Int :=
  match x, y with
  | .inf a, .inf b => if a == b then 0 else if a then -1 else 1
  | .inf a, _ => if a then -1 else 1
  | _, .inf b => if b then 1 else -1
  | .fin a m e, .fin b n k =>
    let q := min e k
    let d := finInt a m e q - finInt b n k q
    if d < 0 then -1 else if d = 0 then 0 else 1
  | _, _ => 0

def Num.negSign : Num → Bool | .nan _ => false | .inf n => n | .fin n _ _ => n

/-- IEEE 754-2019 minimum (R78): −0 < +0, a NaN gives NaN. -/
def Num.minimum (x y : Num) : Num :=
  if x.isNan || y.isNan then .nan false
  else if x.cmp y < 0 then x else if x.cmp y = 0 then (if x.negSign then x else y) else y
def Num.maximum (x y : Num) : Num :=
  if x.isNan || y.isNan then .nan false
  else if x.cmp y < 0 then y else if x.cmp y = 0 then (if x.negSign then y else x) else x

end Sys2Proof.Machine

namespace Sys2Proof
open Sys2Proof.Machine

def EFmt.bytes : EFmt → Nat | .f32 => 4 | .i32 => 4 | .f16 => 2 | .bf16 => 2 | _ => 1
def EFmt.ff : EFmt → FF | .f16 => ff16 | .bf16 => ffBf16 | .fe4 => ffFe4 | .fe5 => ffFe5 | _ => ff32
def FFmt.ff : FFmt → FF | .f16 => ff16 | .bf16 => ffBf16 | .f32 => ff32
def FFmt.width : FFmt → Width | .f32 => .w | _ => .h
/-- Formats whose subnormals FTZ flushes (R71). -/
def EFmt.ftzOn : EFmt → Bool | .f32 => true | .f16 => true | .bf16 => true | _ => false

end Sys2Proof

namespace Sys2Proof.Machine
open Sys2Proof

/-- The exact value of an element code, FTZ applied where R71 applies it. -/
def elemValue (f : EFmt) (ftz : Bool) (code : Nat) : Num :=
  match f with
  | .i8 => Num.ofInt (sint 8 code)
  | .i32 => Num.ofInt (sint 32 code)
  | _ => f.ff.valueFtz (ftz && f.ftzOn) code

/-- Clamp to a signed range: the value and whether it changed. -/
def clampS (w : Nat) (v : Int) : Int × Bool :=
  let hi : Int := (2 ^ (w - 1) : Nat) - 1
  let lo : Int := -((2 ^ (w - 1) : Nat) : Int)
  if hi < v then (hi, true) else if v < lo then (lo, true) else (v, false)

/-- Conversion of an exact value to an integer format of `w` bits (R73). `fromInt` marks an integer source: clamping sets SAT (R73). -/
def cvtInt (w : Nat) (r : Rnd) (x : Num) : Nat × Flags :=
  match x with
  | .nan _ => (0, Flags.NV)
  | .inf neg => (wrapN w (clampS w (if neg then -((2 ^ w : Nat) : Int) else ((2 ^ w : Nat) : Int))).1, Flags.SAT)
  | .fin neg m e =>
    let (i, inex) := roundInt r neg m e
    let (c, sat) := clampS w i
    (wrapN w c, Flags.when sat (Flags.SAT ||| Flags.NX) ||| Flags.when inex Flags.NX)

/-- Conversion to an element format other than Q4X (R73): the code and the flags. -/
def cvtTo (f : EFmt) (r : Rnd) (ftz : Bool) (x : Num) : Nat × Flags :=
  match f with
  | .i8 => cvtInt 8 r x
  | .i32 => cvtInt 32 r x
  | _ => f.ff.round r (ftz && f.ftzOn) x

/-! ### Q4X -/

def fe4Value (b : Nat) : Num := ffFe4.value b

/-- Scale a value by 2^k. -/
def Num.scale (x : Num) (k : Int) : Num := match x with | .fin n m e => .fin n m (e + k) | y => y

/-- A real number has no sign of zero. -/
def Num.real (x : Num) : Num := match x with | .fin n m e => if m = 0 then Num.zero else .fin n m e | y => y

/-- Q4xDecode's pairs (R67): the d of each slot, the outlier ordinal, FORMAT. -/
def q4xPair (blk j : Nat) (k : Nat) : Num × Num × Nat × Bool :=
  let a := nfld blk (8 * j) 4
  let b := nfld blk (8 * j + 4) 4
  let pool := nfld blk (136 + 4 * k) 4
  if a = 8 ∧ b = 8 then (Num.zero, Num.zero, k, true)
  else if a = 8 then
    if k < 2 then ((fe4Value (16 * pool + b)).real, Num.zero, k + 1, false) else (Num.zero, Num.zero, k, true)
  else if b = 8 then
    if k < 2 then (Num.zero, (fe4Value (16 * pool + a)).real, k + 1, false) else (Num.zero, Num.zero, k, true)
  else (Num.ofInt (sint 4 a), Num.ofInt (sint 4 b), k, false)

/-- The pairs from j on: elements, and for each pair whether it is malformed. -/
def q4xPairs (blk : Nat) : (n j k : Nat) → List Num × List Bool
  | 0, _, _ => ([], [])
  | n + 1, j, k =>
    let (x, y, k', bad) := q4xPair blk j k
    let (r, bs) := q4xPairs blk n (j + 1) k'
    (x :: y :: r, bad :: bs)

/-- Q4xDecode (R67): the 32 elements and whether FORMAT is raised. -/
def q4xDecode (blk : Nat) : List Num × Bool :=
  let scale := nfld blk 128 8
  if scale = 255 then (List.replicate 32 (.nan false), false)
  else
    let (d, bad) := q4xPairs blk 16 0 0
    (d.map fun x => x.scale ((scale : Int) - 127), bad.any id)

def Num.absLt (x y : Num) : Bool := match x, y with
  | .fin _ m e, .fin _ n k => decide ((Num.fin false m e).cmp (Num.fin false n k) < 0)
  | _, _ => false

def Num.isZero : Num → Bool | .fin _ m _ => m == 0 | _ => false

/-- The index of the largest nonzero magnitude outside `skip`, ties to the lower index. -/
def q4xLargest (v : List Num) (skip : List Nat) : Option Nat :=
  (List.range 32).foldl (fun (best : Option Nat) i =>
    let x := v.getD i Num.zero
    if x.isZero || skip.contains i then best
    else match best with
      | none => some i
      | some b => if (v.getD b Num.zero).absLt x then some i else best) none

def natXor1 (i : Nat) : Nat := if i % 2 = 0 then i + 1 else i - 1

/-- The least s in 0 to 254 with 7 · 2^(s − 127) ≥ a. -/
def q4xScale (a : Num) : (fuel s : Nat) → Nat
  | 0, s => s
  | n + 1, s => if (Num.fin false 7 ((s : Int) - 127)).absLt a then q4xScale a n (s + 1) else s

/-- The exact quotient v / 2^(s − 127) rounded to an integer. -/
def q4xQuot (x : Num) (s : Nat) (r : Rnd) : Int :=
  match x with | .fin n m e => (roundInt r n m (e - ((s : Int) - 127))).1 | _ => 0

/-- The FE4 code of an outlier, moved off a low nibble of 0b1000 (R68). (log 29) -/
def q4xOutlier (x : Num) (s : Nat) (r : Rnd) : Nat × Flags :=
  let (f, fl) := ffFe4.round r false (x.scale (127 - (s : Int)))
  if f % 16 = 8 then
    (match r with
      | .rne | .rtz | .sat => f - 1
      | .rup => if f / 128 = 0 then f + 1 else f - 1
      | .rdn => if f / 128 = 0 then f - 1 else f + 1, fl)
  else (f, fl)

/-- Q4xEncode (R68): the 144-bit block and the flags. -/
def q4xEncode (v : List Num) (r : Rnd) : Nat × Flags :=
  if v.any (fun x => match x with | .fin _ _ _ => false | _ => true) then
    (255 * 2 ^ 128, Flags.when (v.any fun x => match x with | .inf _ => true | .nan s => s | _ => false) Flags.NV)
  else
    let c1 := (q4xLargest v []).toList
    let c2 := (q4xLargest v c1).toList
    let cand0 := if c2.any (fun j => c1.any fun i => j == natXor1 i) then c1 else c1 ++ c2
    let near (cs : List Nat) (i : Nat) : Bool := cs.contains i || cs.contains (natXor1 i)
    let a := (List.range 32).foldl (fun a i => if near cand0 i then a else if a.absLt (v.getD i Num.zero) then v.getD i Num.zero else a) Num.zero
    let s := q4xScale a 254 0
    let cand := cand0.filter fun c => decide (7 < (q4xQuot (v.getD c Num.zero) s r).natAbs)
    let ord := (List.range 32).map fun i =>
      if near cand i then (0, false)
      else
        let q := q4xQuot (v.getD i Num.zero) s r
        let c : Int := max (-7) (min 7 q)
        (wrapN 4 c, c != q)
    let cs := if cand.length = 2 ∧ cand.getD 1 0 < cand.getD 0 0 then cand.reverse else cand
    let outs := cs.map fun c => (c, q4xOutlier (v.getD c Num.zero) s r)
    let slot (i : Nat) : Nat :=
      match outs.find? (fun o => o.1 == i), outs.find? (fun o => natXor1 o.1 == i) with
      | some _, _ => 8
      | none, some o => o.2.1 % 16
      | none, none => (ord.getD i (0, false)).1
    let body := (List.range 32).foldl (fun acc i => acc + slot i * 2 ^ (4 * i)) 0
    let pool := (outs.zipIdx).foldl (fun acc o => acc + (o.1.2.1 / 16) * 2 ^ (136 + 4 * o.2)) 0
    let blk := body + s * 2 ^ 128 + pool
    let back := (q4xDecode blk).1
    let diff := (List.range 32).any fun i => (back.getD i Num.zero).cmp (v.getD i Num.zero) != 0
    (blk, (outs.foldl (fun f o => f ||| (o.2.2 &&& Flags.SAT)) Flags.no) ||| Flags.when (ord.any (·.2)) Flags.SAT ||| Flags.when diff Flags.NX)

/-! ### Wide cells and keyed operators -/

def Cell.zero : Cell := ⟨0, false, false, false⟩

/-- A source value as a cell (R75). -/
def cellOf (f : FF) (code : Nat) : Cell :=
  match f.value code with
  | .nan _ => { Cell.zero with nans := true }
  | .inf n => if n then { Cell.zero with ninf := true } else { Cell.zero with pinf := true }
  | .fin n m e => { Cell.zero with c := finInt n m e (-160) }

/-- The exact sum of two cells, and whether it leaves the range (R75). -/
def Cell.add (a b : Cell) : Cell × Bool :=
  let c := a.c + b.c
  (⟨c, a.pinf || b.pinf, a.ninf || b.ninf, a.nans || b.nans⟩,
   decide (c < -((2 ^ 319 : Nat) : Int)) || decide (((2 ^ 319 : Nat) : Int) ≤ c))

/-- CellRound (R76). -/
def Cell.round (f : FF) (x : Cell) : Nat :=
  if x.nans || (x.pinf && x.ninf) then f.nanCode
  else if x.pinf then f.infCode
  else if x.ninf then f.signBit + f.infCode
  else if x.c = 0 then 0
  else (f.round .rne false (.fin (decide (x.c < 0)) x.c.natAbs (-160))).1

/-- The float format of a lane (R88): 4 bytes FP32, 2 bytes FP16 or BF16, 8 bytes FP64. -/
def laneFF (wd : Width) (bf : Bool) : FF :=
  match wd with | .d => ff64 | .w => ff32 | _ => if bf then ffBf16 else ff16

/-- An operator fault's cause (R103). -/
inductive OpFault where | snan | cellOverflow | fadd64Invalid | cellFull
  deriving DecidableEq, Repr
def OpFault.code : OpFault → Nat | .snan => 1 | .cellOverflow => 2 | .fadd64Invalid => 3 | .cellFull => 4

/-- One lane of an operator other than FSUM: resident or stored value x, arriving value u (R78, R88). -/
def laneOp (op : KOp) (wd : Width) (bf : Bool) (x u : Nat) : Except OpFault Nat :=
  let n := 8 * wd.bytes
  let f := laneFF wd bf
  match op with
  | .replace => .ok u
  | .iadd => .ok ((x + u) % 2 ^ n)
  | .smin => .ok (if sint n x ≤ sint n u then x else u)
  | .smax => .ok (if sint n x ≤ sint n u then u else x)
  | .umin => .ok (if x ≤ u then x else u)
  | .umax => .ok (if x ≤ u then u else x)
  | .and => .ok (x &&& u)
  | .or => .ok (x ||| u)
  | .xor => .ok (x ^^^ u)
  | .fmin =>
    if (f.value x).sig || (f.value u).sig then .error .snan
    else .ok (f.round .rne false ((f.value x).minimum (f.value u))).1
  | .fmax =>
    if (f.value x).sig || (f.value u).sig then .error .snan
    else .ok (f.round .rne false ((f.value x).maximum (f.value u))).1
  | .fadd64 =>
    let (v, fl) := (f.value x).add .rne (f.value u)
    if fl = Flags.no then .ok (f.round .rne false v).1 else .error .fadd64Invalid
  | .fsum => .ok (f.round .rne false ((f.value x).add .rne (f.value u)).1).1

/-- Widths an operator allows (R88). -/
def opWidthOk (op : KOp) (wd : Width) : Bool :=
  match op with
  | .fsum | .fmin | .fmax => wd == .w || wd == .h
  | .fadd64 => wd == .d
  | _ => true

/-- The canonical quiet NaN of an operator's lane (R64): the default result of an LD.nb over a held lane (R106), and what a fold that
meets an operator fault gives (R303). -/
def heldDefault (op : KOp) (wd : Width) (bf : Bool) : Nat := match op with | .fadd64 => 0x7FF8000000000000 | _ => (laneFF wd bf).nanCode

end Sys2Proof.Machine
end

