-- ==== Sys2Proof/Machine/Flags.lean ====
section
/-!
DEFINITION. Flags.lean: one element of each vector operation, with the sticky flags it raises (R65, R69 to R72, R78, R204 to R210).
-/
namespace Sys2Proof.Machine
open Sys2Proof

/-- A result of an integer operation (R65, R204): modulo 2^w, or clamped with SAT under `.sat`. A clamp sets SAT and no NX: R65 and
R204 name SAT, R70 would give NX to any result that differs from the exact one. DESIGN CHOICE, log 68. -/
def intResult (w : Nat) (r : Rnd) (v : Int) : Nat × Flags :=
  match r with
  | .sat => let (c, s) := clampS w v; (wrapN w c, Flags.when s Flags.SAT)
  | _ => (wrapN w v, Flags.no)

/-- Element width in bits. -/
def EFmtBits (f : EFmt) : Nat := 8 * f.bytes

/-- Round a float result into the format with the flags of both steps. -/
def floatResult (f : EFmt) (r : Rnd) (ftz : Bool) (x : Num × Flags) : Nat × Flags :=
  let (c, fl) := f.ff.arith r (ftz && f.ftzOn) x.1
  (c, x.2 ||| fl)

def elAdd (f : EFmt) (r : Rnd) (ftz : Bool) (a b : Nat) : Nat × Flags :=
  if f.isInt then intResult (EFmtBits f) r (sint (EFmtBits f) a + sint (EFmtBits f) b)
  else floatResult f r ftz ((elemValue f ftz a).add r (elemValue f ftz b))

def elSub (f : EFmt) (r : Rnd) (ftz : Bool) (a b : Nat) : Nat × Flags :=
  if f.isInt then intResult (EFmtBits f) r (sint (EFmtBits f) a - sint (EFmtBits f) b)
  else floatResult f r ftz ((elemValue f ftz a).add r (elemValue f ftz b).neg)

def elMul (f : EFmt) (r : Rnd) (ftz : Bool) (a b : Nat) : Nat × Flags :=
  if f.isInt then intResult (EFmtBits f) r (sint (EFmtBits f) a * sint (EFmtBits f) b)
  else floatResult f r ftz ((elemValue f ftz a).mul (elemValue f ftz b))

/-- a · b + c, one rounding (R204). -/
def elFma (f : EFmt) (r : Rnd) (ftz : Bool) (a b c : Nat) : Nat × Flags :=
  if f.isInt then intResult (EFmtBits f) r (sint (EFmtBits f) a * sint (EFmtBits f) b + sint (EFmtBits f) c)
  else
    let z := elemValue f ftz c
    let p := (elemValue f ftz a).mul (elemValue f ftz b)
    let s := p.1.add r z
    floatResult f r ftz (s.1, p.2 ||| s.2)

/-- IEEE minimum or maximum; a signalling NaN sets NV (R204). -/
def elMinMax (mx : Bool) (f : EFmt) (ftz : Bool) (a b : Nat) : Nat × Flags :=
  if f.isInt then
    let x := sint (EFmtBits f) a
    let y := sint (EFmtBits f) b
    (wrapN (EFmtBits f) (if mx then max x y else min x y), Flags.no)
  else
    let x := elemValue f ftz a
    let y := elemValue f ftz b
    let v := if mx then x.maximum y else x.minimum y
    floatResult f .rne ftz (v, Flags.when (x.sig || y.sig) Flags.NV)

def elAbs (f : EFmt) (r : Rnd) (a : Nat) : Nat × Flags :=
  if f.isInt then intResult (EFmtBits f) r ((sint (EFmtBits f) a).natAbs : Int)
  else (a % 2 ^ (EFmtBits f - 1), Flags.no)

def elNeg (f : EFmt) (r : Rnd) (a : Nat) : Nat × Flags :=
  if f.isInt then intResult (EFmtBits f) r (-(sint (EFmtBits f) a))
  else (a % 2 ^ EFmtBits f ^^^ 2 ^ (EFmtBits f - 1), Flags.no)

/-- VSHL (R205). -/
def elShl (f : EFmt) (r : Rnd) (a b : Nat) : Nat × Flags :=
  let n := EFmtBits f
  let x := sint n a
  let s := sint n b
  if 0 ≤ s then
    match r with
    | .sat =>
      if x = 0 then (0, Flags.no)
      else if (n : Int) ≤ s then intResult n .sat (if x < 0 then -((2 ^ n : Nat) : Int) else ((2 ^ n : Nat) : Int))
      else intResult n .sat (x * ((2 ^ s.toNat : Nat) : Int))
    | _ => if (n : Int) ≤ s then (0, Flags.no) else (wrapN n (x * ((2 ^ s.toNat : Nat) : Int)), Flags.no)
  else
    let k := min (-s).toNat (n - 1)
    (wrapN n (x / ((2 ^ k : Nat) : Int)), Flags.no)

/-- Which compare (R206). -/
inductive CmpOp where | eq | ne | lt | le
  deriving DecidableEq, Repr

/-- One bit of a compare (R206). -/
def elCmp (op : CmpOp) (f : EFmt) (ftz : Bool) (a b : Nat) : Bool × Flags :=
  if f.isInt then
    let x := sint (EFmtBits f) a
    let y := sint (EFmtBits f) b
    (match op with | .eq => decide (x = y) | .ne => decide (x ≠ y) | .lt => decide (x < y) | .le => decide (x ≤ y), Flags.no)
  else
    let x := elemValue f ftz a
    let y := elemValue f ftz b
    if x.isNan || y.isNan then
      (op == .ne, Flags.when (x.sig || y.sig || op == .lt || op == .le) Flags.NV)
    else
      let c := x.cmp y
      (match op with | .eq => decide (c = 0) | .ne => decide (c ≠ 0) | .lt => decide (c < 0) | .le => decide (c ≤ 0), Flags.no)

/-- Nonzero by R72: not an encoding of zero. -/
def elNonzero (f : EFmt) (a : Nat) : Bool :=
  if f.isInt then a % 2 ^ EFmtBits f != 0 else a % 2 ^ (EFmtBits f - 1) != 0

/-- The exact sum of a group of products or values (R74): its special values, and the sign of an exact zero. -/
def groupSum (xs : List Num) : Num :=
  if xs.any Num.isNan then .nan false
  else
    let p := xs.any fun x => match x with | .inf false => true | _ => false
    let n := xs.any fun x => match x with | .inf true => true | _ => false
    if p && n then .nan false
    else if p then .inf false
    else if n then .inf true
    else
      let q := xs.foldl (fun q x => match x with | .fin _ m e => if m = 0 then q else min q e | _ => q) 0
      let v := xs.foldl (fun v x => match x with | .fin s m e => if m = 0 then v else v + finInt s m e q | _ => v) (0 : Int)
      if v = 0 then .fin (!xs.isEmpty && xs.all fun x => match x with | .fin s m _ => s && m == 0 | _ => false) 0 0
      else .fin (decide (v < 0)) v.natAbs q

/-- NV of a group sum: infinities of both signs (R70, R74), also where the group holds a NaN, of which R70 does not speak (DESIGN CHOICE,
log 76). -/
def groupInvalid (xs : List Num) : Bool :=
  (xs.any fun x => match x with | .inf false => true | _ => false) && xs.any fun x => match x with | .inf true => true | _ => false

end Sys2Proof.Machine
end

