-- ==== Sys2Proof/Machine/Mem.lean ====
section
/-!
DEFINITION. Mem.lean: device memory and its two windows (R83, R84), partitions (R360), the classes of physical address (R368),
full/empty bits (R100), barn cells (R77, R97), scratchpad bytes (R32, R85) and operand memory (R86, R222).
-/
namespace Sys2Proof.Machine
open Sys2Proof

/-! ### Bytes of a sorted memory -/

/-- One byte of device memory. -/
def Memory.read (m : Memory) (a : Nat) : Byte :=
  match m with
  | [] => Memory.unlisted
  | (k, b) :: r => if k = a then b else if a < k then Memory.unlisted else Memory.read r a

/-- Write one byte, keeping the canonical form. -/
def Memory.write (m : Memory) (a : Nat) (b : Byte) : Memory :=
  match m with
  | [] => if b = Memory.unlisted then [] else [(a, b)]
  | (k, c) :: r =>
    if a < k then (if b = Memory.unlisted then (k, c) :: r else (a, b) :: (k, c) :: r)
    else if a = k then (if b = Memory.unlisted then r else (a, b) :: r)
    else (k, c) :: Memory.write r a b

def Memory.readN (m : Memory) (a : Nat) : Nat → List Byte
  | 0 => []
  | n + 1 => Memory.read m a :: Memory.readN m (a + 1) n

def Memory.writeN (m : Memory) (a : Nat) : List Byte → Memory
  | [] => m
  | b :: bs => Memory.writeN (Memory.write m a b) (a + 1) bs

/-- A sparse byte table whose unlisted bytes are free values: written bytes always stay listed. -/
def sread (m : List (Nat × Byte)) (a : Nat) : Option Byte :=
  match m with
  | [] => none
  | (k, b) :: r => if k = a then some b else if a < k then none else sread r a

def swrite (m : List (Nat × Byte)) (a : Nat) (b : Byte) : List (Nat × Byte) :=
  match m with
  | [] => [(a, b)]
  | (k, c) :: r => if a < k then (a, b) :: (k, c) :: r else if a = k then (a, b) :: r else (k, c) :: swrite r a b

def swriteN (m : List (Nat × Byte)) (a : Nat) : List Byte → List (Nat × Byte)
  | [] => m
  | b :: bs => swriteN (swrite m a b) (a + 1) bs

/-- Forget the bytes from `a` to `a + n - 1`. -/
def sforget (m : List (Nat × Byte)) (a n : Nat) : List (Nat × Byte) := m.filter fun p => decide (p.1 < a) || decide (a + n ≤ p.1)

/-! ### Units and partitions -/

def State.die (s : State) (d : Nat) : Die := aget Die.zero s.dies d
def State.setDie (s : State) (d : Nat) (x : Die) : State := { s with dies := aset s.dies d x }
def State.part (s : State) (p : Nat) : Part := aget Part.zero s.parts p
def State.setPart (s : State) (p : Nat) (x : Part) : State := { s with parts := aset s.parts p x }
def State.ctx (s : State) (p c : Nat) : Ctx := aget Ctx.zero s.ctxs (p, c)
def State.setCtx (s : State) (p c : Nat) (x : Ctx) : State := { s with ctxs := aset s.ctxs (p, c) x }
def State.reed (s : State) (q : Nat) : Reed := aget Reed.zero s.reeds q
def State.setReed (s : State) (q : Nat) (x : Reed) : State := { s with reeds := aset s.reeds q x }
def State.sluice (s : State) (q g : Nat) : Sluice := aget Sluice.zero s.sluices (q, g)
def State.setSluice (s : State) (q g : Nat) (x : Sluice) : State := { s with sluices := aset s.sluices (q, g) x }
def State.half (s : State) (d c x : Nat) : Half := aget Half.zero s.halves (d, c, x)
def State.setHalf (s : State) (d c x : Nat) (h : Half) : State := { s with halves := aset s.halves (d, c, x) h }
/-- A cluster; its physical place is at first its number (R362). -/
def State.cluster (s : State) (d c : Nat) : Cluster := aget ⟨0, [], [], false, c, []⟩ s.clusters (d, c)
def State.setCluster (s : State) (d c : Nat) (x : Cluster) : State := { s with clusters := aset s.clusters (d, c) x }
def State.run (s : State) (r : RunId) : Run := aget Run.zero s.runs r
def State.setRun (s : State) (r : RunId) (x : Run) : State := { s with runs := aset s.runs r x }

/-- The partition a die belongs to, named by its lowest die (R360). -/
def State.partOf (s : State) (d : Nat) : Nat :=
  match s.parts.find? fun p => nbit p.2.pdies.toNat d with | some p => p.1 | none => d
/-- The dies of a partition, in die order. -/
def State.partDies (s : State) (p : Nat) : List Nat :=
  (List.range 8).filter fun d => nbit (s.part p).pdies.toNat d

/-! ### Addresses -/

/-- InterleavedToLinear (R84), as an offset into the bank-linear window: pseudo-channel · 2^31 + offset. -/
def linOfInter (pa : Nat) : Nat :=
  let g := pa / 256
  let q := nfld g 0 9 ^^^ nfld g 9 9 ^^^ nfld g 18 9
  q * 2 ^ 31 + (g / 512) * 256 + pa % 256

def bankBase : Nat := 0x1000000000000
/-- The populated limit of a pseudo-channel (R268, R319). -/
def State.lim (s : State) (q : Nat) : Nat := 0x50000000 - fld (s.part (s.partOf (q / 64))).cellstore 0 8 * 2 ^ 20

/-- The DRAM byte an address of one of the two windows names, populated or not. -/
def linOf (pa : Nat) : Option Nat :=
  if pa < 0xA000000000 then some (linOfInter pa)
  else if bankBase ≤ pa ∧ pa < bankBase + 2 ^ 40 then some (pa - bankBase)
  else none

/-- What a physical address names (R83, R368). -/
inductive PClass where
  | dram (lin : Nat)
  /-- root complex, and the offset in the host window -/
  | host (rc a : Nat)
  | peer (v o : Nat)
  | steading (o : Nat)
  | none
  deriving DecidableEq, Repr

/-- The class of a physical address for a partition (R83, R319, R360, R361, R368). -/
def State.classify (s : State) (p pa : Nat) : PClass :=
  match linOf pa with
  | some lin =>
    let q := lin / 2 ^ 31
    if lin % 2 ^ 31 < s.lim q ∧ (s.reed q).retired = false ∧ nbit (s.part p).pdies.toNat (q / 64) = true then .dram lin else .none
  | Option.none =>
    if 0x3000000000000 ≤ pa ∧ pa < 0x3000000000000 + 2 ^ 32 then .steading (pa - 0x3000000000000)
    else if 0x4000000000000 ≤ pa ∧ pa < 0x4000000000000 + 5 * 2 ^ 44 then
      .host ((pa - 0x4000000000000) / 2 ^ 44) (pa - 0x4000000000000)
    else if 0x8000000000000 ≤ pa ∧ pa < 0x8000000000000 + 192 * 2 ^ 40 then
      let v := (pa - 0x8000000000000) / 2 ^ 40
      let o := (pa - 0x8000000000000) % 2 ^ 40
      if o < 0xA000000000 ∧ v ≠ fld (s.part p).devid 0 8 then .peer v o else .none
    else .none

/-- Is device v reachable (R374, R376)? -/
def State.reaches (s : State) (p v : Nat) : Bool := nbit ((s.part p).reach.getD (v / 64) 0#64).toNat (v % 64)

/-- The WORD of a device-memory key (R89). -/
def wordOf (pa : Nat) : Nat := if pa < 0xA000000000 then pa / 8 else 2 ^ 37 + (pa - bankBase) / 8
/-- The DRAM byte address of a WORD. -/
def wordLin (w : Nat) : Nat := if w < 2 ^ 37 then linOfInter (8 * w) else 8 * (w - 2 ^ 37)
/-- The key address of a WORD. -/
def wordKey (w : Nat) : Nat := if w < 2 ^ 37 then 8 * w else bankBase + 8 * (w - 2 ^ 37)
/-- The home die of a WORD (R84). -/
def homeOf (w : Nat) : Nat := wordLin w / 2 ^ 37
/-- The home die of a key address, bits [39:37] of its bank-linear form (R84). -/
def homeDie (pa : Nat) : Nat := homeOf (wordOf pa)
/-- The pseudo-channel of a key (R84). -/
def chanOf (pa : Nat) : Nat := (linOf pa).getD 0 / 2 ^ 31

/-! ### Full/empty bits, poison, barn cells -/

def State.isFull (s : State) (lin : Nat) : Bool := s.full.contains (lin / 8)
def State.setFull (s : State) (lin : Nat) (b : Bool) : State :=
  { s with full := if b then ninsert (lin / 8) s.full else s.full.filter (· != lin / 8) }
def State.isPoison (s : State) (lin : Nat) : Bool := s.poison.contains (lin / 8)
def State.setPoison (s : State) (lin : Nat) (b : Bool) : State :=
  { s with poison := if b then ninsert (lin / 8) s.poison else s.poison.filter (· != lin / 8) }

/-- The barn cells of the word at `lin`: lane offset, width, BF, cell. -/
def State.cellsAt (s : State) (lin : Nat) : List (Nat × Width × Bool × Cell) :=
  (s.cells.filter fun c => c.1 / 8 == lin / 8).map fun c => (c.1 % 8, c.2)
/-- Cells held in a pseudo-channel's store. -/
def State.cellCount (s : State) (q : Nat) : Nat := (s.cells.filter fun c => c.1 / 2 ^ 31 == q).length
/-- Cells a pseudo-channel's store can hold (R319). -/
def State.cellCap (s : State) (q : Nat) : Nat := fld (s.part (s.partOf (q / 64))).cellstore 0 8 * 2 ^ 20 / 48

/-- Write bytes straight to DRAM as a barn state: the barn cells of the bytes written go (R96). -/
def State.dramWrite (s : State) (lin : Nat) (bs : List Byte) : State :=
  { s with
    mem := s.mem.writeN lin bs
    cells := s.cells.filter fun c => decide (c.1 + c.2.1.bytes ≤ lin) || decide (lin + bs.length ≤ c.1) }

def State.dramRead (s : State) (lin n : Nat) : Nat := leNat (s.mem.readN lin n)

/-! ### Scratchpad and operand memory -/

/-- The physical byte, within the context's half, of a view address of a group; none where R32 calls it invalid. -/
def State.spPhys (s : State) (grp a : Nat) : Option Nat :=
  match aget? s.groups grp with
  | some g => if a < 0xC0000 ∧ a % 0x40000 < g.spSize then some ((a / 0x40000) * 0x40000 + g.spBase + a % 0x40000) else none
  | none => none

/-- Which placement wrote the bytes around a physical scratchpad byte (R85). -/
def Half.spEpochAt (h : Half) (a : Nat) : Nat :=
  match h.spEpoch.find? (fun e => decide (e.1 ≤ a % 0x40000) && decide (a % 0x40000 < e.1 + e.2.1)) with | some e => e.2.2 | none => 0
def Half.spByte (h : Half) (a : Nat) : Byte := (sread h.sp a).getD (Config.spByte (h.spEpochAt a) a)
def Half.spBytes (h : Half) (a : Nat) : Nat → List Byte
  | 0 => []
  | n + 1 => h.spByte a :: h.spBytes (a + 1) n

/-- The half a group lives in. -/
def State.halfOf (s : State) (g : Group) : Half := s.half g.die g.clu g.ctx

/-- The lowest of the n view addresses from `a` that R32 calls invalid for the group (R197). -/
def State.spBad (s : State) (grp a n : Nat) : Option Nat :=
  let a := a % 2 ^ 32
  match aget? s.groups grp with
  | none => if n = 0 then none else some a
  | some g =>
    if n = 0 then none
    else if !(decide (a < 0xC0000) && decide (a % 0x40000 < g.spSize)) then some a
    else
      let room := g.spSize - a % 0x40000
      if n ≤ room then none
      else if g.spSize = 0x40000 then
        (if a + n ≤ 0xC0000 then none else some 0xC0000)
      else some (a + room)

/-- Read n bytes at a view address; the range has been checked. -/
def State.spRead (s : State) (grp a n : Nat) : List Byte :=
  match aget? s.groups grp with
  | none => List.replicate n 0#8
  | some g => let h := s.halfOf g
    (List.range n).map fun i =>
      let v := (a + i) % 2 ^ 32
      h.spByte ((v / 0x40000) * 0x40000 + g.spBase + v % 0x40000)

/-- The scratchpad words of a half that n bytes at a view address meet: those wholly covered, and all of them. -/
def Group.spWords (g : Group) (a n : Nat) (whole : Bool) : List Nat :=
  let w (i : Nat) : Nat := let v := (a + i) % 2 ^ 32; ((v / 0x40000) * 0x40000 + g.spBase + v % 0x40000) / 8
  ((List.range n).filter fun i => if whole then (a + i) % 8 == 0 && decide (i + 8 ≤ n) else i == 0 || (a + i) % 8 == 0).map w

/-- Is any word that n bytes at a view address meet poisoned (R364)? -/
def State.spPoisoned (s : State) (grp a n : Nat) : Bool :=
  match aget? s.groups grp with
  | none => false
  | some g => let bad := (s.halfOf g).spPois
    !bad.isEmpty && (g.spWords a n false).any bad.contains

/-- Write bytes at a view address; the range has been checked (R118). A word written whole is poisoned no more (R364; log 46). -/
def State.spWrite (s : State) (grp a : Nat) (bs : List Byte) : State :=
  match aget? s.groups grp with
  | none => s
  | some g =>
    let h := s.halfOf g
    let sp := (bs.zipIdx).foldl (fun m b =>
      let v := (a + b.2) % 2 ^ 32
      swrite m ((v / 0x40000) * 0x40000 + g.spBase + v % 0x40000) b.1) h.sp
    s.setHalf g.die g.clu g.ctx { h with sp := sp, spPois := if h.spPois.isEmpty then [] else h.spPois.filter fun w => !((g.spWords a bs.length true).contains w) }

/-- A byte of operand memory: physical slot · 8192 + offset. -/
def Half.opByte (h : Half) (a : Nat) : Byte := (sread h.opm a).getD (Config.opByte (aget 0 h.opEpoch (a / 8192)) a)
/-- Bytes of a run of group slots from byte b on (R222). -/
def Half.opRead (h : Half) (g : Group) (first b n : Nat) : List Byte :=
  (List.range n).map fun i =>
    let x := b + i
    h.opByte (g.opPhys.getD (first + x / 8192) 0 * 8192 + x % 8192)
/-- Does a read of n bytes meet a poisoned word of operand memory (R364)? -/
def Half.opPoisoned (h : Half) (g : Group) (first b n : Nat) : Bool :=
  !h.opPois.isEmpty && (List.range n).any fun i => let x := b + i; h.opPois.contains ((g.opPhys.getD (first + x / 8192) 0 * 8192 + x % 8192) / 8)
def Half.opWrite (h : Half) (g : Group) (first b : Nat) (bs : List Byte) : Half :=
  { h with
    opPois := if h.opPois.isEmpty then [] else h.opPois.filter fun w => !((List.range bs.length).any fun i => let x := b + i
      let y := g.opPhys.getD (first + x / 8192) 0 * 8192 + x % 8192
      y == 8 * w && decide (i + 8 ≤ bs.length))
    opm := (bs.zipIdx).foldl (fun m c =>
      let x := b + c.2
      swrite m (g.opPhys.getD (first + x / 8192) 0 * 8192 + x % 8192) c.1) h.opm }

/-! ### Host memory -/

def State.hostRead (s : State) (a n : Nat) : Nat := leNat ((List.range n).map fun i => (sread s.host (a + i)).getD (Config.hostByte (a + i)))
def State.hostWriteB (s : State) (a : Nat) (bs : List Byte) : State := { s with host := swriteN s.host a bs }

end Sys2Proof.Machine
end

