-- ==== Sys2Proof/Machine/Fen.lean ====
section
/-!
DEFINITION. Fen.lean: keyed updates in runs (R87 to R97), the load's fold (R98, R99), held entries (R103 to R107), causal
admission (R119, R120), releases and SETTLE (R108, R116), and full/empty words at the barn (R101).
-/
namespace Sys2Proof

/-- Slots of a run (R90). -/
def RunId.cap : RunId → Nat | .sheaf _ _ _ => 512 | .stook _ _ => 8192 | .rick _ => 2097152
/-- The occupancy at which a run asks for a merge (R91). -/
def RunId.threshold : RunId → Nat | .sheaf _ _ _ => 384 | .stook _ _ => 6144 | .rick _ => 1572864
def RunId.dieOf : RunId → Nat | .sheaf d _ _ => d | .stook d _ => d | .rick d => d
def RunId.level : RunId → Nat | .sheaf _ _ _ => 0 | .stook _ _ => 1 | .rick _ => 2

end Sys2Proof

namespace Sys2Proof.Machine
open Sys2Proof

/-! ### Views: what a fold builds -/

/-- A word being folded: its bytes, and the lanes that hold a cell (R98). -/
structure View where
  val   : Nat
  cells : List (Nat × Width × Bool × Cell)
  deriving DecidableEq, Repr

/-- The n bytes of a word from byte offset o. -/
def laneGet (val o n : Nat) : Nat := nfld val (8 * o) (8 * n)
/-- Replace them. -/
def laneSet (val o n x : Nat) : Nat :=
  val - laneGet val o n * 2 ^ (8 * o) + (x % 2 ^ (8 * n)) * 2 ^ (8 * o)

/-- Lanes o, o + n meet lanes p, p + m? -/
def overlap (o n p m : Nat) : Bool := decide (o < p + m) && decide (p < o + n)

/-- CellRound every cell that meets the lane (R98). -/
def View.settleLane (v : View) (o n : Nat) : View :=
  v.cells.foldl (fun acc c =>
    if overlap o n c.1 c.2.1.bytes then
      { acc with val := laneSet acc.val c.1 c.2.1.bytes (c.2.2.2.round (laneFF c.2.1 c.2.2.1)) }
    else { acc with cells := acc.cells ++ [c] }) ⟨v.val, []⟩

def View.settle (v : View) : View := v.settleLane 0 8

/-- Apply one lane of an entry: the new view, or the operator fault with the lane left as it was (R88, R98, R103). -/
def View.applyLane (v : View) (e : Entry) (o : Nat) : Except OpFault View :=
  let n := e.width.bytes
  match e.op with
  | .fsum =>
    let f := laneFF e.width e.bf
    match v.cells.find? fun c => c.1 == o && c.2.1 == e.width && c.2.2.1 == e.bf with
    | some c =>
      let (r, ov) := c.2.2.2.add e.cell
      if ov then .error .cellOverflow
      else .ok { v with cells := v.cells.map fun d => if d.1 == o && d.2.1 == e.width then (o, e.width, e.bf, r) else d }
    | none =>
      let v := v.settleLane o n
      let (r, ov) := (cellOf f (laneGet v.val o n)).add e.cell
      if ov then .error .cellOverflow else .ok { v with cells := v.cells ++ [(o, e.width, e.bf, r)] }
  | _ =>
    let v := v.settleLane o n
    match laneOp e.op e.width e.bf (laneGet v.val o n) (laneGet e.val.toNat o n) with
    | .ok x => .ok { v with val := laneSet v.val o n x }
    | .error f => .error f

/-- The lane offsets an entry holds. -/
def Entry.lanes (e : Entry) : List Nat :=
  ((List.range 8).filter fun o => o % e.width.bytes == 0).filter fun o => nbit e.be.toNat o

/-- Apply an entry whole, at the barn (R96). -/
def View.apply (v : View) (e : Entry) : Except OpFault View :=
  e.lanes.foldlM (fun v o => v.applyLane e o) v

/-- Apply an entry in a load's fold: where R103 names an operator fault the lane becomes the canonical quiet NaN of its format (R303). -/
def View.fold (v : View) (e : Entry) : View :=
  e.lanes.foldl (fun v o => match v.applyLane e o with
    | .ok v' => v'
    | .error _ =>
      let w := v.settleLane o e.width.bytes
      { w with val := laneSet w.val o e.width.bytes (heldDefault e.op e.width e.bf) }) v

/-! ### Entries -/

def unionL {α : Type} [DecidableEq α] (a b : List α) : List α := a ++ b.filter fun x => !(a.contains x)

/-- Slots an entry takes (R89). -/
def Entry.size (e : Entry) : Nat := if e.op == .fsum then 3 else 1
def Run.occ (r : Run) : Nat := r.ents.foldl (fun n e => n + e.size) 0
/-- Same shape (R93). -/
def sameShape (e u : Entry) : Bool :=
  e.op == u.op && e.width == u.width && e.bf == u.bf && e.ctx == u.ctx && (e.op != .fsum || e.be == u.be)

/-- The bookkeeping of a meeting: owners and marks of both stay with the joined entry. -/
def joinMeta (e u r : Entry) : Entry :=
  { r with owners := unionL e.owners u.owners, marks := unionL e.marks u.marks, poison := e.poison || u.poison }

/-- Combine u into e of the same shape (R88, R93). -/
def combine (e u : Entry) : Except OpFault Entry :=
  match e.op with
  | .fsum =>
    let (c, ov) := e.cell.add u.cell
    if ov then .error .cellOverflow else .ok (joinMeta e u { e with cell := c })
  | _ => do
    let val ← u.lanes.foldlM (fun val o =>
      let n := e.width.bytes
      if nbit e.be.toNat o then do
        let x ← laneOp e.op e.width e.bf (laneGet val o n) (laneGet u.val.toNat o n)
        pure (laneSet val o n x)
      else pure (laneSet val o n (laneGet u.val.toNat o n))) e.val.toNat
    .ok (joinMeta e u { e with val := BitVec.ofNat 64 val, be := e.be ||| u.be })

/-- How u meets the resident e, short of a clash (R93): the joined entry, a clash, or an operator fault. -/
inductive Meet where
  | joined (e : Entry)
  | clash
  | opFault (f : OpFault)
  deriving DecidableEq, Repr

def meet (e u : Entry) (direct : Bool) : Meet :=
  if sameShape e u then
    match combine e u with
    | .ok r => .joined r
    | .error f => if direct then .clash else .opFault f
  else if u.op == .replace && e.ctx == u.ctx && e.be &&& u.be == e.be then
    .joined { joinMeta e u u with poison := u.poison }
  else if u.op == .replace && e.op == .replace && e.ctx == u.ctx then
    let val := (List.range 8).foldl (fun v o => if nbit u.be.toNat o then laneSet v o 1 (laneGet u.val.toNat o 1) else v) e.val.toNat
    .joined (joinMeta e u { e with val := BitVec.ofNat 64 val, be := e.be ||| u.be, width := .b })
  else .clash

/-- Insert in ascending WORD order, after the entries of its word. -/
def insSorted (u : Entry) : List Entry → List Entry
  | [] => [u]
  | e :: r => if u.word < e.word then u :: e :: r else e :: insSorted u r

/-- Replace the ordinary resident entry of a word. -/
def setResident (u : Entry) (es : List Entry) : List Entry :=
  es.map fun e => if e.word == u.word && !e.pendHome then u else e

/-- What names an entry of a run in a merge: its word, and the handle of a resolved hand-off beside the resident (R104). -/
def Entry.mkey (e : Entry) : Nat × Nat := (e.word, if e.pendHome then e.handle else 0)

/-- Take an entry out of a run, and out of the merge in progress. -/
def Run.take (r : Run) (e : Entry) : Run :=
  { r with ents := r.ents.filter fun x => !(decide (x = e)), todo := r.todo.filter fun k => !(decide (k = e.mkey)) }

def Run.resident (r : Run) (w : Nat) : Option Entry := r.ents.find? fun e => e.word == w && !e.pendHome
def Run.hasHeld (r : Run) (w : Nat) : Bool := r.ents.any fun e => e.word == w && e.held

/-! ### Records (R327, R328) and the error log (R366) -/

/-- Queue a fault record for a context's ring. -/
def State.pushRec (s : State) (p c : Nat) (r : FRec) : State :=
  s.setCtx p c { s.ctx p c with recq := (s.ctx p c).recq ++ [r] }

/-- The second doubleword of a record (R328). -/
def recHead (kind cause ctx level die clu core home unit domain : Nat) : W64 :=
  BitVec.ofNat 64 (kind + cause % 256 * 2 ^ 8 + ctx % 2 * 2 ^ 16 + level % 4 * 2 ^ 17 + die % 8 * 2 ^ 19 + clu % 128 * 2 ^ 22 +
    core % 4 * 2 ^ 29 + home % 2 * 2 ^ 31 + unit % 65536 * 2 ^ 32 + domain % 65536 * 2 ^ 48)

/-- A cell's five doublewords (R89). -/
def cellWords (c : Int) : List W64 :=
  (List.range 5).map fun i => BitVec.ofNat 64 (wrapN 320 c / 2 ^ (64 * i))

def sideBits (c : Cell) : Nat := b2n c.pinf + 2 * b2n c.ninf + 4 * b2n c.nans

/-- A containing node (R37). -/
inductive CNode where
  | group (g : Nat)
  | launch (l : Nat)
  | device
  deriving DecidableEq, Repr

/-- The nearest containing launch region from l upwards, or the device region. -/
def State.upNode (s : State) : (n : Nat) → Option Nat → CNode
  | 0, _ => .device
  | _ + 1, none => .device
  | n + 1, some l =>
    match aget? s.launches l with
    | none => .device
    | some x => if x.contain then .launch l else State.upNode s n x.parent

/-- DOMAIN of a node (R34). -/
def State.nodeDomain (s : State) (p c g : Nat) (nd : CNode) : Nat :=
  match nd with
  | .group _ => (match aget? s.groups g with | some x => (match aget? s.launches x.launch with | some l => l.domain | none => 0) | none => 0)
  | .launch l => (match aget? s.launches l with | some x => x.domain | none => 0)
  | .device => (match (s.ctx p c).dev with | some d => d.domain | none => 0)

/-- DOMAIN of the containing node of an entry's first owner (R37, R328): its group where groups contain, else the nearest containing
region. -/
def State.domainOf (s : State) (p : Nat) (e : Entry) : Nat :=
  let l := (e.owners.head?.map (·.launch)).getD 0
  match aget? s.launches l with
  | some x => if x.gcontain then x.domain else s.nodeDomain p e.ctx 0 (s.upNode (s.launches.length + 1) (some l))
  | none => s.nodeDomain p e.ctx 0 .device

/-- The merge-fault record (R104, R328): the entry, its run, the destination's cell, or its value where it holds no cell. -/
def State.mergeRec (s : State) (r : RunId) (e : Entry) (f : OpFault) (dval : Nat) (dcell : Option Cell) : FRec :=
  let clu := match r with | .sheaf _ c _ => c | .stook _ c => c | .rick _ => 0
  let core := match r with | .sheaf _ _ k => k | _ => 0
  let src := if e.op == .fsum then cellWords e.cell.c else [e.val, 0#64, 0#64, 0#64, 0#64]
  let dst := match dcell with | some c => cellWords c.c | none => [BitVec.ofNat 64 dval, 0#64, 0#64, 0#64, 0#64]
  { kind := 1, ti := none, uid := 0
    words := [BitVec.ofNat 64 e.handle,
      recHead 1 f.code e.ctx r.level r.dieOf clu core (b2n e.pendHome) 0 (s.domainOf (s.partOf r.dieOf) e),
      BitVec.ofNat 64 (wordKey e.word + e.be.toNat * 2 ^ 52),
      BitVec.ofNat 64 (e.op.code + e.width.code * 32 + b2n e.bf * 128 + sideBits e.cell * 256 + sideBits (dcell.getD Cell.zero) * 2048)]
      ++ src ++ dst ++ [0#64, 0#64] }

/-- Count an error, and queue its 64-byte record; with no log, or a full one, it is only counted (R366). -/
def State.errLog (s : State) (p kind site die clu unit addr : Nat) (corrected : Bool) : State :=
  let pt := s.part p
  let lo := fld pt.ecount 0 32
  let hi := fld pt.ecount 32 32
  let cnt := if corrected then BitVec.ofNat 64 (min (lo + 1) (2 ^ 32 - 1) + hi * 2 ^ 32)
    else BitVec.ofNat 64 (lo + min (hi + 1) (2 ^ 32 - 1) * 2 ^ 32)
  let pt := { pt with ecount := if kind = 1 ∨ kind = 2 then cnt else pt.ecount }
  let n := 2 ^ fld pt.elog 0 5
  let full := ((pt.ehead - pt.etail).toNat + pt.errQ.length) % 2 ^ 32 == n
  if pt.elog = 0#64 ∨ full = true then s.setPart p pt
  else
    let ws : List W64 := [BitVec.ofNat 64 (kind + site * 2 ^ 8 + die % 8 * 2 ^ 16 + clu % 128 * 2 ^ 19 + unit % 512 * 2 ^ 26), BitVec.ofNat 64 addr,
      BitVec.ofNat 64 s.clk, 0#64, 0#64, 0#64, 0#64, 0#64]
    s.setPart p { pt with errQ := pt.errQ ++ [ws] }

/-! ### Moving entries outward (R92 to R96) -/

/-- The answer of bringing an entry somewhere: done, waiting behind a held entry of its word (R105), waiting for a slot (R92),
or stopped by an operator fault with the destination's value (R104). -/
inductive Put where
  | ok (s : State)
  /-- the state beside: an entry it met may have become held on the way -/
  | behind (s : State)
  /-- no free slot: the state beside, in which an entry of the word may have moved outward already -/
  | noRoom (s : State)
  | opFault (f : OpFault) (dval : Nat) (dcell : Option Cell)
  deriving Repr

def granLine (w : Nat) : Nat := wordKey w / 64
/-- Drop a die's granary line holding a word (R95, R113). -/
def State.dropLine (s : State) (d w : Nat) : State :=
  s.setDie d { s.die d with granary := (s.die d).granary.filter fun g => g.line != granLine w }

/-- Send (R120). -/
def State.send (s : State) (d : Nat) (e : Entry) : State :=
  let x := s.die d
  let q : Sent := ⟨e, d, homeOf e.word, x.hseq + 1, x.cvec⟩
  (s.setDie d { x with hseq := x.hseq + 1, sent := x.sent ++ [q] }).dropLine d e.word

/-- A class-0 request to the bank group of a barn byte arrives (R274): a unit that runs there finds it at its next occasion, one that is
suspended or stopped does not delay it (R309; log 6). -/
def State.class0 (s : State) (lin : Nat) : State :=
  let k := (lin / 2 ^ 31, lin / 2048 % 4)
  let u := s.sluice k.1 k.2
  { s with asked := if u.busy && !u.susp && !s.asked.contains k then s.asked ++ [k] else s.asked }
/-- The requests of an access to n bytes. -/
def State.class0s (s : State) (lin n : Nat) : State :=
  (List.range ((n + 2047) / 2048)).foldl (fun (s : State) i => s.class0 (lin + 2048 * i)) s

/-- Apply an entry at the barn (R96, R97, R364), whole lanes at a time. -/
def State.barnApply (s : State) (e : Entry) : Put :=
  let lin := wordLin e.word
  let q := lin / 2 ^ 31
  let p := s.partOf (q / 64)
  let s := s.class0 lin
  if (s.reed q).retired then .ok (s.errLog p 7 2 (q / 64) 127 q (wordKey e.word) false)
  else if s.isPoison lin && !(e.op == .replace && e.be == 0xFF#8) then .ok (s.errLog p 2 2 (q / 64) 127 q (wordKey e.word) false)
  else if e.poison then .ok (s.setPoison lin true)
  else
    let v : View := ⟨s.dramRead lin 8, s.cellsAt lin⟩
    match v.apply e with
    | .error f => .opFault f v.val ((v.cells.find? fun c => e.op == .fsum && e.lanes.contains c.1 && c.2.1 == e.width && c.2.2.1 == e.bf).map (·.2.2.2))
    | .ok v' =>
      let rest := s.cells.filter fun c => c.1 / 8 != lin / 8
      let others := (rest.filter fun c => c.1 / 2 ^ 31 == q).length
      let isNew := v'.cells.length > v.cells.length
      if isNew && decide (s.cellCap q < others + v'.cells.length) then .opFault .cellFull v.val none
      else
        let out := v'.cells.foldl (fun x c => laneSet x c.1 c.2.1.bytes (c.2.2.2.round (laneFF c.2.1 c.2.2.1))) v'.val
        let s := { s with mem := s.mem.writeN lin (leBytes 8 out), cells := rest ++ v'.cells.map fun c => (lin / 8 * 8 + c.1, c.2) }
        .ok (if e.op == .replace && e.be == 0xFF#8 then s.setPoison lin false else s)

/-- Entries of a context's nonzero tag in a rick run (R94, R346). -/
def Run.tagCount (r : Run) (c t : Nat) : Nat := (r.ents.filter fun e => e.ctx == c && e.qtag == t).length
/-- The quota that a tag stands for on a die: the effective RUN_QUOTA of the region it was given last (R94, R346). -/
def State.quotaOf (s : State) (d ctx t : Nat) : Nat :=
  match (s.launches.filter fun l => l.2.qtag == t && l.2.ctx == ctx && l.2.p == s.partOf d).getLast? with | some l => l.2.quota | none => 0

/-- An operator fault holds entry e in run r, out of the merge in progress, and queues its record (R104). -/
def State.holdEntry (s : State) (r : RunId) (e : Entry) (f : OpFault) (dval : Nat) (dcell : Option Cell) : State :=
  let e' := { e with held := true, handle := s.fresh }
  let s := { s with fresh := s.fresh + 1 }
  let s := s.setRun r { s.run r with ents := (s.run r).ents.map fun x => if x = e then e' else x
                                     todo := (s.run r).todo.filter fun k => !(decide (k = e.mkey)) }
  s.pushRec (s.partOf r.dieOf) e.ctx (s.mergeRec r e' f dval dcell)

/-- Put an entry into a run as it stands. -/
def State.restore (s : State) (r : RunId) (e : Entry) : State := s.setRun r { s.run r with ents := insSorted e (s.run r).ents }

/-- Put an entry back into the run it was taken from, and into the merge that was to move it: `todo` is what that merge had to move (R92). -/
def State.untake (s : State) (r : RunId) (e : Entry) (todo : List (Nat × Nat)) : State :=
  s.setRun r { s.run r with ents := insSorted e (s.run r).ents, todo := todo }

mutual
/-- Bring u into run r (R93, R94). `direct` marks the two meetings that never fault. `n` counts the levels left. (log 39) -/
def State.put : (n : Nat) → State → RunId → Entry → (direct : Bool) → Put
  | 0, s, _, _, _ => .noRoom s
  | n + 1, s, r, u, direct =>
    let run := s.run r
    let u := { u with born := s.clk }
    if run.hasHeld u.word then .behind s
    else match run.resident u.word with
      | none =>
        let passOn := match r with
          | .rick d => u.qtag != 0 && decide (s.quotaOf d u.ctx u.qtag ≤ run.tagCount u.ctx u.qtag) && decide (0 < s.quotaOf d u.ctx u.qtag)
          | _ => false
        if passOn then State.out n s r u
        else if run.occ + u.size ≤ r.cap then
          .ok ((s.setRun r { run with ents := insSorted u run.ents }).dropIfRick r u.word)
        else .noRoom s
      | some e =>
        match meet e u direct with
        | .joined x => .ok ((s.setRun r { run with ents := setResident x run.ents }).dropIfRick r u.word)
        | .opFault f => .opFault f e.val.toNat (if e.op == .fsum then some e.cell else none)
        | .clash =>
          match State.out n (s.setRun r (run.take e)) r e with
          | .ok s' =>
            let run' := s'.run r
            if run'.occ + u.size ≤ r.cap then .ok ((s'.setRun r { run' with ents := insSorted u run'.ents }).dropIfRick r u.word)
            else .noRoom s'
          | .behind s' => .behind (s'.untake r e run.todo)
          | .noRoom s' => .noRoom (s'.untake r e run.todo)
          | .opFault f dv dc => .behind (s.holdEntry r e f dv dc)
/-- Move e, already taken out of run r, one level outward (R90, R93, R95, R96). -/
def State.out : (n : Nat) → State → RunId → Entry → Put
  | 0, s, _, _ => .noRoom s
  | n + 1, s, r, e =>
    match r with
    | .sheaf d c _ => State.put n s (.stook d c) e false
    | .stook d _ => if homeOf e.word = d then .ok (s.send d e) else State.put n s (.rick d) e false
    | .rick d => if homeOf e.word = d then s.barnApply e else .ok (s.send d e)
/-- An entry that joins a die's rick run drops the die's granary line (R113). -/
def State.dropIfRick (s : State) (r : RunId) (w : Nat) : State :=
  match r with | .rick d => s.dropLine d w | _ => s
end

/-- The levels a chain of clashes can run through. -/
def levels : Nat := 8

/-- Move an unheld entry of a run one level on; an operator fault holds it where it was and queues the record (R92, R104). True where
the destination has no free slot: the entry stays, and so does its place in a merge in progress. -/
def State.moveEnt (s : State) (r : RunId) (e : Entry) : State × Bool :=
  match State.out levels (s.setRun r ((s.run r).take e)) r e with
  | .ok s' => (s', false)
  | .behind s' => (s'.untake r e (s.run r).todo, false)
  | .noRoom s' => (s'.untake r e (s.run r).todo, true)
  | .opFault f dv dc => (s.holdEntry r e f dv dc, false)

/-- The unheld entries of a word in a run, in the order of a merge: the resident, then resolved hand-offs (R104). -/
def Run.ofWord (r : Run) (w : Nat) : List Entry :=
  let es := r.ents.filter fun e => e.word == w && !e.held
  (es.filter fun e => !e.pendHome) ++ es.filter fun e => e.pendHome

/-- Move every unheld entry of a word one level on. -/
def State.moveWord (s : State) (r : RunId) (w : Nat) : State :=
  ((s.run r).ofWord w).foldl (fun s e => (s.moveEnt r e).1) s

/-- The entries a merge that begins now takes, in ascending WORD order (R92). -/
def Run.keys (r : Run) : List (Nat × Nat) :=
  (((r.ents.filter fun e => !e.held).map (·.word)).foldl (fun a w => ninsert w a) []).flatMap fun w => (r.ofWord w).map (·.mkey)

/-- Up to n keys of a merge in progress; it stalls at a key whose destination has no free slot (R92), and skips one whose entry stays behind a
held entry (R105). -/
def State.mergeKeys : Nat → State → RunId → State
  | 0, s, _ => s
  | n + 1, s, r =>
    match (s.run r).todo with
    | [] => s
    | k :: rest =>
      match (s.run r).ents.find? fun e => !e.held && decide (e.mkey = k) with
      | none => State.mergeKeys n (s.setRun r { s.run r with todo := rest }) r
      | some e =>
        match s.moveEnt r e with
        | (s', true) => s'
        | (s', false) => State.mergeKeys n (s'.setRun r { s'.run r with todo := (s'.run r).todo.filter (· != k) }) r

def State.wantMerge (s : State) (r : RunId) : State :=
  if (s.run r).ents.isEmpty then s else s.setRun r { s.run r with want := true }

/-! ### Folding (R98, R99, R106) -/

/-- A load's place: its die, and the cluster and core whose runs lie on its path (none for engines, walks and the home view). -/
structure Path where
  die  : Nat
  clu  : Option (Nat × Nat)
  deriving DecidableEq, Repr

/-- Every held entry that a load of the word meets (R104, R106). -/
def State.heldOn (s : State) (p : Path) (w : Nat) : List Entry :=
  let of (r : RunId) := (s.run r).ents.filter fun e => e.word == w && e.held
  (if p.die = homeOf w then [] else of (.rick p.die)) ++ of (.rick (homeOf w)) ++
  (match p.clu with | some (c, k) => of (.stook p.die c) ++ of (.sheaf p.die c k) | none => [])

/-- Entries of a word that a fold takes from one run. -/
def State.runEnts (s : State) (r : RunId) (w : Nat) : List Entry := (s.run r).ents.filter fun e => e.word == w && !e.held

/-- The home view (Ordering chapter): barn word and cells, then the home rick run, a resolved hand-off after the resident. -/
def State.homeView (s : State) (w : Nat) : View :=
  let lin := wordLin w
  let es := s.runEnts (.rick (homeOf w)) w
  ((es.filter fun e => !e.pendHome) ++ (es.filter fun e => e.pendHome)).foldl View.fold ⟨s.dramRead lin 8, s.cellsAt lin⟩

/-- Entries on the path outside the home view, oldest first (R98). -/
def State.pathEnts (s : State) (p : Path) (w : Nat) : List Entry :=
  ((s.die p.die).sent.filter fun x => x.e.word == w).map (·.e) ++
  (if p.die = homeOf w then [] else s.runEnts (.rick p.die) w) ++
  (match p.clu with | some (c, k) => s.runEnts (.stook p.die c) w ++ s.runEnts (.sheaf p.die c k) w | none => [])

/-- Is an entry for the word on the load's path an FSUM entry (R98)? The path takes in the home view, and so the home rick run; a held entry
stands on it as any other does. -/
def State.fsumOn (s : State) (p : Path) (w : Nat) : Bool :=
  (s.pathEnts p w ++ s.runEnts (.rick (homeOf w)) w ++ s.heldOn p w).any fun e => e.op == .fsum

/-- The line of a die's granary that may serve the word (R98). -/
def State.granHit (s : State) (p : Path) (w : Nat) : Option GLine :=
  if p.die = homeOf w || s.fsumOn p w then none
  else (s.die p.die).granary.find? fun g => g.line == granLine w

/-- LoadFold (R98). `gran` is false for engines, walks and fetch, which use no granary line (R126, R144, R352). -/
def State.loadFold (s : State) (p : Path) (w : Nat) (gran : Bool) : View :=
  let base : View := match (if gran then s.granHit p w else none) with
    | some g => ⟨leNat ((g.bytes.drop (wordKey w % 64)).take 8), []⟩
    | none => s.homeView w
  ((s.pathEnts p w).foldl View.fold base).settle

/-- Respond (R120). -/
def maxL (a b : List Nat) : List Nat := (a.zip b).map fun x => max x.1 x.2
def State.respond (s : State) (h d : Nat) : State :=
  if h = d then s else s.setDie d { s.die d with cvec := maxL (s.die d).cvec (s.die h).cvec }

/-- The words of a granary line. -/
def lineWords (w : Nat) : List Nat := (List.range 8).map fun i => w / 8 * 8 + i

/-- Lines of a die's granary: 16 MiB (R4). -/
def granaryLines : Nat := 2 ^ 18

/-- What a load leaves behind: Respond, and the granary line it fills when R99 and R113 allow (log 12). -/
def State.afterLoad (s : State) (p : Path) (w : Nat) (gran : Bool) : State :=
  let h := homeOf w
  match (if gran then s.granHit p w else none) with
  | some g => s.setDie p.die { s.die p.die with cvec := maxL (s.die p.die).cvec g.cvec }
  | none =>
    let s' := (s.respond h p.die).class0 (wordLin w)
    let ws := lineWords w
    let clear := ws.all fun x => (s.runEnts (.rick p.die) x).isEmpty && ((s.die p.die).sent.all fun y => y.e.word != x)
    let noHeld := ws.all fun x => (s.heldOn ⟨p.die, none⟩ x).isEmpty
    if gran && h != p.die && clear && !(s.fsumOn p w) && noHeld then
      let bytes := ws.flatMap fun x => leBytes 8 (s.homeView x).settle.val
      let old := (s'.die p.die).granary.filter fun g => g.line != granLine w
      let bad := ws.filter fun x => s.isPoison (wordLin x) || (s.runEnts (.rick h) x).any (·.poison)
      s'.setDie p.die { s'.die p.die with granary := old.drop (old.length + 1 - granaryLines) ++ [⟨granLine w, bytes, (s.die h).cvec, bad⟩] }
    else s'

/-- Acquire (R108): at device and system scope the granary of the die is flushed. -/
def State.acquire (s : State) (d : Nat) (sc : Scope) : State :=
  match sc with
  | .dev | .sys => s.setDie d { s.die d with granary := [] }
  | _ => s

/-- An acquire by the command processor or the scheduler (R40, R342): it stands for every die of the partition (log 35). -/
def State.acqPart (s : State) (p : Nat) : State := (s.partDies p).foldl (fun s d => s.acquire d .dev) s

/-- The answer of reading n bytes of a key in device memory. -/
inductive LoadR where
  | ok (v : Nat) (s : State)
  | held
  | poison
  deriving Repr

/-- Is anything that the fold of a word takes poisoned (R364)? A granary line stands for the home view it holds. -/
def State.foldPoison (s : State) (p : Path) (w : Nat) (gran : Bool) : Bool :=
  (s.pathEnts p w).any (·.poison) ||
  (match (if gran then s.granHit p w else none) with
   | some g => g.bad.contains w
   | none => s.isPoison (wordLin w) || (s.runEnts (.rick (homeOf w)) w).any (·.poison))

/-- A load of n ≤ 8 bytes within one word (R98, R106, R364). -/
def State.loadKey (s : State) (p : Path) (key n : Nat) (gran : Bool) : LoadR :=
  let w := wordOf key
  let o := key % 8
  if (s.heldOn p w).any fun e => (List.range n).any fun i => nbit e.be.toNat (o + i) then .held
  else if s.foldPoison p w gran then .poison
  else .ok (laneGet (s.loadFold p w gran).val o n) (s.afterLoad p w gran)

/-- A run of bytes that may span words: every word is read whole. -/
def State.loadBytes (s : State) (p : Path) (gran : Bool) : (n : Nat) → (key : Nat) → LoadR
  | 0, _ => .ok 0 s
  | n + 1, key =>
    match State.loadKey s p key 1 gran with
    | .ok b s' =>
      match State.loadBytes s' p gran n (key + 1) with
      | .ok v s'' => .ok (b + 256 * v) s''
      | x => x
    | x => x

/-! ### Forming updates -/

/-- An entry of one lane at a key address (R87, R89). -/
def mkEntry (key : Nat) (op : KOp) (wd : Width) (bf : Bool) (ctx qtag : Nat) (v : W64) (owners : List Owner) (clk : Nat) : Entry :=
  let o := key % 8
  let n := wd.bytes
  { word := wordOf key, op := op, width := wd, be := BitVec.ofNat 8 ((2 ^ n - 1) * 2 ^ o)
    bf := bf && wd == .h && (op == .fsum || op == .fmin || op == .fmax), held := false, ctx := ctx, qtag := qtag
    val := if op == .fsum then 0#64 else BitVec.ofNat 64 ((v.toNat % 2 ^ (8 * n)) * 2 ^ (8 * o))
    cell := if op == .fsum then cellOf (laneFF wd bf) (v.toNat % 2 ^ (8 * n)) else Cell.zero
    owners := owners, marks := [], born := clk, handle := 0, pendHome := false, poison := false }

/-- Insert directly into a die's rick run (R93): an engine, a tile or the endpoint. A key homed at the die is sent (R119). An
error is the state in which the insertion still waits. -/
def State.insertRick (s : State) (d : Nat) (e : Entry) : Except State State :=
  if homeOf e.word = d then .ok (s.send d e)
  else match State.put levels s (.rick d) e true with | .ok s' => .ok s' | .behind s' => .error s' | .noRoom s' => .error s' | .opFault _ _ _ => .error s

/-- REPLACE of bytes by an engine on die d, byte by byte of each word (R256); the owner's completion release waits for it. -/
def State.engineWrite (s : State) (d ctx : Nat) (owner : Owner) (key : Nat) : List Byte → Except State State
  | [] => .ok s
  | b :: bs => do
    let s ← s.insertRick d (mkEntry key .replace .b false ctx 0 (BitVec.ofNat 64 b.toNat) [owner] s.clk)
    State.engineWrite s d ctx owner (key + 1) bs

/-! ### Where updates stand (R108) -/

/-- Entries of the runs inside scope S on a die's cluster and core path, and the sent entries (R108). -/
def State.inside (s : State) (d c k : Nat) (sc : Scope) (f : Entry → Bool) : Bool :=
  let sheaf := (s.run (.sheaf d c k)).ents.any f
  let stook := (s.run (.stook d c)).ents.any f
  let rick := (s.run (.rick d)).ents.any fun e => f e && homeOf e.word != d
  let sent := (s.die d).sent.any fun x => f x.e
  match sc with
  | .thread | .core => false
  | .clu => sheaf
  | .die => sheaf || stook
  | .dev | .sys => sheaf || stook || rick || sent

/-- Ask for the merges of a release down to S on a path (R91). -/
def State.wantPath (s : State) (d c k : Nat) (sc : Scope) : State :=
  match sc with
  | .thread | .core => s
  | .clu => s.wantMerge (.sheaf d c k)
  | .die => (s.wantMerge (.sheaf d c k)).wantMerge (.stook d c)
  | .dev | .sys => ((s.wantMerge (.sheaf d c k)).wantMerge (.stook d c)).wantMerge (.rick d)

/-- Mark every entry of a run. -/
def State.markRun (s : State) (m : Nat) (r : RunId) : State :=
  if (s.run r).ents.isEmpty then s
  else s.setRun r { s.run r with ents := (s.run r).ents.map fun e => { e with marks := m :: e.marks } }
def State.markSent (s : State) (m d : Nat) : State :=
  s.setDie d { s.die d with sent := (s.die d).sent.map fun x => { x with e := { x.e with marks := m :: x.e.marks } } }

/-- Mark what a cumulative release at S waits for (R108). -/
def State.markPath (s : State) (m d c k : Nat) (sc : Scope) : State :=
  match sc with
  | .thread | .core => s
  | .clu => s.markRun m (.sheaf d c k)
  | .die => (s.markRun m (.sheaf d c k)).markRun m (.stook d c)
  | .dev | .sys => (((s.markRun m (.sheaf d c k)).markRun m (.stook d c)).markRun m (.rick d)).markSent m d

/-- The runs of a SETTLE's extent (R91). -/
def State.settleRuns (s : State) (p d c : Nat) (sc : Scope) : List RunId :=
  match sc with
  | .thread | .core => []
  | .clu => (List.range 4).map fun k => .sheaf d c k
  | .die => (s.runs.map (·.1)).filter fun r => r.dieOf == d && r.level != 2
  | .dev | .sys => (s.runs.map (·.1)).filter fun r => (s.partDies p).contains r.dieOf

def State.settleMark (s : State) (m p d c : Nat) (sc : Scope) : State :=
  let s := (s.settleRuns p d c sc).foldl (fun s r => s.markRun m r) s
  match sc with
  | .dev | .sys => (s.partDies p).foldl (fun s d => s.markSent m d) s
  | _ => s

/-- Does any marked entry still stand inside a SETTLE's scope (R116)? -/
def State.settleLeft (s : State) (m p d c : Nat) (sc : Scope) : Bool :=
  (s.settleRuns p d c sc).any (fun r => (s.run r).ents.any fun e => e.marks.contains m) ||
  (match sc with | .dev | .sys => (s.partDies p).any fun d => (s.die d).sent.any fun x => x.e.marks.contains m | _ => false)

def State.settleWant (s : State) (m p d c : Nat) (sc : Scope) : State :=
  (s.settleRuns p d c sc).foldl (fun s r => if (s.run r).ents.any (fun e => e.marks.contains m) then s.wantMerge r else s) s

/-! ### Full/empty words (R101, R117) -/

/-- One push of the entries for a word on a thread's path, run by run as far as they go now (R101). An entry names no thread (R89): what R117
and R180 call the thread's own entries are those on its own path. (log 30) -/
def State.pushWord (s : State) (d c k w : Nat) : State :=
  let s := s.moveWord (.sheaf d c k) w
  let s := s.moveWord (.stook d c) w
  let s := if homeOf w = d then s else s.moveWord (.rick d) w
  s.moveWord (.rick (homeOf w)) w

/-- Does an entry for the word stand on the thread's path, short of the barn (R101, R105)? -/
def State.pathLeft (s : State) (d c k w : Nat) : Bool :=
  let f (e : Entry) : Bool := e.word == w
  (s.run (.sheaf d c k)).ents.any f || (s.run (.stook d c)).ents.any f || (s.run (.rick d)).ents.any f ||
  (s.run (.rick (homeOf w))).ents.any f || (s.die d).sent.any fun x => f x.e

/-- A held entry for the word on the path: FILL, TAKE and PEEK wait (R105). -/
def State.heldPath (s : State) (d c k w : Nat) : Bool := !(s.heldOn ⟨d, some (c, k)⟩ w).isEmpty

/-- Drop the issuing die's line and Respond after acting at the barn (R181), as a class-0 request (R274). -/
def State.afterBarn (s : State) (d w : Nat) : State := ((s.dropLine d w).respond (homeOf w) d).class0 (wordLin w)

/-- FILL at the barn (R101): writes the value, sets full, discards the barn cells. -/
def State.barnFill (s : State) (lin : Nat) (v : W64) : State :=
  ((s.dramWrite lin (leBytes 8 v.toNat)).setFull lin true).setPoison lin false

end Sys2Proof.Machine
end

