-- ==== Sys2Proof/Machine/Xlate.lean ====
section
/-!
DEFINITION. Xlate.lean: address translation (R349 to R358): range entries, page tables, the two caches, permissions.
-/
namespace Sys2Proof.Machine
open Sys2Proof

/-- What an access needs (R353). -/
inductive Need where | fetch | read | write
  deriving DecidableEq, Repr

/-- What maps an address: its physical address and its rights. -/
structure Mapped where
  pa  : Nat
  wr  : Bool
  ex  : Bool
  usr : Bool
  deriving DecidableEq, Repr

/-- Does the mapping grant the access at this level (R353)? -/
def Mapped.grants (m : Mapped) (k : Need) (sup : Bool) : Bool :=
  (match k with | .fetch => m.ex | .read => true | .write => m.wr) && (sup || m.usr)

/-- The answer of a lookup: mapped, nothing or something malformed (R354), or not cached. -/
inductive Look where
  | hit (m : Mapped)
  | fault
  | miss
  deriving DecidableEq, Repr

/-- A reserved field of a range entry is nonzero (R350). -/
def RangeE.malformed (e : RangeE) : Bool :=
  fld e.w0 4 8 != 0 || fld e.w0 56 8 != 0 || fld e.w1 0 12 != 0 || fld e.w1 56 8 != 0 ||
  fld e.w2 0 12 != 0 || fld e.w2 52 12 != 0 || fld e.w3 8 56 != 0

/-- Does range entry e map the page on die d (R350)? -/
def RangeE.hits (e : RangeE) (d vpn : Nat) : Bool :=
  nbit e.w0.toNat 0 && nbit e.w3.toNat d && decide (fld e.w0 12 44 ≤ vpn) && decide (vpn ≤ fld e.w1 12 44)

/-- The die's range entries (R350): the lowest-numbered hit. -/
def State.rangeLook (s : State) (d c va : Nat) : Look :=
  let es := (List.range 64).filterMap fun i => aget? (s.die d).ranges (c, i)
  match es.find? fun e => e.hits d (va / 4096) with
  | none => .miss
  | some e =>
    let pa := fld e.w2 12 40 * 4096 + (va - fld e.w0 12 44 * 4096)
    if e.malformed || decide (2 ^ 52 ≤ pa) then .fault
    else .hit ⟨pa, nbit e.w0.toNat 1, nbit e.w0.toNat 2, nbit e.w0.toNat 3⟩

def XEnt.covers (x : XEnt) (c vpn : Nat) : Bool := x.ctx == c && x.vpn / 2 ^ x.size == vpn / 2 ^ x.size

def XEnt.mapped (x : XEnt) (va : Nat) : Mapped :=
  ⟨x.ppn * 4096 + va % (4096 * 2 ^ x.size), x.wr, x.ex, x.usr⟩

def cacheLook (m : List XEnt) (c va : Nat) : Look :=
  match m.find? fun x => x.covers c (va / 4096) with | some x => .hit (x.mapped va) | none => .miss

/-- Put a page into a cache of n entries; the oldest leaves (R355). -/
def cacheAdd (n : Nat) (m : List XEnt) (x : XEnt) : List XEnt :=
  let m := m.filter fun y => !(y.covers x.ctx x.vpn)
  (m.drop (m.length + 1 - n)) ++ [x]

/-! ### Requests of the part itself to a peer (R123, R352) -/

/-- Who asks for the part itself: kind k and number n. 1: a walk; 2: a die's range table; 3, 4, 5: queue n % 64 of partition n / 64, at its entry,
its submission, its start; 6: a thread's submission; 7: register SYS.DEVRCB of context n % 64; 8: a launch at its completion; 9: the signal of entry
n / 512 of queue n % 512. -/
def partReader (k n : Nat) : Owner := ⟨k, 2 ^ 65 + n⟩

/-- Ask a peer for the part itself: the request enters the stream once, and its answer is kept until it is used. The answer, none while it is
awaited. -/
def State.askPart (s : State) (ow : Owner) (dev : Nat) (r : PeerReq) : Option (List W64) × State :=
  match s.peerAns.find? fun x => x.1 == ow && x.2.1 == r with
  | some x => (some x.2.2, s)
  | none =>
    if s.peerq.any fun x => x.owner == ow && x.req == r then (none, s)
    else (none, { s with peerq := s.peerq ++ [⟨s.fresh, dev, r, ow, none, 0#64, true⟩], fresh := s.fresh + 1 })

/-- What a reader was answered has been used. -/
def State.dropAns (s : State) (ow : Owner) : State := { s with peerAns := s.peerAns.filter fun x => x.1 != ow }

/-- A reader asks no more: its requests are withdrawn (R125), and what a load told it is forgotten; a word that it has taken stays its own. -/
def State.withdrawPart (s : State) (ow : Owner) : State :=
  { s with
    peerq := s.peerq.filter fun x => x.owner != ow
    peerAns := s.peerAns.filter fun x => x.1 != ow || (match x.2.1 with | .take _ => true | _ => false) }

/-- What reading a doubleword for the part gives: an unpopulated address has none. -/
inductive TabR where
  | ok (v : Nat) (s : State)
  | wait (s : State)
  | poison
  | none
  deriving Repr

/-- A doubleword read by the part itself: device memory folds along a path, host memory is read, a peer's home view is asked for through the
stream (R123); what a firmware register holds is a free value (log 27). -/
def State.partRead (s : State) (path : Path) (p : Nat) (ow : Owner) (pa : Nat) : TabR :=
  match s.classify p pa with
  | .dram _ => (match s.loadKey path pa 8 false with | .ok v s => .ok v s | .held => .wait s | .poison => .poison)
  | .host _ a => .ok (s.hostRead a 8) s
  | .peer v o =>
    if s.reaches p v then
      (match s.askPart ow v (.load o .d) with | (some [], _) => .none | (some ws, s) => .ok (ws.headD 0#64).toNat s | (Option.none, s) => .wait s)
    else .none
  | .steading o => if 0x10000000 ≤ o then .none else .ok (Config.steadingRead s.frees o).toNat { s with frees := s.frees + 1 }
  | .none => .none

/-- One table entry read by a walk or a RANGE, as a load of a thread of the die would read it (R352). -/
def State.walkRead (s : State) (d p : Nat) (ow : Owner) (pa : Nat) : TabR := s.partRead ⟨d, none⟩ p ow pa

/-- n doublewords of the part, or the answer of the first that does not read. -/
def State.partWords (s : State) (path : Path) (p : Nat) (ow : Owner) (base : Nat) : (n : Nat) → Except TabR (List Nat × State)
  | 0 => .ok ([], s)
  | n + 1 => do
    let (es, s) ← State.partWords s path p ow base n
    match s.partRead path p ow (base + 8 * n) with
    | .ok v s => .ok (es ++ [v], s)
    | x => .error x

/-- The path of a reader of the home view (R98). -/
def homePath (pa : Nat) : Path := ⟨homeDie pa, none⟩

/-- The answer of a walk (R351). -/
inductive WalkR where
  | page (x : XEnt) (s : State)
  | fault
  | wait (s : State)
  | poison (pa : Nat)
  deriving Repr

/-- Bits of a leaf's page below its size. -/
def leafSize (level : Nat) (c64 : Bool) : Nat := match level with | 2 => 18 | 3 => 9 | _ => if c64 then 4 else 0

/-- The level-4 entry that an access to a 64 KiB block uses: the one that the page's own index names, or, where the 16 differ, one of
them (R351; log 19). A held entry makes the walk wait (R106). -/
def State.c64Entry (s : State) (d p : Nat) (ow : Owner) (tab vpn : Nat) (e : Nat) : Except TabR (Nat × State) := do
  let (es, s) ← s.partWords ⟨d, none⟩ p ow (tab + 8 * (vpn % 512 / 16 * 16)) 16
  .ok (if es.all (· == e) then e else es.getD (Config.c64Pick vpn % 16) e, s)

/-- Is a table entry well formed at its level (R351)? -/
def pteOk (level e : Nat) : Bool :=
  let leaf := nbit e 1
  let pa := nfld e 12 40
  nfld e 6 6 == 0 && nfld e 52 12 == 0 &&
  (if leaf then
    decide (2 ≤ level) && (level == 4 || !nbit e 5) && pa % 2 ^ leafSize level (nbit e 5) == 0
  else level != 4 && nfld e 2 4 == 0)

/-- The index of a page number at a level (R351). -/
def pteIndex (level vpn : Nat) : Nat := if level = 0 then vpn / 2 ^ 36 else vpn / 2 ^ (9 * (4 - level)) % 512

/-- Who asks for a walk's table entries. -/
def walkReader (d c vpn : Nat) : Owner := partReader 1 ((vpn * 2 + c) * 8 + d)

/-- Walk from a level down (R351): `n` levels remain. -/
def State.walkFrom (s : State) (d p c vpn : Nat) : (n : Nat) → (tab : Nat) → WalkR
  | 0, _ => .fault
  | n + 1, tab =>
    let level := 4 - n
    let pa := tab + 8 * pteIndex level vpn
    let ow := walkReader d c vpn
    match s.walkRead d p ow pa with
    | .none => .fault
    | .wait s => .wait s
    | .poison => .poison pa
    | .ok v s' =>
      match if level = 4 && nbit v 0 && nbit v 5 then s'.c64Entry d p ow tab vpn v else .ok (v, s') with
      | .error .poison => .poison pa
      | .error (.wait s) => .wait s
      | .error _ => .fault
      | .ok (e, s') =>
      if !nbit e 0 || !pteOk level e then .fault
      else if nbit e 1 then
        .page ⟨c, vpn / 2 ^ leafSize level (nbit e 5) * 2 ^ leafSize level (nbit e 5), leafSize level (nbit e 5), nfld e 12 40, nbit e 2, nbit e 3, nbit e 4⟩ s'
      else State.walkFrom s' d p c vpn n (nfld e 12 40 * 4096)

/-- A page walk (R351, R352), from the root that the last XINV put to use (R349). (log 33) -/
def State.walk (s : State) (d c vpn : Nat) : WalkR :=
  let p := s.partOf d
  let root := (s.ctx p c).ptact
  if nbit root.toNat 0 then s.walkFrom d p c vpn 5 (fld root 12 40 * 4096) else .fault

/-- Cache a page in the die's second level (R355). -/
def State.cacheL2 (s : State) (d : Nat) (x : XEnt) : State :=
  s.setDie d { s.die d with l2 := cacheAdd 16384 (s.die d).l2 x }
def State.cacheL1 (s : State) (d cl : Nat) (x : XEnt) : State :=
  s.setCluster d cl { s.cluster d cl with xlat := cacheAdd 256 (s.cluster d cl).xlat x }

/-- Drop the cached translations of one page of a context: a faulting result is not kept (R354). -/
def State.uncache (s : State) (d cl c vpn : Nat) : State :=
  let k (m : List XEnt) : List XEnt := m.filter fun x => !(x.covers c vpn)
  let s := s.setDie d { s.die d with l2 := k (s.die d).l2 }
  s.setCluster d cl { s.cluster d cl with xlat := k (s.cluster d cl).xlat }

/-- The answer of translating an address. -/
inductive XR where
  | ok (pa : Nat) (s : State)
  | fault (s : State)
  | wait (s : State)
  | poison (pa : Nat) (s : State)
  deriving Repr

/-- A thread's lookup (R355): range entries, cluster cache, second level; a miss leaves a walk to wait for. -/
def State.lookThread (s : State) (d cl c va : Nat) : Look × State :=
  match s.rangeLook d c va with
  | .miss =>
    match cacheLook (s.cluster d cl).xlat c va with
    | .miss =>
      match (s.die d).l2.find? fun x => x.covers c (va / 4096) with
      | some x => (.hit (x.mapped va), s.cacheL1 d cl x)
      | none => (.miss, s)
    | r => (r, s)
  | r => (r, s)

/-- Join or begin the walk for a page (R356): `f` adds who waits for it. -/
def State.joinWalk (s : State) (d c vpn : Nat) (f : Walk → Walk) : State :=
  let ws := (s.die d).walks
  let ws := if ws.any fun w => w.ctx == c && w.vpn == vpn then ws.map fun w => if w.ctx == c && w.vpn == vpn then f w else w
    else ws ++ [f ⟨c, vpn, [], []⟩]
  s.setDie d { s.die d with walks := ws }
/-- A thread waits for the page. -/
def State.addWalk (s : State) (d c vpn : Nat) (ti : SlotId) : State :=
  s.joinWalk d c vpn fun w => { w with who := if w.who.contains ti then w.who else w.who ++ [ti] }
/-- What goes by number u waits for the page. -/
def State.addUnit (s : State) (d c vpn u : Nat) : State :=
  s.joinWalk d c vpn fun w => { w with units := if w.units.contains u then w.units else w.units ++ [u] }

/-- A lookup that is not a thread's access, made under number u: from the range entries or from the die's second level. A miss joins or begins
the page's walk, and takes that walk's result (R356). -/
def State.xlateFrom (s : State) (u : Nat) (first : Look) (d c va : Nat) (k : Need) (sup : Bool) : XR :=
  let done (m : Mapped) : XR := if m.grants k sup then .ok m.pa s else .fault s
  if 2 ^ 56 ≤ va then .fault s
  else match first with
    | .hit m => done m
    | .fault => .fault s
    | .miss =>
      match cacheLook (s.die d).l2 c va with
      | .hit m => done m
      | _ =>
        let mine (f : Nat × Nat × Nat × Option Nat) : Bool := f.1 == u && f.2.1 == c && f.2.2.1 == va / 4096
        match (s.die d).failed.find? mine with
        | some f =>
          let s := s.setDie d { s.die d with failed := (s.die d).failed.filter fun x => !(mine x) }
          (match f.2.2.2 with | some pa => .poison pa s | none => .fault s)
        | none => .wait (s.addUnit d c (va / 4096) u)

/-- The translation of a copy engine, a Winnow engine or a tile: it starts at step 3, the die's second level (R355; log 33). -/
def State.xlateEngine (s : State) (u d c va : Nat) (k : Need) (sup : Bool) : XR := s.xlateFrom u .miss d c va k sup

/-- The part's own translation of an address that an instruction, a queue or a register names, from step 1 on (R350, R355). -/
def State.xlatePart (s : State) (u d c va : Nat) (k : Need) (sup : Bool) : XR := s.xlateFrom u (s.rangeLook d c va) d c va k sup

/-- The numbers under which the part itself translates, beside those of threads and operations, which are fresh numbers: queue q of partition p,
the fault ring of context c, the registers of a context. -/
def unitQueue (p q : Nat) : Nat := 2 ^ 64 + p * 64 + q
def unitRing (p c : Nat) : Nat := 2 ^ 65 + p * 2 + c
def unitReg (p c : Nat) : Nat := 2 ^ 66 + p * 2 + c
/-- A tile of a TISSUE. -/
def unitTile (u tile : Nat) : Nat := 2 ^ 68 + u * 2 ^ 32 + tile

/-- State s with what t has asked peers, for an operation that has to wait whole. -/
def State.keepAsked (s t : State) : State := { s with peerq := t.peerq, fresh := t.fresh }
/-- State s with the walks that t waits for and what it has learned of them: what an operation leaves that has to wait whole. -/
def State.keepWalks (s t : State) : State := { s with dies := t.dies.map fun x => (x.1, { s.die x.1 with walks := x.2.walks, failed := x.2.failed }) }

end Sys2Proof.Machine
end

