-- ==== Sys2Proof/Machine/Ops.lean ====
section
/-!
DEFINITION. Ops.lean: the operations the meanings share: registers and the window (R53, R54), the status word (R58), the end of
an instruction (R59), writes by the part itself (R35, R327, R339), containment (R37), taking a trap and returning from it
(R323 to R325), releases and acquires (R108), keyed updates at issue (R87), full/empty words (R101, R102).
-/
namespace Sys2Proof.Machine
open Sys2Proof

/-- How a meaning ends when its instruction does not complete: with a trap on the state before it (R156), or not yet. -/
inductive Stop where
  | trap (code sub : Nat) (faddr : W64)
  /-- a trap that keeps effects already made (R180, R194, R250, R264) -/
  | trapOn (s : State) (code sub : Nat) (faddr : W64)
  | hold (s : State)
  deriving Repr

abbrev M (α : Type) := Except Stop α

abbrev Out := Host.Outcome State Fault Refusal

/-! ### Trap codes (R322) -/
def tIllegal : Nat := 1
def tPriv : Nat := 2
def tOp : Nat := 3
def tFetch : Nat := 4
def tIAlign : Nat := 5
def tAlign : Nat := 6
def tXlate : Nat := 7
def tPhys : Nat := 8
def tSp : Nat := 9
def tSpill : Nat := 10
def tFill : Nat := 11
def tSvc : Nat := 12
def tRec : Nat := 13
def tEng : Nat := 14

/-! ### Threads -/

def State.thr (s : State) (ti : SlotId) : Thread := aget Thread.zero s.slots ti
def State.setThr (s : State) (ti : SlotId) (t : Thread) : State := { s with slots := aset s.slots ti t }
def State.modThr (s : State) (ti : SlotId) (f : Thread → Thread) : State := s.setThr ti (f (s.thr ti))
/-- The thread that issues. -/
def State.me (s : State) : SlotId := match s.cur.who with | .thread ti => ti | _ => ⟨0, 0, 0, 0, 0⟩
/-- Its state. -/
def State.th (s : State) : Thread := s.thr s.me
def State.modMe (s : State) (f : Thread → Thread) : State := s.modThr s.me f
/-- The first-byte address (R130). -/
def State.pc0 (s : State) : W64 := s.cur.addr

def vget {n : Nat} (v : Vector W64 (n + 1)) (i : Nat) : W64 := v[i % (n + 1)]'(Nat.mod_lt _ (Nat.succ_pos n))
def vset {n : Nat} (v : Vector W64 (n + 1)) (i : Nat) (x : W64) : Vector W64 (n + 1) :=
  v.set (i % (n + 1)) x (Nat.mod_lt _ (Nat.succ_pos n))

/-- The physical register of window register i (R54). -/
def Thread.physOf (t : Thread) (i : Nat) : Nat := (16 * t.wb.toNat + i) % 128
/-- Reg(r) of a thread (R133, R156): h0 reads 0. -/
def Thread.reg (t : Thread) (r : Reg) : W64 :=
  if r.toNat < 24 then vget t.phys (t.physOf r.toNat)
  else if r.toNat = 24 then 0#64
  else vget t.h (r.toNat - 24)
/-- SetReg(r, v) of a thread: a write of h0 is discarded. -/
def Thread.setReg (t : Thread) (r : Reg) (v : W64) : Thread :=
  if r.toNat < 24 then { t with phys := vset t.phys (t.physOf r.toNat) v, rpois := t.rpois.filter (· != t.physOf r.toNat) }
  else if r.toNat = 24 then t
  else { t with h := vset t.h (r.toNat - 24) v, rpois := t.rpois.filter (· != 128 + (r.toNat - 24)) }
/-- A register as the place an LD.nb fixes at issue (R178): its physical register, or 128 + i for hi. -/
def Thread.place (t : Thread) (r : Reg) : Nat := if r.toNat < 24 then t.physOf r.toNat else 128 + (r.toNat - 24)
def Thread.setPlace (t : Thread) (pl : Nat) (v : W64) : Thread :=
  if pl < 128 then { t with phys := vset t.phys pl v, rpois := t.rpois.filter (· != pl) }
  else if pl = 128 then t else { t with h := vset t.h (pl - 128) v, rpois := t.rpois.filter (· != pl) }

def Thread.ptr (t : Thread) (p : BitVec 3) : BitVec 32 := t.p[p.toNat]'(p.isLt)
def Thread.setPtr (t : Thread) (p : BitVec 3) (v : BitVec 32) : Thread := { t with p := t.p.set p.toNat v p.isLt }

/-- Reg(r) of whoever issues: a cluster thread or a Reed core (R133, R268). -/
def State.reg (s : State) (r : Reg) : W64 :=
  match s.cur.who with
  | .reed q => vget (s.reed q).e r.toNat
  | _ => s.th.reg r
/-- SetReg(r, v) of whoever issues. -/
def State.setReg (s : State) (r : Reg) (v : W64) : State :=
  match s.cur.who with
  | .reed q => s.setReed q { s.reed q with e := vset (s.reed q).e r.toNat v }
  | _ => s.modMe fun t => t.setReg r v

/-- WB, BOT and DEPTH at their places (R58, R318). -/
def Thread.win (t : Thread) : Nat := t.wb.toNat * 2 ^ 16 + t.bot.toNat * 2 ^ 20 + t.depth.toNat * 2 ^ 24
/-- The status word (R58). -/
def Thread.stat (t : Thread) (ctx : Nat) : W64 :=
  BitVec.ofNat 64 (t.flags.toNat + t.win + b2n t.det * 2 ^ 40 + ctx % 2 * 2 ^ 41 + t.loads % 16 * 2 ^ 48 + t.updates % 16 * 2 ^ 52 +
    t.copies % 16 * 2 ^ 56 + t.tiles % 16 * 2 ^ 60)
def Thread.ftz (t : Thread) : Bool := t.flags.getLsbD 0
def State.orFlags (s : State) (f : Flags) : State := s.modMe fun t => { t with flags := t.flags ||| f }
def Thread.inTrap (t : Thread) : Bool := t.tstat.getLsbD 2

/-! ### The end of an instruction -/

def lo32 (x : W64) : Nat := x.toNat % 2 ^ 32
/-- Set bits [31:0]. -/
def setLo (x : W64) (v : Nat) : W64 := BitVec.ofNat 64 (x.toNat / 2 ^ 32 * 2 ^ 32 + v % 2 ^ 32)

/-- Completion with fall-through of the instruction at `addr` (R59). -/
def Thread.fallThrough (t : Thread) (addr : W64) (len : Nat) : Thread :=
  let t := { t with ph := Phase.zero, wait := .no }
  let next := addr + BitVec.ofNat 64 len
  let on0 := lo32 t.lc0 != 0 && addr == t.le0
  if lo32 t.lc1 != 0 && addr == t.le1 then
    if 1 < lo32 t.lc1 then { t with lc1 := setLo t.lc1 (lo32 t.lc1 - 1), pc := t.ls1 }
    else if on0 then
      if 1 < lo32 t.lc0 then { t with lc0 := setLo t.lc0 (lo32 t.lc0 - 1), lc1 := setLo t.lc1 (t.lc1.toNat / 2 ^ 32), pc := t.ls0 }
      else { t with lc1 := setLo t.lc1 0, lc0 := setLo t.lc0 0, pc := next }
    else { t with lc1 := setLo t.lc1 0, pc := next }
  else if on0 then
    if 1 < lo32 t.lc0 then { t with lc0 := setLo t.lc0 (lo32 t.lc0 - 1), pc := t.ls0 }
    else { t with lc0 := setLo t.lc0 0, pc := next }
  else { t with pc := next }

/-- The issuing instruction completes with fall-through. -/
def State.fall (s : State) : State :=
  match s.cur.who with
  | .reed q => s.setReed q { s.reed q with pc := s.cur.addr + BitVec.ofNat 64 s.cur.len, wait := Phase.zero }
  | _ => s.modMe fun t => t.fallThrough s.cur.addr s.cur.len

/-- The issuing instruction completes with a transfer of control. -/
def State.jump (s : State) (target : W64) : State :=
  match s.cur.who with
  | .reed q => s.setReed q { s.reed q with pc := target, wait := Phase.zero }
  | _ => s.modMe fun t => { t with pc := target, ph := Phase.zero, wait := .no }

/-- A parked or handed-over thread's instruction completes with fall-through, by the part's own step. -/
def State.fallOf (s : State) (ti : SlotId) : State := s.modThr ti fun t => t.fallThrough t.pc t.ph.len

/-- The phase of whoever issues. -/
def State.phase (s : State) : Phase := match s.cur.who with | .reed q => (s.reed q).wait | _ => s.th.ph
def State.setPhase (s : State) (p : Phase) : State :=
  match s.cur.who with
  | .reed q => s.setReed q { s.reed q with wait := p }
  | _ => s.modMe fun t => { t with ph := p }

/-! ### Groups, launches, sources -/

def State.newId (s : State) : State := { s with fresh := s.fresh + 1 }
def State.grp (s : State) (g : Nat) : Option Group := aget? s.groups g
def State.modGrp (s : State) (g : Nat) (f : Group → Group) : State :=
  match aget? s.groups g with | some x => { s with groups := aset s.groups g (f x) } | none => s
def State.modLaunch (s : State) (l : Nat) (f : Launch → Launch) : State :=
  match aget? s.launches l with | some x => { s with launches := aset s.launches l (f x) } | none => s
/-- The slot of thread t of a group (R29). -/
def Group.slot (g : Group) (t : Nat) : SlotId := ⟨g.die, g.clu, g.ctx, t % 4, g.row + t / 4⟩
def Group.slots (g : Group) : List SlotId := (List.range g.n).map g.slot
/-- The partition of a slot. -/
def State.pOf (s : State) (ti : SlotId) : Nat := s.partOf ti.die
/-- The context registers of a slot. -/
def State.cx (s : State) (ti : SlotId) : Ctx := s.ctx (s.pOf ti) ti.ctx
/-- The launch of a thread, 0 for a ferry-slot handler. -/
def State.launchOf (s : State) (ti : SlotId) : Nat := match s.grp (s.thr ti).grp with | some g => g.launch | none => 0
def State.owner (s : State) (ti : SlotId) : Owner := ⟨s.launchOf ti, (s.thr ti).uid⟩
def State.qtagOf (s : State) (ti : SlotId) : Nat := match aget? s.launches (s.launchOf ti) with | some l => l.qtag | none => 0
/-- A source as FERRY's w8 gives it (R266). -/
def State.srcOf (s : State) (ti : SlotId) : Nat :=
  ti.slot % 16 + ti.core % 4 * 16 + ti.clu % 128 * 64 + ti.die % 8 * 8192 + fld (s.part (s.pOf ti)).devid 0 8 * 65536
/-- A load's path for a thread (R98). -/
def pathOf (ti : SlotId) : Path := ⟨ti.die, some (ti.clu, ti.core)⟩
/-- The core of a slot. -/
def coreKey (ti : SlotId) : Nat × Nat × Nat := (ti.die, ti.clu, ti.core)
/-- The issuing thread's group: none for a ferry-slot handler. -/
def State.myGrp (s : State) : Nat := s.th.grp

/-! ### Reads and writes by the part itself -/

/-- A home-view read of n bytes by the scheduler, the command processor or a fetch (R106, R144). -/
def State.hvRead (s : State) (pa n : Nat) : LoadR := s.loadBytes ⟨homeDie pa, none⟩ false n pa

/-- A whole merge of a run, in one step (R91, R92). -/
def State.mergeRun (s : State) (r : RunId) : State :=
  let ks := (s.run r).keys
  State.mergeKeys (ks.length + 1) (s.setRun r { s.run r with todo := ks, want := false }) r

/-- Who owns what the part itself sends to a peer: no thread. -/
def partOwner : Owner := ⟨0, 0⟩

/-- The part sends a request to a peer (R123). -/
def State.partSend (s : State) (d : Nat) (r : PeerReq) : State :=
  { s with peerq := s.peerq ++ [⟨s.fresh, d, r, partOwner, none, 0#64, true⟩], fresh := s.fresh + 1 }

/-- May the part, or an agent of partition p, reach what the address names: populated memory, a peer in REACH, a firmware-defined register
(R368, R369, R376)? -/
def State.populated (s : State) (p pa : Nat) : Bool :=
  match s.classify p pa with | .none => false | .peer v _ => s.reaches p v | .steading o => decide (o < 0x10000000) | _ => true

/-- REPLACE of one byte by the part (R35, R327, R339, R373), put into its home rick run, so that it stands at device scope; a full run merges
first (R91). A peer's key takes it through the stream of the part's lowest die (R123). An error is the state in which the entry has
still to get in: behind a held entry of its word (R105), or for want of a slot. -/
def State.sysByte (s : State) (p c pa : Nat) (b : Byte) : Except (State × Entry) State :=
  match s.classify p pa with
  | .dram _ =>
    let r := RunId.rick (homeDie pa)
    let e := mkEntry pa .replace .b false c 0 (BitVec.ofNat 64 b.toNat) [] s.clk
    match State.put levels s r e true with
    | .ok s => .ok s
    | .behind s => .error (s, e)
    | .noRoom s => (match State.put levels (s.mergeRun r) r e true with | .ok s => .ok s | _ => .error (s, e))
    | .opFault _ _ _ => .error (s, e)
  | .host _ a => .ok (s.hostWriteB a [b])
  | .peer d o => .ok (if s.reaches p d then s.partSend d (.update o .replace .b false (BitVec.ofNat 64 b.toNat)) else s)
  | _ => .ok s

/-- Bytes written by the part: one that cannot get into its home run yet awaits admission there. -/
def State.sysWrite (s : State) (p c : Nat) (pa : Nat) : List Byte → State
  | [] => s
  | b :: bs => State.sysWrite (match s.sysByte p c pa b with | .ok s => s | .error (s, e) => s.send (homeDie pa) e) p c (pa + 1) bs

/-- Bytes written by the part that must all stand at device scope before it goes on; none while one cannot. -/
def State.sysStand (s : State) (p c : Nat) (pa : Nat) : List Byte → Option State
  | [] => some s
  | b :: bs => match s.sysByte p c pa b with | .ok s => State.sysStand s p c (pa + 1) bs | .error _ => none

/-- A doubleword written by the part; a peer's is one update. -/
def State.sysWord (s : State) (p c pa : Nat) (v : Nat) : State :=
  match s.classify p pa with
  | .peer d o => if s.reaches p d then s.partSend d (.update o .replace .d false (BitVec.ofNat 64 v)) else s
  | _ => s.sysWrite p c pa (leBytes 8 v)

/-- A queue's request to a peer: its owner says which entry it is (log 8). An entry's number counts the starts of its queue above 2^64. -/
def queueOwner (p q i : Nat) : Owner := ⟨i / 2 ^ 64 * 512 + p * 64 + q, 2 ^ 64 + i % 2 ^ 64⟩
def Owner.qPart (o : Owner) : Nat := o.launch / 64 % 8
def Owner.qNum (o : Owner) : Nat := o.launch % 64
def Owner.qIdx (o : Owner) : Nat := o.launch / 512 * 2 ^ 64 + (o.uid - 2 ^ 64)
/-- Who asks a peer for queue q of partition p as it handles its entry. -/
def queueReader (p q : Nat) : Owner := partReader 3 (p * 64 + q)

/-- A queue's token has been loaded: the wait ends at a value of at least WVAL, with an acquire at device scope (R342). -/
def State.tokenSeen (s : State) (p q v : Nat) : State :=
  match aget? s.queues (p, q) with
  | none => s
  | some x => match x.cur with
    | some (_, w) => if (w.getD 2 0#64).toNat ≤ v then (({ s with queues := aset s.queues (p, q) { x with tokOk := true } } : State)).acqPart p else s
    | none => s

/-- A queue faults at entry idx (R341): STATE 2, CAUSE, FIDX, TAG, REASON. A queue that has faulted keeps its first fault. The entry never
completes (R342): it stays listed as failed, and a later MARK waits behind it. -/
def State.queueFault (s : State) (p q cause idx tag reason : Nat) : State :=
  match aget? s.queues (p, q) with
  | none => s
  | some x =>
    let x := { x with ents := x.ents.map fun e => if e.idx = idx then { e with op := 6 } else e }
    if x.state = 2 then { s with queues := aset s.queues (p, q) x }
    else
      let base := (s.part p).qtab.toNat + 64 * q
      let s := s.dropAns (queueReader p q)
      let s := { s with queues := aset s.queues (p, q) { x with state := 2, stop := true, cur := x.cur.filter fun c => c.1 != idx } }
      (s.sysWord p x.ctx (base + 0x18) (2 + cause * 2 ^ 8 + idx % 2 ^ 32 * 2 ^ 32)).sysWord p x.ctx (base + 0x20) (tag % 2 ^ 32 + reason % 16 * 2 ^ 32)

/-! ### Containment (R37) -/

/-- The node that contains a fault of a group (R37). -/
def State.cnodeOf (s : State) (g : Nat) : CNode :=
  match s.grp g with
  | none => .device
  | some x => if x.contains then .group g else s.upNode (s.launches.length + 1) (some x.launch)

/-- Is launch l at or below node r? -/
def State.below (s : State) (r : Nat) : (n : Nat) → Nat → Bool
  | 0, _ => false
  | n + 1, l =>
    if l = r then true
    else match aget? s.launches l with
      | some x => (match x.parent with | some q => State.below s r n q | none => false)
      | none => false

/-- The launches of a node, live or not. -/
def State.nodeLaunches (s : State) (p c : Nat) (nd : CNode) : List Nat :=
  match nd with
  | .group _ => []
  | .launch l => (s.launches.map (·.1)).filter fun x => s.below l (s.launches.length + 1) x
  | .device => (s.launches.filter fun x => x.2.p == p && x.2.ctx == c).map (·.1)

/-- Release every hold and the claims of a group's operand slots (R31, R222): their contents are free from now on. -/
def State.dropOps (s : State) (g : Group) : State :=
  let h := s.half g.die g.clu g.ctx
  let phys := g.claimed.map fun i => g.opPhys.getD i 0
  let h := phys.foldl (fun (h : Half) sl =>
    { h with opm := sforget h.opm (sl * 8192) 8192, opEpoch := aset h.opEpoch sl s.fresh, held := h.held.filter (· != sl) }) h
  (s.setHalf g.die g.clu g.ctx h).newId

/-- A group ends or is contained: its resources go back, its latch empties (R31, R37, R229), its barriers go (R189). GROUPS_DONE counts
it if `counted`: it has ended, or it is the containing node itself (R34, R37). (log 37) -/
def State.endGroup (s : State) (gid : Nat) (contained counted : Bool) : State :=
  match s.grp gid with
  | none => s
  | some g =>
    if g.ended then s
    else
      let s := s.dropOps g
      let h := s.half g.die g.clu g.ctx
      let arr := { h.arr with
        tile := if h.arr.owner = gid then [] else h.arr.tile
        fmt := if h.arr.owner = gid then none else h.arr.fmt
        owner := if h.arr.owner = gid then 0 else h.arr.owner
        queue := h.arr.queue.filter fun o => o.grp != gid || o.kind == 4 }
      let s := s.setHalf g.die g.clu g.ctx { h with arr := arr }
      let s := s.modGrp gid fun g => { g with ended := true, contained := contained, live := [], claimed := [], barArr := [], barRel := [], barps := [], barpRel := [] }
      if counted then s.modLaunch g.launch fun l => { l with done := l.done + 1, endQ := l.endQ ++ [gid] } else s

/-! ### Commands that act on clusters (R331) -/

/-- The command whose turn it is at a cluster: they act there one at a time, in arrival order. -/
def State.cmdAt (s : State) (d cl : Nat) : Option CtxCmd := (s.part (s.partOf d)).cmds.find? fun m => m.covers d cl
/-- The context that a cluster is told to make rotate, while it has still to switch. -/
def State.switchTo (s : State) (d cl : Nat) : Option Nat := (s.cmdAt d cl).bind fun m => m.ctx.filter fun c => c != (s.cluster d cl).rot
/-- Is a SAVECTX of the thread under way, or waiting for its turn (R332)? -/
def State.saving (s : State) (ti : SlotId) : Bool := (s.part (s.pOf ti)).cmds.any fun m => m.ti == ti && m.ctx.isNone
def State.addCmd (s : State) (m : CtxCmd) : State := s.setPart (s.pOf m.ti) { s.part (s.pOf m.ti) with cmds := (s.part (s.pOf m.ti)).cmds ++ [m] }
/-- The command of a thread is over. -/
def State.dropCmd (s : State) (ti : SlotId) : State :=
  if (s.part (s.pOf ti)).cmds.any fun m => m.ti == ti then s.setPart (s.pOf ti) { s.part (s.pOf ti) with cmds := (s.part (s.pOf ti)).cmds.filter fun m => m.ti != ti }
  else s

/-- The instruction of a thread is abandoned at the boundary before it (R128): it leaves its wait list and its walk, a peer's request that it
may leave behind is withdrawn (R125, R183), and so is a command to clusters. -/
def State.abandon (s : State) (ti : SlotId) : State :=
  let gone (r : PReq) : Bool := match (s.thr ti).wait with | .peer i how => r.id == i && how != .stays | _ => false
  let s : State := { s with peerq := s.peerq.filter fun r => !(gone r) }
  let s := (s.modThr ti fun t => { t with wait := .no, ph := Phase.zero }).dropCmd ti
  s.setDie ti.die { s.die ti.die with
    waiters := (s.die ti.die).waiters.filter (· != ti)
    walks := (s.die ti.die).walks.map fun w => { w with who := w.who.filter (· != ti) } }

/-- Stop every thread of a group (R37), its row handlers among them (R237): each leaves what it waits on (R102). -/
def State.stopGroup (s : State) (gid : Nat) (counted : Bool) : State :=
  let dead : List SlotId := (s.slots.filter fun x => x.2.grp == gid && x.2.live).map Prod.fst
  (dead.foldl (fun (s : State) ti => (s.abandon ti).modThr ti fun t => { t with live := false, halted := true }) s).endGroup gid true counted

/-- A ring's binding without the roles that threads of these launches hold; none when no role is left (R192). -/
def Bind.without (b : Bind) (ls : List Nat) : Option Bind :=
  let keep (r : Option (Nat × Nat × Nat)) : Option (Nat × Nat × Nat) := r.filter fun w => !(ls.contains w.1)
  let b := { b with wr := keep b.wr, rd := keep b.rd }
  if b.wr.isNone && b.rd.isNone then none else some b

/-- Channel bindings of launches that completed or were contained are dropped, those of a saved context too (R192). -/
def State.dropBinds (s : State) (ls : List Nat) : State :=
  let f (b : List (Nat × Bind)) : List (Nat × Bind) := b.filterMap fun x => (x.2.without ls).map fun y => (x.1, y)
  { s with
    dies := s.dies.map fun d => (d.1, { d.2 with binds := f d.2.binds })
    halves := s.halves.map fun h => (h.1, { h.2 with binds := f h.2.binds })
    savedCtx := s.savedCtx.map fun x => { x with binds := x.binds.map fun d => (d.1, f d.2)
                                                 halves := x.halves.map fun h => (h.1, { h.2 with binds := f h.2.binds }) } }

/-- The doubleword at +0x38 of an RCB (R34). -/
def rcbWord (state reason done : Nat) : Nat := state % 16 + reason % 16 * 16 + done % 2 ^ 32 * 2 ^ 32

/-- A live launch region is contained (R37): STATE 5 is queued for its RCB; a queue's launch faults its queue (R341). -/
def State.containLaunch (s : State) (p l : Nat) : State :=
  match aget? s.launches l with
  | none => s
  | some x =>
    if x.state = 1 ∨ x.state = 2 then
      let s := s.modLaunch l fun x => { x with state := 5 }
      let s := match x.rcb with
        | some pa => s.setPart p { s.part p with contQ := (s.part p).contQ ++ [(pa + 0x38, l)] }
        | none => s
      match x.origin with
      | .queue p q i => s.queueFault p q 4 i 0 0
      | .record p q i => s.queueFault p q 4 i x.tag 0
      | .thread _ _ => s
    else s

/-- Contain a fault of group g (R37): every thread and placement below the containing node stops, the RCB writes are queued, and
a record of KIND 4 is queued (R325, R328). `whr` and `what` are its WHERE and WHAT; `ti` the thread, if one raised it. (log 32) -/
def State.contain (s : State) (p c g cause : Nat) (ti : SlotId) (whr what : W64) : State :=
  let nd := s.cnodeOf g
  let rc : FRec := { kind := 4, ti := none, uid := 0
                     words := [0#64, recHead 4 cause c 0 ti.die ti.clu ti.core 0 ti.slot (s.nodeDomain p c g nd), whr, what] ++ List.replicate 12 0#64 }
  let s := match nd with
    | .group g => s.stopGroup g true
    | _ =>
      let ls := s.nodeLaunches p c nd
      let gs : List Nat := (s.groups.filter fun (x : Nat × Group) => ls.contains x.2.launch && !x.2.ended).map Prod.fst
      let s := gs.foldl (fun (s : State) g => s.stopGroup g false) s
      let s := ls.foldl (fun (s : State) l => s.containLaunch p l) s
      let s := s.dropBinds ls
      match nd with
      | .device =>
        match (s.ctx p c).dev with
        | some d =>
          let s := s.setCtx p c { s.ctx p c with dev := some { d with state := 5 } }
          s.setPart p { s.part p with contQ := (s.part p).contQ ++ [(d.rcb + 0x38, 0)] }
        | none => s
      | _ => s
  s.pushRec p c rc

/-! ### FERRY replies (R264 to R267) -/

/-- Call ids are kept by source and context. -/
def srcKey (src ctx : Nat) : Nat := src + ctx * 2 ^ 32

/-- A call has finished at its target: the reply is on its way to the caller, here or on a peer. -/
def State.sendReply (s : State) (src ctx id status : Nat) (pay : List W64) : State :=
  let dev := nfld src 16 8
  if dev = fld (s.part (s.partOf (nfld src 13 3))).devid 0 8 then
    { s with calls := s.calls.map fun c => if c.src == src && c.ctx == ctx && c.id == id && !c.ended then { c with reply := some (status, pay) } else c }
  else { s with toPeer := s.toPeer ++ [(dev, [BitVec.ofNat 64 src, BitVec.ofNat 64 id, BitVec.ofNat 64 status] ++ pay)] }

/-- Hold an id of a source; only the last 64 ids are kept (R265). -/
def setIdState (m : List (Nat × List (Nat × IdState))) (src id : Nat) (v : IdState) : List (Nat × List (Nat × IdState)) :=
  let l := aset (aget [] m src) id v
  aset m src (l.drop (l.length - 64))
def idState (m : List (Nat × List (Nat × IdState))) (src id : Nat) : Option IdState := aget? (aget [] m src) id

/-- A ferry-slot handler ends (R266, R267): its slot is free and the reply leaves. -/
def State.endFerryH (s : State) (ti : SlotId) (status : Nat) (pay : List W64) : State :=
  match (s.thr ti).call with
  | none => s.modThr ti fun t => { t with live := false }
  | some (src, id) =>
    let h := s.half ti.die ti.clu ti.ctx
    let s := s.setHalf ti.die ti.clu ti.ctx { h with ids := setIdState h.ids (srcKey src ti.ctx) id (.finished status pay) }
    (s.modThr ti fun t => { t with live := false, call := none, ph := Phase.zero, wait := .no }).sendReply src ti.ctx id status pay

/-- Complete the sender of a Reed message (R267, R271, R341), or end it with an engine fault of cause REMOTE. -/
def State.engineFaultTo (s : State) (ti : SlotId) (uid : Nat) (cause opcode : Nat) (first : W64) (resume faddr extra : W64) : State :=
  let p := s.pOf ti
  let dom := s.nodeDomain p ti.ctx (s.thr ti).grp (s.cnodeOf (s.thr ti).grp)
  s.pushRec p ti.ctx { kind := 2, ti := some ti, uid := uid
                       words := [0#64, recHead 2 cause ti.ctx 0 ti.die ti.clu ti.core 0 ti.slot dom, first, BitVec.ofNat 64 opcode, resume, faddr, extra] ++ List.replicate 9 0#64 }

/-- An asynchronous operation of a thread completes or stops: COPIES falls, and the completion scope awaits a WAIT (R127, R253). -/
def State.copyDone (s : State) (ti : SlotId) (uid : Nat) (sc : Scope) : State :=
  if (s.thr ti).uid = uid then s.modThr ti fun t => { t with copies := t.copies - 1, doneOps := t.doneOps ++ [sc] } else s
def State.tileDone (s : State) (ti : SlotId) (uid : Nat) (sc : Scope) : State :=
  if (s.thr ti).uid = uid then s.modThr ti fun t => { t with tiles := t.tiles - 1, doneOps := t.doneOps ++ [sc] } else s
def State.loadDone (s : State) (ti : SlotId) (uid : Nat) : State :=
  if (s.thr ti).uid = uid then s.modThr ti fun t => { t with loads := t.loads - 1, doneOps := t.doneOps ++ [.thread] } else s

/-- Page-5 opcode of a record's WHAT (R328): major · 4 + f. -/
def wIxred : Nat := 9
def wRsend : Nat := 10

/-- A Reed message's sender learns how it ended: `fault` is the engine fault REMOTE, otherwise completion at .dev (R267, R271, R341). -/
def State.msgEnd (s : State) (m : Msg) (fault : Bool) : State :=
  let s := match m.qent with
    | some (p, q, i) =>
      if fault then s.queueFault p q 6 i 0 0
      else match aget? s.queues (p, q) with
        | some x => { s with queues := aset s.queues (p, q) { x with ents := x.ents.map fun e => if e.idx == i then { e with done := true } else e } }
        | none => s
    | none => s
  match m.ti with
  | none => if m.kind = 4 then { s with toPeer := s.toPeer ++ [(nfld m.src 16 8, [BitVec.ofNat 64 m.src, BitVec.ofNat 64 m.id, BitVec.ofNat 64 (b2n fault)])] } else s
  | some ti =>
    let s := s.copyDone ti m.uid .dev
    if fault then s.engineFaultTo ti m.uid 8 (if m.kind = 2 then wIxred else wRsend) m.first 0#64 0#64 0#64 else s

/-- Acquire (R108, R127) for the die of a slot. -/
def State.acqAt (s : State) (ti : SlotId) (sc : Scope) : State := s.acquire ti.die sc

/-- Write a Reed core's held id state (R265). -/
def State.setReedId (s : State) (q : Nat) (src id : Nat) (v : IdState) : State :=
  s.setReed q { s.reed q with ids := setIdState (s.reed q).ids src id v }

/-- Words of a Reed core's registers e0 to e7. -/
def Reed.low8 (r : Reed) : List W64 := (List.range 8).map fun i => vget r.e i

/-- A Reed task traps (R268): a FERRY task replies REMOTE_FAULT, any other blocks its channel and writes a record of KIND 3. -/
def State.reedTrap (s : State) (q code : Nat) (faddr : W64) : State :=
  let r := s.reed q
  match r.task with
  | none => s
  | some m =>
    let s := s.setReed q { r with task := none, wait := Phase.zero }
    if m.kind = 0 then
      let pay := [faddr, r.pc] ++ List.replicate 6 0#64
      let st := 1 + code * 256
      (s.setReedId q (srcKey m.src m.ctx) m.id (.finished st pay)).sendReply m.src m.ctx m.id st pay
    else
      let r' := s.reed q
      let s := s.setReed q { r' with table := lset r'.table m.chan (r'.table.getD m.chan 0 ||| 2 ^ 16) }
      let p := s.partOf (q / 64)
      let g := match m.ti with | some ti => (s.thr ti).grp | none => 0
      let s := s.pushRec p m.ctx { kind := 3, ti := none, uid := 0
                                   words := [0#64, recHead 3 code m.ctx 0 (q / 64) 0 0 0 (q + m.chan * 2 ^ 12) (s.nodeDomain p m.ctx g (s.cnodeOf g)), r.pc, faddr] ++ List.replicate 12 0#64 }
      s.msgEnd m true

/-! ### Taking a trap (R323) and returning (R324) -/

/-- A thread's trap state on entry (R323). -/
def Thread.enterTrap (t : Thread) (tvec : W64) (code sub : Nat) (faddr ret : W64) : Thread :=
  { t with
    tpc := ret, taddr := faddr
    tcause := BitVec.ofNat 64 (code + sub % 256 * 256 + (if 13 ≤ code then 2 ^ 16 else 0) + (if t.kind = .rowH then 2 ^ 17 else 0))
    tstat := BitVec.ofNat 64 (b2n t.sup + 4)
    sup := true, pc := tvec + BitVec.ofNat 64 (64 * code), ph := Phase.zero, wait := .no }

/-- TakeTrap for a thread (R323, R325): vectored, contained, or, in a ferry-slot handler, the end of its call. `addr` is the
first-byte address or, for an asynchronous trap, the boundary's instruction; `ret` the return address (R322). -/
def State.threadTrap (s : State) (ti : SlotId) (code sub : Nat) (faddr addr ret : W64) : State :=
  let t := s.thr ti
  let s := if code = tXlate ∨ code = tFetch then s.uncache ti.die ti.clu ti.ctx (faddr.toNat % 2 ^ 56 / 4096) else s
  let s := s.abandon ti
  if t.kind = .ferryH then s.endFerryH ti (1 + code * 256) ([faddr, addr] ++ List.replicate 6 0#64)
  else if t.inTrap || (s.cx ti).tvec == 0#64 then s.contain (s.pOf ti) ti.ctx t.grp code ti t.tpc 0#64
  else
    let s := s.modThr ti fun t => t.enterTrap (s.cx ti).tvec code sub faddr ret
    if code = tRec ∨ code = tEng then s.acqAt ti .dev else s

/-- TakeTrap for whoever issues. -/
def State.takeTrap (s : State) (code sub : Nat) (faddr : W64) : State :=
  match s.cur.who with
  | .reed q => s.reedTrap q code faddr
  | _ => s.threadTrap s.me code sub faddr s.cur.addr (if code = tSvc then s.cur.addr + BitVec.ofNat 64 s.cur.len else s.cur.addr)

/-- TRET (R324): none when INTRAP is 0. -/
def State.trapReturn (s : State) : Option State :=
  if s.th.inTrap then
    some (s.modMe fun t => { t with sup := t.tstat.getLsbD 0, tstat := t.tstat &&& ~~~(4#64), pc := t.tpc, ph := Phase.zero, wait := .no })
  else none

/-- How a meaning answers: the state it computed, the trap taken on the state before it, or the state so far. -/
def finish (s : State) (m : M State) : Out :=
  match m with
  | .ok t => .next t
  | .error (.trap c sub fa) => .next (s.takeTrap c sub fa)
  | .error (.trapOn t c sub fa) => .next (t.takeTrap c sub fa)
  | .error (.hold t) => .next t

def trap {α : Type} (code : Nat) (faddr : W64) : M α := .error (.trap code 0 faddr)
def hold {α : Type} (s : State) : M α := .error (.hold s)
/-- Raise a trap unless the condition holds. -/
def ensure (b : Bool) (code : Nat) (faddr : W64) : M Unit := if b then .ok () else .error (.trap code 0 faddr)
/-- What a row handler or a ferry-slot handler may not do (R237, R266): checked before anything else. -/
def State.notHandler (s : State) : M Unit := ensure (s.th.kind == .group) tOp s.pc0
/-- Keep the length for a thread that leaves the rotation. -/
def State.keepLen (s : State) : State := s.setPhase { s.phase with len := s.cur.len }
def State.waitMe (s : State) (w : Wait) : State := s.keepLen.modMe fun t => { t with wait := w }

/-! ### Poison (R364) -/

/-- What stands for the address of a poisoned SRAM word or register, which has no physical address (log 46). -/
def sramPa : Nat := 2 ^ 56

/-- An agent of a group consumes poison at a physical address: the containment is queued, the thread goes no further. A ferry-slot
handler has no group: its call ends, and its context's device region contains (log 32). -/
def State.consume (s : State) (ti : SlotId) (pa : Nat) : State :=
  let p := s.pOf ti
  let t := s.thr ti
  let x := (if t.kind = .ferryH then 0 else t.grp, ti.ctx, pa)
  let q := (s.part p).poisonQ
  let s := s.setPart p { s.part p with poisonQ := if q.contains x then q else q ++ [x] }
  if t.kind = .ferryH then s.endFerryH ti 1 (List.replicate 8 0#64) else s.modThr ti fun t => { t with halted := true }

/-! ### Releases (R108, R126) -/

/-- Have the updates of a thread all left the waiting queue of its core (R87)? -/
def State.inserted (s : State) (ti : SlotId) : Bool :=
  (aget [] s.ins (ti.die, ti.clu, ti.core)).all fun i => i.owner.uid != (s.thr ti).uid || i.stands

def Entry.ownedBy (e : Entry) (uid : Nat) : Bool := e.owners.any fun o => o.uid == uid

/-- What a release at S of thread ti still waits for is gone (R108, R124, R371). -/
def State.relReady (s : State) (ti : SlotId) (sc : Scope) (cum : Bool) (mark : Nat) : Bool :=
  let uid := (s.thr ti).uid
  match sc with
  | .thread => true
  | _ =>
    (s.thr ti).loads == 0 && s.inserted ti && !(s.inside ti.die ti.clu ti.core sc fun e => e.ownedBy uid) &&
    (!cum || !(s.inside ti.die ti.clu ti.core sc fun e => e.marks.contains mark)) &&
    (match sc with
     | .dev => s.hostq.all fun q => q.2.all fun u => u.owner.uid != uid
     | .sys => (s.hostq.all fun q => q.2.all fun u => u.owner.uid != uid) && s.peerq.all fun r => r.owner.uid != uid || r.ti.isSome
     | _ => true)

/-- ReleaseDone (R120). -/
def State.releaseDone (s : State) (ti : SlotId) (sc : Scope) : State :=
  match sc with
  | .dev | .sys =>
    let d := s.die ti.die
    s.setDie ti.die { d with cvec := d.cvec.mapIdx fun i v => if i = ti.die then max v d.hseq else v }
  | _ => s

/-- The release part of an instruction: it begins, waits, or is done (R108). As it begins it starts the merges of its path (R91), also where it
completes at once. `sc` at thread scope does nothing. -/
def State.release (s : State) (sc : Scope) (cum : Bool) : M State :=
  let ti := s.me
  let ph := s.th.ph
  if sc = .thread ∨ ph.rel = 2 then .ok s
  else
    let s := if ph.rel = 0 then
        let s := if cum then s.markPath s.fresh ti.die ti.clu ti.core sc else s
        ((s.setPhase { ph with rel := 1, relSc := sc, cum := cum, mark := s.fresh, len := s.cur.len }).newId).wantPath ti.die ti.clu ti.core sc
      else s
    if s.relReady ti sc cum s.th.ph.mark then
      .ok ((s.setPhase { s.th.ph with rel := 2 }).releaseDone ti sc)
    else hold (s.wantPath ti.die ti.clu ti.core sc)

/-- The release an order suffix asks for: none on a Reed core (R268). -/
def State.ordRelease (s : State) (o : Ord) : M State :=
  match s.cur.who with
  | .reed _ => .ok s
  | _ => if o.ord.isRel then s.release o.sc o.cum else .ok s
/-- The acquire an order suffix asks for. -/
def State.ordAcquire (s : State) (o : Ord) : State :=
  match s.cur.who with
  | .reed _ => s
  | _ => if o.ord.isAcq then s.acqAt s.me o.sc else s

/-- Every entry of the thread for a word of pseudo-channel q, wherever it stands short of the barn (R126). -/
def State.barnLeft (s : State) (ti : SlotId) (q : Nat) : Bool :=
  let uid := (s.thr ti).uid
  let f (e : Entry) : Bool := e.ownedBy uid && wordLin e.word / 2 ^ 31 == q
  (s.run (.sheaf ti.die ti.clu ti.core)).ents.any f || (s.run (.stook ti.die ti.clu)).ents.any f ||
  (s.run (.rick ti.die)).ents.any f || (s.run (.rick (q / 64))).ents.any f || (s.die ti.die).sent.any fun x => f x.e

/-- A barn release toward pseudo-channel q (R126): what is not bound for its barns stands at device scope, a peer's keys at the peer (R124). -/
def State.barnRelease (s : State) (q : Nat) : M State :=
  let ti := s.me
  match s.release .sys false with
  | .ok s => if s.barnLeft ti q then hold (s.wantMerge (.rick (q / 64))) else .ok s
  | .error (.hold s) => hold (s.wantMerge (.rick (q / 64)))
  | .error e => .error e

/-! ### Global addresses at issue (R87, R156 Translate, R175) -/

/-- Trap SUB of a Translation (R320). -/
def subFetch : Nat := 0
def subLoad : Nat := 1
def subUpd : Nat := 2
/-- SUB of an access that an instruction makes for a descriptor or table (R322; log 53). -/
def subEng : Nat := 3

/-- The issuing thread's translation of one address (R355): a miss leaves the rotation for a walk. -/
def State.xlate (s : State) (va : W64) (k : Need) (sub : Nat) : M (Nat × State) :=
  let ti := s.me
  let a := va.toNat
  if 2 ^ 56 ≤ a ∨ s.th.ph.xfault = some (a / 4096) then .error (.trap tXlate sub va)
  else
    match s.lookThread ti.die ti.clu ti.ctx a with
    | (.hit m, s') => if m.grants k s.th.sup then .ok (m.pa, s') else .error (.trap tXlate sub va)
    | (.fault, _) => .error (.trap tXlate sub va)
    | (.miss, s') => hold ((s'.addWalk ti.die ti.ctx (a / 4096) ti).waitMe (.walk (a / 4096)))

/-- A key: its physical address and its class. -/
structure Key where
  pa  : Nat
  cls : PClass
  deriving DecidableEq, Repr

/-- Translate(va, n, kind) (R156): Alignment, Translation, PhysicalAddress, in that order (R175). Steading registers are not for
threads beyond the firmware's own (R368, R369), and a peer out of REACH is unpopulated (R376). -/
def State.keyAt (s : State) (va : W64) (n : Nat) (k : Need) (sub : Nat) : M (Key × State) := do
  ensure (va.toNat % n == 0) tAlign va
  let (pa, s') ← s.xlate va k sub
  let c := s.classify (s.pOf s.me) pa
  match c with
  | .none => trap tPhys va
  | .steading o => if 0x10000000 ≤ o then trap tPhys va else .ok (⟨pa, c⟩, s')
  | .peer v _ => if s.reaches (s.pOf s.me) v then .ok (⟨pa, c⟩, s') else trap tPhys va
  | _ => .ok (⟨pa, c⟩, s')

/-- A Reed core's address (R268): an offset into its own pseudo-channel, as a DRAM byte. -/
def State.reedAt (s : State) (q : Nat) (o : W64) (n : Nat) : M Nat := do
  ensure (o.toNat % n == 0) tAlign o
  if o.toNat < s.lim q ∧ (s.reed q).retired = false then .ok (q * 2 ^ 31 + o.toNat) else trap tPhys o

/-! ### Words that asynchronous operations of a thread still touch (R109) -/

/-- An incomplete load or a waiting update of the thread shares a word with one of these keys. -/
def State.busyWords (s : State) (ti : SlotId) (ws : List Nat) : Bool :=
  let uid := (s.thr ti).uid
  (s.loads.any fun l => l.uid == uid && l.elems.any fun e => ws.contains (wordOf e.key)) ||
  (aget [] s.ins (ti.die, ti.clu, ti.core)).any fun i => i.owner.uid == uid && ws.contains (wordOf i.key)

/-! ### Forming updates (R87) -/

/-- A peer's stream takes a request (R123, R125). -/
def State.toStream (s : State) (ti : SlotId) (dev : Nat) (r : PeerReq) (answer : Bool) : State :=
  { s with peerq := s.peerq ++ [⟨s.fresh, dev, r, s.owner ti, if answer then some ti else none, s.pc0, true⟩], fresh := s.fresh + 1 }

/-- A root complex's stream takes an update (R370, R371). -/
def State.toHost (s : State) (ti : SlotId) (rc a : Nat) (op : KOp) (wd : Width) (bf : Bool) (v : W64) : State :=
  { s with hostq := aset s.hostq rc (aget [] s.hostq rc ++ [⟨s.fresh, a, op, wd, bf, v, s.owner ti, true, none⟩]), fresh := s.fresh + 1 }

/-- The place of an asynchronous load of a peer's key in the stream (R123): its number, 0 for any other key. -/
def State.loadPlace (s : State) (ti : SlotId) (key : Nat) (wd : Width) : Nat × State :=
  match s.classify (s.pOf ti) key with
  | .peer d x => (s.fresh, { s with peerq := s.peerq ++ [⟨s.fresh, d, .load x wd, s.owner ti, none, s.pc0, true⟩], fresh := s.fresh + 1 })
  | _ => (0, s)

/-- The elements of an asynchronous load, each with its place in a stream. -/
def State.loadElemsAt (s : State) (ti : SlotId) (wd : Width) (ks : List (Nat × Nat)) : List LElem × State :=
  ks.foldl (fun (a : List LElem × State) k => let (req, s) := a.2.loadPlace ti k.1 wd; (a.1 ++ [⟨k.1, k.2, req, none, false⟩], s)) ([], s)

/-- The place of a formed update in a host's or a peer's stream, taken at issue (R123, R371): its number, 0 for device memory. Its value may
follow (R215). -/
def State.streamPlace (s : State) (ti : SlotId) (key : Nat) (op : KOp) (wd : Width) (bf : Bool) : Nat × State :=
  match s.classify (s.pOf ti) key with
  | .host rc a => (s.fresh, { s with hostq := aset s.hostq rc (aget [] s.hostq rc ++ [⟨s.fresh, a, op, wd, bf, 0#64, s.owner ti, false, none⟩]), fresh := s.fresh + 1 })
  | .peer d x => (s.fresh, { s with peerq := s.peerq ++ [⟨s.fresh, d, .update x op wd bf 0#64, s.owner ti, none, s.pc0, false⟩], fresh := s.fresh + 1 })
  | _ => (0, s)

/-- Queue formed updates for the core's sheaf run: one instruction, one count of UPDATES. -/
def State.formUpdates (s : State) (ti : SlotId) (us : List (Nat × InsSrc)) (op : KOp) (wd : Width) (bf : Bool) : State :=
  if us.isEmpty then s
  else
    let k := (ti.die, ti.clu, ti.core)
    let uop := s.fresh
    let (new, s) := us.foldl (fun (a : List Ins × State) u =>
      let (req, s) := a.2.streamPlace ti u.1 op wd bf
      (a.1 ++ [{ ti := ti, owner := s.owner ti, uop := uop, key := u.1, op := op, width := wd, bf := bf, ctx := ti.ctx, qtag := s.qtagOf ti, src := u.2, req := req, stands := false }], s))
      ([], s.newId)
    ({ s with ins := aset s.ins k (aget [] s.ins k ++ new) } : State).modThr ti fun t => { t with updates := t.updates + 1 }

/-! ### Full/empty words (R101, R102) -/

/-- Wake the threads, and peers' requests (R125), parked on a word of device memory, which a class-0 request changed (R274). -/
def State.wakeWord (s : State) (lin : Nat) : State :=
  { s with
    slots := s.slots.map fun x =>
      match x.2.wait with
      | .word o => if !o.sp && (linOf o.addr).getD 0 / 8 == lin / 8 then (x.1, { x.2 with wait := .word { o with woken := true } }) else x
      | _ => x
    dies := s.dies.map fun d => (d.1, { d.2 with peerWait := d.2.peerWait.map fun w => if (w.req.key.bind linOf).getD 0 / 8 == lin / 8 then { w with woken := true } else w })
    asked := (s.class0 lin).asked }

/-- Wake the threads parked on a scratchpad word of a cluster's context: `a` is its byte in the half. -/
def State.wakeSp (s : State) (d c x : Nat) (a : Nat) : State :=
  { s with slots := s.slots.map fun y =>
      match y.2.wait with
      | .word o =>
        if o.sp && y.1.die == d && y.1.clu == c && y.1.ctx == x && (match s.spPhys y.2.grp o.addr with | some b => b / 8 == a / 8 | none => false)
        then (y.1, { y.2 with wait := .word { o with woken := true } }) else y
      | _ => y }

def Half.isFull (h : Half) (a : Nat) : Bool := h.spFull.contains (a / 8)
def Half.setFull (h : Half) (a : Nat) (b : Bool) : Half :=
  { h with spFull := if b then ninsert (a / 8) h.spFull else h.spFull.filter (· != a / 8) }

/-- The answer of trying FILL, TAKE or PEEK once. -/
inductive FeR where
  | done (v : W64) (s : State)
  /-- the word is in the wrong state: park, with the pushes made so far (R183) -/
  | wrong (s : State)
  /-- entries of the word stand on the path, before the barn (R101, R105) -/
  | push (s : State)
  | poison
  deriving Repr

/-- One try on a global word by thread ti: push the entries on the thread's path, then act at the barn (R101, R181). -/
def State.feBarn (s : State) (ti : SlotId) (kind pa : Nat) (v : W64) : FeR :=
  let w := wordOf pa
  let s := s.pushWord ti.die ti.clu ti.core w
  if s.pathLeft ti.die ti.clu ti.core w then .push s
  else
    let lin := wordLin w
    let full := s.isFull lin
    match kind with
    | 0 => if full then .wrong s else .done v (((s.barnFill lin v).wakeWord lin).afterBarn ti.die w)
    | 1 =>
      if !full then .wrong s
      else if s.isPoison lin then .poison
      else .done (BitVec.ofNat 64 (s.dramRead lin 8)) (((s.setFull lin false).wakeWord lin).afterBarn ti.die w)
    | _ =>
      if !full then .wrong s
      else if s.isPoison lin then .poison
      else .done (BitVec.ofNat 64 (s.dramRead lin 8)) (s.afterBarn ti.die w)

/-- One try on a scratchpad word (R101): `a` is a valid view address of the group. -/
def State.feSp (s : State) (ti : SlotId) (kind : Nat) (a : Nat) (v : W64) : FeR :=
  let g := (s.thr ti).grp
  match s.spPhys g a with
  | none => .wrong s
  | some b =>
    let h := s.half ti.die ti.clu ti.ctx
    let full := h.isFull b
    let put (f : Bool) (s : State) : State :=
      (s.setHalf ti.die ti.clu ti.ctx ((s.half ti.die ti.clu ti.ctx).setFull b f)).wakeSp ti.die ti.clu ti.ctx b
    let old := BitVec.ofNat 64 (leNat (s.spRead g a 8))
    match kind with
    | 0 => if full then .wrong s else .done v (put true (s.spWrite g a (leBytes 8 v.toNat)))
    | 1 => if !full then .wrong s else if s.spPoisoned g a 8 then .poison else .done old (put false s)
    | _ => if !full then .wrong s else if s.spPoisoned g a 8 then .poison else .done old s

def State.feTry (s : State) (ti : SlotId) (o : FeOp) : FeR :=
  if o.sp then s.feSp ti o.kind o.addr o.val else s.feBarn ti o.kind o.addr o.val

/-- A full/empty or channel operation has acted: registers, acquire, completion (R182, R191). -/
def State.feDone (s : State) (ti : SlotId) (o : FeOp) (v : W64) : State :=
  let s := if o.kind = 0 then s else s.modThr ti fun t => t.setReg (BitVec.ofNat 5 o.rd) v
  let s := match o.hreg with | some (r, x) => s.modThr ti fun t => t.setReg (BitVec.ofNat 5 r) x | none => s
  let s := match o.acq with | some sc => s.acqAt ti sc | none => s
  s.fallOf ti

/-- Park a thread (R102): on its die's list if a global word finds room there, otherwise it polls. -/
def State.park (s : State) (ti : SlotId) (o : FeOp) : State :=
  let room := decide ((s.die ti.die).waiters.length + (s.die ti.die).peerWait.length < 4096) || (s.die ti.die).waiters.contains ti
  let listed := o.sp || room
  let s := s.modThr ti fun t => { t with wait := .word { o with listed := listed, woken := false, ord := s.fresh } }
  let s := if !o.sp && room && !(s.die ti.die).waiters.contains ti then s.setDie ti.die { s.die ti.die with waiters := (s.die ti.die).waiters ++ [ti] } else s
  s.newId

/-- A thread no longer waits on its word. -/
def State.unlist (s : State) (ti : SlotId) : State :=
  s.setDie ti.die { s.die ti.die with waiters := (s.die ti.die).waiters.filter (· != ti) }

/-- Try, and complete, wait or park. The thread's length stands in its phase. -/
def State.feAct (s : State) (ti : SlotId) (o : FeOp) : State :=
  match s.feTry ti o with
  | .done v s' => (s'.unlist ti).feDone ti o v
  | .wrong s' => s'.park ti o
  | .push s' => s'
  | .poison => (s.unlist ti).consume ti (if o.sp then sramPa else o.addr)

/-- Is the context of a slot rotating on its cluster (R26, R47)? -/
def State.rotating (s : State) (ti : SlotId) : Bool :=
  (s.cluster ti.die ti.clu).rot == ti.ctx && s.switchTo ti.die ti.clu == none

end Sys2Proof.Machine
end

