-- ==== Sys2Proof/Machine/Operands.lean ====
section
/-!
DEFINITION. Operands.lean: the operand forms: effective addresses (R175), scratchpad operands of scalar and vector
instructions (R32, R195 to R199), masks, beats (R200), and the rows that a register or the slot selects (R193, R267, R277, R357).
-/
namespace Sys2Proof.Machine
open Sys2Proof

/-- The effective address of a Tm instruction of width n (R175): Reg(s) + ImmS · n, modulo 2^64. -/
def State.ea (s : State) (rs : Reg) (off : W64) (n : Nat) : W64 := s.reg rs + off * BitVec.ofNat 64 n

/-- A scratchpad operand of n bytes named by a register (R32, R175): Alignment, then ScratchpadRange at the address. -/
def State.spAt (s : State) (a : W64) (n align : Nat) : M Nat := do
  ensure (a.toNat % align == 0) tAlign a
  if 2 ^ 32 ≤ a.toNat then (if n = 0 then .ok (a.toNat % 2 ^ 32) else trap tSp a)
  else match s.spBad s.myGrp a.toNat n with
    | none => .ok a.toNat
    | some _ => trap tSp a

/-- As spAt, for a run of bytes whose lowest invalid address is reported (R255, R259). -/
def State.spRun (s : State) (a : W64) (n align : Nat) : M Nat := do
  ensure (a.toNat % align == 0) tAlign a
  if 2 ^ 32 ≤ a.toNat then (if n = 0 then .ok 0 else trap tSp a)
  else match s.spBad s.myGrp a.toNat n with
    | none => .ok a.toNat
    | some b => trap tSp (BitVec.ofNat 64 b)

/-! ### Vector operands (R196) -/

/-- What an operand holds: elements of n bytes, Q4X blocks, or a bitmap. -/
inductive VKind where
  | el (n : Nat)
  | q4x
  | bits
  deriving DecidableEq, Repr

structure VOp where
  kind : VKind
  ptr  : BitVec 32
  deriving DecidableEq, Repr

def VKind.size (k : VKind) (vl : Nat) : Nat := match k with | .el n => n * vl | .q4x => 18 * vl / 32 | .bits => (vl + 7) / 8
def VKind.align (k : VKind) : Nat := match k with | .el n => n | .q4x => 2 | .bits => 1
/-- E of an operand; a bitmap does not count (R196). -/
def VKind.step (k : VKind) : Nat := match k with | .el n => 64 / n | .q4x => 32 | .bits => 64

/-- How a format lies in scratchpad. -/
def vkind (f : EFmt) : VKind := match f with | .q4x => .q4x | f => .el f.bytes
def VOp.addr (o : VOp) : Nat := o.ptr.toNat
def State.vop (s : State) (k : VKind) (q : PtrOp) : VOp := ⟨k, s.th.ptr q.p⟩
/-- The mask operand (R199). -/
def State.vmask (s : State) (mk : Bool) : List VOp := if mk then [⟨.bits, s.th.ptr 7#3⟩] else []
def State.vlen (s : State) : Nat := s.th.vl.toNat

def minNat : List Nat → Option Nat
  | [] => none
  | x :: r => some (r.foldl min x)

/-- The checks of R197: Q4X length, alignment, range, reporting the lowest invalid address. -/
def State.vcheck (s : State) (ops : List VOp) : M Unit := do
  ensure (!(ops.any fun o => o.kind == .q4x) || s.vlen % 32 == 0) tOp s.pc0
  match minNat ((ops.filter fun o => o.addr % o.kind.align != 0).map VOp.addr) with
  | some a => trap tAlign (BitVec.ofNat 64 a)
  | none =>
    match minNat (ops.filterMap fun o => s.spBad s.myGrp o.addr (o.kind.size s.vlen)) with
    | some a => trap tSp (BitVec.ofNat 64 a)
    | none => .ok ()

/-- The step size of an instruction (R196). -/
def stepSize (ops : List VOp) : Nat := ops.foldl (fun e o => min e o.kind.step) 64

/-- Post-increment (R21, R196). -/
def Thread.bump (t : Thread) (q : PtrOp) (k : VKind) : Thread :=
  if q.inc then t.setPtr q.p (t.ptr q.p + BitVec.ofNat 32 (k.size t.vl.toNat)) else t

/-- Element i of an operand of n-byte elements. -/
def State.elem (s : State) (o : VOp) (n i : Nat) : Nat := leNat (s.spRead s.myGrp (o.addr + n * i) n)
/-- Block b of a Q4X operand. -/
def State.blockAt (s : State) (o : VOp) (b : Nat) : Nat := leNat (s.spRead s.myGrp (o.addr + 18 * b) 18)
/-- Bit i of a bitmap at a pointer. -/
def State.bitAt (s : State) (p : BitVec 32) (i : Nat) : Bool := nbit (leNat (s.spRead s.myGrp (p.toNat + i / 8) 1)) (i % 8)
/-- Is element i unmasked (R199)? -/
def State.unmasked (s : State) (mk : Bool) (i : Nat) : Bool := !mk || s.bitAt (s.th.ptr 7#3) i

/-- The bytes of element i of an operand: its first and how many. -/
def VOp.span (o : VOp) (i : Nat) : Nat × Nat :=
  match o.kind with
  | .el n => (o.addr + n * i, n)
  | .q4x => (o.addr + 18 * (i / 32), 18)
  | .bits => (o.addr + i / 8, 1)

/-- Is a scratchpad word that the operand's unmasked elements lie in poisoned (R364)? -/
def State.vpois (s : State) (mk : Bool) (o : VOp) : Bool :=
  (List.range s.vlen).any fun i => s.unmasked mk i && s.spPoisoned s.myGrp (o.span i).1 (o.span i).2

/-- The sources of an instruction are read, the mask among them: a poisoned word is consumed instead (R364). -/
def State.vread (s : State) (mk : Bool) (src : List VOp) : M Unit :=
  if (s.vmask mk).any (s.vpois false) || src.any (s.vpois mk) then hold (s.consume s.me sramPa) else .ok ()

/-- The steps of an instruction: first element and count of each. -/
def vsteps (e vl : Nat) : List (Nat × Nat) := (List.range ((vl + e - 1) / e)).map fun k => (e * k, min e (vl - e * k))

/-! ### Beats (R200) -/

/-- The bytes of an operand that step k of size e touches. -/
def VOp.stepRange (o : VOp) (e vl k : Nat) : Nat × Nat :=
  let c := min e (vl - e * k)
  match o.kind with
  | .el n => (o.addr + n * e * k, n * c)
  | .q4x => (o.addr + 18 * (e * k / 32), 18 * ((c + 31) / 32))
  | .bits => (o.addr + e * k / 8, (c + 7) / 8)

/-- The 64-byte blocks of a byte range. -/
def blocksOf (r : Nat × Nat) : List Nat := if r.2 = 0 then [] else (List.range ((r.1 + r.2 - 1) / 64 - r.1 / 64 + 1)).map fun i => r.1 / 64 + i

/-- The beats of one step: accesses in each of the three banks. `reads` source elements are read in its last beat. -/
def stepBeats (ops : List VOp) (e vl k reads : Nat) : List (List Nat × Nat) :=
  let acc := ops.flatMap fun o => blocksOf (o.stepRange e vl k)
  let perBank := (List.range 3).map fun b => (acc.filter fun x => x * 64 / 0x40000 == b).length
  let n := max 1 (((perBank.foldl max 0) + 1) / 2)
  (List.range n).map fun j => (perBank.map fun a => min 2 (a - 2 * j), if j + 1 = n then reads else 0)

def beatsOf (ops : List VOp) (e vl : Nat) (src : Bool) : List (List Nat × Nat) :=
  (vsteps e vl).zipIdx.flatMap fun x => stepBeats ops e vl x.2 (if src then x.1.2 else 0)


/-- Hold the core's vector unit from issue (R28, R202). -/
def State.holdUnit (s : State) (sync : Bool) (uop : Nat) (beats : List (List Nat × Nat)) : State :=
  { s with vunit := aset s.vunit (coreKey s.me) ⟨s.me, sync, uop, beats⟩ }

/-! ### Rows that share an encoding -/

/-- The row that a shared encoding stands for: the action register of SLCTL (R277) and XINV (R357), and RSEND outside a
ferry-slot handler (R267). (log 9) -/
def select (i : Instr) (s : State) : Instr :=
  match i with
  | .slctlStatus rd rs rt => if fld (s.reg rt) 0 2 = 1 then .slctlAbort rd rs rt else i
  | .xinvPage rd rs rt =>
    match fld (s.reg rt) 0 2 with
    | 0 => i
    | 1 => .xinvContext rd rs rt
    | 2 => .xinvRange rd rs rt
    | _ => .xinvAll rd rs rt
  | .rsendReply => if s.th.kind = .ferryH then i else .rsend 0#5 0#5
  | _ => i

end Sys2Proof.Machine
end

