-- ==== Sys2Proof/Machine/Ready.lean ====
section
/-!
DEFINITION. Ready.lean: when a thread issues (R26, R28, R33, R60, R178, R202, R213), and instruction fetch (R142 to R144, R268).
-/
namespace Sys2Proof.Machine
open Sys2Proof

/-! ### Fetch -/

/-- One 16-bit word of a thread's instruction (R142, R144): from the cluster's instruction cache, or the home view of a populated
device-memory key that EX maps; any other key is a FetchFault. So is a poisoned word: R364 does not list a fetch among what consumes poison (DESIGN CHOICE, log 10). -/
def State.fetchWord (s : State) (ti : SlotId) (va : W64) : FetchR :=
  let a := va.toNat
  if 2 ^ 56 ≤ a ∨ (s.thr ti).ph.xfault = some (a / 4096) then .fault
  else match (s.lookThread ti.die ti.clu ti.ctx a).1 with
    | .miss => .wait
    | .fault => .fault
    | .hit m =>
      if !m.grants .fetch (s.thr ti).sup then .fault
      else match s.classify (s.pOf ti) m.pa with
        | .dram _ =>
          match aget? (s.cluster ti.die ti.clu).icache m.pa with
          | some w => .word w
          | none => match s.hvRead m.pa 2 with
          | .ok v _ => .word v
          | .held => .wait
          | .poison => .fault
        | _ => .fault

/-- The physical address of a thread's code, where its page is known and it can be fetched. -/
def State.codeAt (s : State) (ti : SlotId) (va : W64) : Option Nat :=
  match (s.lookThread ti.die ti.clu ti.ctx va.toNat).1 with
  | .hit m => if m.grants .fetch (s.thr ti).sup then some m.pa else none
  | _ => none

/-- The cluster's instruction cache keeps the words of an instruction of `len` bytes that has been fetched (R144). -/
def State.icacheFill (s : State) (ti : SlotId) (pc : W64) (len : Nat) : State :=
  let new := (List.range (len / 2)).filterMap fun n =>
    let va := pc + BitVec.ofNat 64 (2 * n)
    match s.codeAt ti va, s.fetchWord ti va with | some pa, .word w => some (pa, w) | _, _ => none
  let x := s.cluster ti.die ti.clu
  s.setCluster ti.die ti.clu { x with icache := new.foldl (fun m e => aset m e.1 e.2) x.icache }

/-- A fetch that waits: for a walk when the page is not cached, otherwise for a held entry (R106, R355). -/
def State.fetchWait (s : State) (ti : SlotId) (va : W64) : State :=
  match (s.lookThread ti.die ti.clu ti.ctx va.toNat).1 with
  | .miss => (s.addWalk ti.die ti.ctx (va.toNat / 4096) ti).modThr ti fun t => { t with wait := .walk (va.toNat / 4096) }
  | _ => s

/-- One word of a Reed core's code (R268). -/
def Reed.fetchWord (r : Reed) (a : W64) : FetchR :=
  let o := a.toNat
  let get (b : Option (List Byte)) (o : Nat) : FetchR := match b with | some bs => .word (leNat ((bs.drop o).take 2)) | none => .fault
  if o < 4096 then get r.ov0 o else if o < 8192 then get r.ov1 (o - 4096) else .fault

/-! ### What an instruction needs at issue -/

/-- The register fields of an instruction. -/
def regFields (i : Instr) : List Reg :=
  match i with
  | .add rd rs rt => [rd, rs, rt]
  | .sub rd rs rt => [rd, rs, rt]
  | .mul rd rs rt => [rd, rs, rt]
  | .mulh rd rs rt => [rd, rs, rt]
  | .mulhu rd rs rt => [rd, rs, rt]
  | .div rd rs rt => [rd, rs, rt]
  | .divu rd rs rt => [rd, rs, rt]
  | .rem rd rs rt => [rd, rs, rt]
  | .remu rd rs rt => [rd, rs, rt]
  | .and rd rs rt => [rd, rs, rt]
  | .or rd rs rt => [rd, rs, rt]
  | .xor rd rs rt => [rd, rs, rt]
  | .andn rd rs rt => [rd, rs, rt]
  | .shl rd rs rt => [rd, rs, rt]
  | .shr rd rs rt => [rd, rs, rt]
  | .sar rd rs rt => [rd, rs, rt]
  | .ror rd rs rt => [rd, rs, rt]
  | .slt rd rs rt => [rd, rs, rt]
  | .sltu rd rs rt => [rd, rs, rt]
  | .seq rd rs rt => [rd, rs, rt]
  | .sne rd rs rt => [rd, rs, rt]
  | .min rd rs rt => [rd, rs, rt]
  | .max rd rs rt => [rd, rs, rt]
  | .minu rd rs rt => [rd, rs, rt]
  | .maxu rd rs rt => [rd, rs, rt]
  | .clz rd rs => [rd, rs]
  | .ctz rd rs => [rd, rs]
  | .popc rd rs => [rd, rs]
  | .brev rd rs => [rd, rs]
  | .bfx rd rs rt => [rd, rs, rt]
  | .bfxu rd rs rt => [rd, rs, rt]
  | .bfi rd rs rt => [rd, rs, rt]
  | .addi rd rs _ => [rd, rs]
  | .andi rd rs _ => [rd, rs]
  | .ori rd rs _ => [rd, rs]
  | .xori rd rs _ => [rd, rs]
  | .shli rd rs _ => [rd, rs]
  | .shri rd rs _ => [rd, rs]
  | .sari rd rs _ => [rd, rs]
  | .slti rd rs _ => [rd, rs]
  | .sltiu rd rs _ => [rd, rs]
  | .li rd _ => [rd]
  | .lih rd _ => [rd]
  | .beq rs rt _ => [rs, rt]
  | .bne rs rt _ => [rs, rt]
  | .blt rs rt _ => [rs, rt]
  | .bge rs rt _ => [rs, rt]
  | .bltu rs rt _ => [rs, rt]
  | .bgeu rs rt _ => [rs, rt]
  | .loop _ rc _ => [rc]
  | .jr rs => [rs]
  | .callr rs => [rs]
  | .setvl rs => [rs]
  | .launch rd rs => [rd, rs]
  | .rdstat rd => [rd]
  | .wrstat rs => [rs]
  | .movfs rd _ => [rd]
  | .movts _ rs => [rs]
  | .ld _ _ _ _ rd rs _ => [rd, rs]
  | .ldS _ _ _ _ rd rs _ => [rd, rs]
  | .st _ _ _ rd rs _ => [rd, rs]
  | .iadd _ _ rd rs _ => [rd, rs]
  | .smin _ _ rd rs _ => [rd, rs]
  | .smax _ _ rd rs _ => [rd, rs]
  | .umin _ _ rd rs _ => [rd, rs]
  | .umax _ _ rd rs _ => [rd, rs]
  | .andUpdate _ _ rd rs _ => [rd, rs]
  | .orUpdate _ _ rd rs _ => [rd, rs]
  | .xorUpdate _ _ rd rs _ => [rd, rs]
  | .fsum _ _ rd rs _ => [rd, rs]
  | .fmin _ _ rd rs _ => [rd, rs]
  | .fmax _ _ rd rs _ => [rd, rs]
  | .fadd64 _ rd rs _ => [rd, rs]
  | .atom _ _ _ _ rd rs => [rd, rs]
  | .fill _ _ rd rs _ => [rd, rs]
  | .take _ _ rd rs _ => [rd, rs]
  | .peek _ _ rd rs _ => [rd, rs]
  | .empty _ _ rs _ => [rs]
  | .mresolveRetry rd rs => [rd, rs]
  | .mresolveDrop rd rs => [rd, rs]
  | .mresolveCommit rd rs => [rd, rs]
  | .wait nb rd _ => if nb then [rd] else []
  | .barp _ rs rt => [rs, rt]
  | .chpush _ rs rt => [rs, rt]
  | .chpop _ rd rs => [rd, rs]
  | .vsum _ _ _ rd _ => [rd]
  | .vmaxr _ _ rd _ => [rd]
  | .vdot _ _ _ rd _ _ => [rd]
  | .vfill _ _ _ rs => [rs]
  | .vnnz _ _ rd _ _ => [rd]
  | .vld _ _ _ rs => [rs]
  | .vst _ _ _ _ rs => [rs]
  | .vupd _ _ _ _ _ rs => [rs]
  | .vgath _ _ _ _ rt => [rt]
  | .vscat _ _ _ _ _ rt => [rt]
  | .pset _ rs => [rs]
  | .pget rd _ => [rd]
  | .padd _ rs => [rs]
  | .cvt _ _ _ rd rs => [rd, rs]
  | .cvtToF64 _ _ rd rs => [rd, rs]
  | .cvtFromF64 _ _ rd rs => [rd, rs]
  | .oclaim rd rs => [rd, rs]
  | .orel rs rt => [rs, rt]
  | .ofill rd rs rt => [rd, rs, rt]
  | .mlatch _ rs => [rs]
  | .mstream _ rd rs rt => [rd, rs, rt]
  | .mdend _ rd rs rt => [rd, rs, rt]
  | .mcurve rs rt => [rs, rt]
  | .gstart rd rs rt => [rd, rs, rt]
  | .copy rd rs rt => [rd, rs, rt]
  | .copym rd rs rt => [rd, rs, rt]
  | .wbin rd rs rt => [rd, rs, rt]
  | .wreplay rd rs rt => [rd, rs, rt]
  | .wclass rd rs rt => [rd, rs, rt]
  | .ferry _ _ rd rs rt => [rd, rs, rt]
  | .ixred rs rt => [rs, rt]
  | .rsend rs rt => [rs, rt]
  | .slctlStatus rd rs rt => [rd, rs, rt]
  | .slctlAbort rd rs rt => [rd, rs, rt]
  | .sluld rs rt => [rs, rt]
  | .slugo rs rt => [rs, rt]
  | .sluwt rs => [rs]
  | .slurd rd rs => [rd, rs]
  | .tkset rs => [rs]
  | .tkclr rs => [rs]
  | .ovswap rs rt => [rs, rt]
  | .tissue rd rs rt => [rd, rs, rt]
  | .srd rd _ => [rd]
  | .swr _ rd => [rd]
  | .ctxsw rd rs rt => [rd, rs, rt]
  | .xinvPage rd rs rt => [rd, rs, rt]
  | .xinvContext rd rs rt => [rd, rs, rt]
  | .xinvRange rd rs rt => [rd, rs, rt]
  | .xinvAll rd rs rt => [rd, rs, rt]
  | .savectx rd rs rt => [rd, rs, rt]
  | .loadctx rd rs rt => [rd, rs, rt]
  | _ => []

/-- The physical register a SPILL, FILL or PREG number names (R318). -/
def Thread.sysPhys (t : Thread) (n : Nat) : Nat :=
  if n ≤ 271 then (16 * t.bot.toNat + (n - 256)) % 128
  else if n ≤ 287 then (16 * (t.bot.toNat + 7) + (n - 272)) % 128
  else n - 384
/-- The place of the physical register that an SRD or SWR of register n accesses. -/
def Thread.sysPlace (t : Thread) (n : Nat) : List Nat :=
  if (256 ≤ n ∧ n ≤ 287) ∨ 384 ≤ n then [t.sysPhys n] else []

/-- Physical places of a window that lies `k` frames further on. -/
def Thread.placeAt (t : Thread) (k i : Nat) : Nat := (16 * (t.wb.toNat + k) + i) % 128

/-- Every register an instruction reads or writes, as the places an LD.nb fixes (R178). -/
def placesOf (t : Thread) (i : Instr) : List Nat :=
  let w16 := (List.range 8).map fun k => t.physOf (16 + k)
  let more := match i with
    | .copy rd _ _ => [t.place (rd + 1#5)]
    | .copym rd _ _ => [t.place (rd + 1#5)]
    | .ferry _ _ _ _ _ => w16
    | .rsend _ _ => w16
    | .rsendReply => (List.range 8).map t.physOf
    | .call _ => [t.placeAt 1 8]
    | .callr _ => [t.placeAt 1 8]
    | .ret => [t.placeAt 0 8]
    | .srd _ n => t.sysPlace n.toNat
    | .swr n _ => t.sysPlace n.toNat
    | _ => []
  (regFields i).map t.place ++ more

/-- Instructions whose first register field is only written. -/
def destOnly (i : Instr) : Bool :=
  match i with
  | .add .. | .sub .. | .mul .. | .mulh .. | .mulhu .. | .div .. | .divu .. | .rem .. | .remu .. | .and .. | .or .. | .xor .. | .andn ..
  | .shl .. | .shr .. | .sar .. | .ror .. | .slt .. | .sltu .. | .seq .. | .sne .. | .min .. | .max .. | .minu .. | .maxu .. | .clz ..
  | .ctz .. | .popc .. | .brev .. | .bfx .. | .bfxu .. | .addi .. | .andi .. | .ori .. | .xori .. | .shli .. | .shri .. | .sari ..
  | .slti .. | .sltiu .. | .li .. | .launch .. | .rdstat .. | .movfs .. | .ld .. | .ldS .. | .take .. | .peek .. | .wait .. | .chpop ..
  | .vsum .. | .vmaxr .. | .vdot .. | .vnnz .. | .pget .. | .cvt .. | .cvtToF64 .. | .cvtFromF64 .. | .oclaim .. | .gstart .. | .ferry ..
  | .slctlStatus .. | .slctlAbort .. | .slurd .. | .srd .. => true
  | _ => false

/-- Does the instruction read a poisoned register (R364)? -/
def Thread.readsPoison (t : Thread) (i : Instr) : Bool :=
  !t.rpois.isEmpty &&
  (let fs := ((if destOnly i then (regFields i).drop 1 else regFields i).map t.place) ++
    (match i with
     | .copy rd _ _ => [t.place (rd + 1#5)]
     | .copym rd _ _ => [t.place (rd + 1#5)]
     | .ferry _ _ _ _ _ => (List.range 8).map fun k => t.physOf (16 + k)
     | .rsend _ _ => (List.range 8).map fun k => t.physOf (16 + k)
     | .rsendReply => (List.range 8).map t.physOf
     | .ret => [t.placeAt 0 8]
     | .srd _ n => t.sysPlace n.toNat
     | _ => [])
   fs.any t.rpois.contains)

/-- Instructions of the vector unit (R28, R213). -/
def usesUnit (i : Instr) : Bool :=
  match i with
  | .vadd .. | .vsub .. | .vmul .. | .vfma .. | .vmin .. | .vmax .. | .vabs .. | .vneg .. | .vand .. | .vor .. | .vxor .. | .vshl ..
  | .vcmpeq .. | .vcmpne .. | .vcmplt .. | .vcmple .. | .vsum .. | .vmaxr .. | .vscan .. | .vdot .. | .vfill .. | .vcopy .. | .vsel ..
  | .vnnz .. | .vld .. | .vst .. | .vupd .. | .vgath .. | .vscat .. | .vcvt .. | .vexp2 .. | .vlog2 .. | .vrcp .. | .vrsqrt ..
  | .vsin2pi .. | .vtanh .. | .ofill .. => true
  | _ => false

/-- The counter an asynchronous instruction raises (R60): 0 none, 1 LOADS, 2 UPDATES, 3 COPIES, 4 TILES. -/
def counterOf (i : Instr) : Nat :=
  match i with
  | .ld _ _ nb _ _ _ _ => if nb then 1 else 0
  | .ldS _ _ nb _ _ _ _ => if nb then 1 else 0
  | .vld .. | .vgath .. => 1
  | .st _ sp _ _ _ _ => if sp then 0 else 2
  | .iadd .. | .smin .. | .smax .. | .umin .. | .umax .. | .andUpdate .. | .orUpdate .. | .xorUpdate .. | .fsum .. | .fmin .. | .fmax ..
  | .fadd64 .. | .vst .. | .vupd .. | .vscat .. => 2
  | .copy .. | .copym .. | .wbin .. | .wreplay .. | .wclass .. | .ixred .. | .rsend .. => 3
  | .mstream .. | .mdend .. | .tissue .. => 4
  | _ => 0

/-- Memory operations of a thread in the sense of R108; a channel in scratchpad is none. -/
def isMemOp (t : Thread) (i : Instr) : Bool :=
  match i with
  | .chpush _ rs _ => !(t.reg rs).getLsbD 63
  | .chpop _ _ rs => !(t.reg rs).getLsbD 63
  | .ld _ sp _ _ _ _ _ => !sp
  | .ldS _ sp _ _ _ _ _ => !sp
  | .st _ sp _ _ _ _ => !sp
  | .fill sp _ _ _ _ => !sp
  | .take sp _ _ _ _ => !sp
  | .peek sp _ _ _ _ => !sp
  | .empty sp _ _ _ => !sp
  | .iadd .. | .smin .. | .smax .. | .umin .. | .umax .. | .andUpdate .. | .orUpdate .. | .xorUpdate .. | .fsum .. | .fmin .. | .fmax ..
  | .fadd64 .. | .atom .. | .mresolveRetry .. | .mresolveDrop .. | .mresolveCommit ..
  | .vld .. | .vst .. | .vupd .. | .vgath .. | .vscat .. | .copy .. | .copym .. | .wbin .. | .wreplay .. | .wclass ..
  | .ferry .. | .ixred .. | .rsend .. | .rsendReply | .slctlStatus .. | .slctlAbort .. | .launch .. | .gstart .. | .tissue .. => true
  | _ => false

/-- Is a core's vector unit free (R28, R202)? -/
def State.unitFree (s : State) (k : Nat × Nat × Nat) : Bool := match aget? s.vunit k with | some _ => false | none => true

/-- Is the thread's own vector instruction still on the unit? -/
def State.onUnit (s : State) (ti : SlotId) : Bool := match aget? s.vunit (coreKey ti) with | some u => u.ti == ti && u.sync | none => false

def Thread.counter (t : Thread) (n : Nat) : Nat := match n with | 1 => t.loads | 2 => t.updates | 3 => t.copies | 4 => t.tiles | _ => 0

/-- A cohort's groups issue only when all are placed (R33). -/
def State.cohortOk (s : State) (ti : SlotId) : Bool :=
  match aget? s.launches (s.launchOf ti) with | some l => !l.cohort || l.next == l.groups | none => true

/-- Has the thread's instruction, which waited for a peer, its answer? -/
def State.answered (s : State) (ti : SlotId) : Bool := (s.thr ti).ph.ans.isSome

/-- Does the thread's context rotate, and no halt stop it (R26, R47, R332)? -/
def State.rotates (s : State) (ti : SlotId) : Bool := s.rotating ti && !(s.cx ti).halted

/-- The thread may take a turn at all (R26, R47, R332). A halt stops a thread at its next instruction boundary: an instruction that has its
answer completes first (R128, R180, R183). A SAVECTX goes on when a switch that was told first has taken its context out of the rotation (R331). -/
def State.canTurn (s : State) (ti : SlotId) : Bool :=
  (s.thr ti).live && !(s.thr ti).halted && !(s.cx ti).saved && s.cohortOk ti &&
  (s.rotates ti || ((s.cx ti).halted && s.answered ti) || s.saving ti)

/-- Is the thread ready for instruction i (R26, R28, R60, R167, R178, R255)? An MLATCH waits while a tile is in the queue (R291). -/
def State.readyFor (s : State) (ti : SlotId) (i : Instr) : Bool :=
  let t := s.thr ti
  !(s.onUnit ti) && (!usesUnit i || s.unitFree (coreKey ti)) && decide (t.counter (counterOf i) < 15) &&
  (!isMemOp t i || t.acqPend == 0) &&
  !(s.loads.any fun l => l.uid == t.uid && (match l.reg with | some pl => (placesOf t i).contains pl | none => false)) &&
  (match i with
   | .copy .. | .copym .. => decide ((s.copies.filter fun c => c.die == ti.die).length < 128)
   | .exit => t.loads + t.updates + t.copies + t.tiles == 0
   | .mlatch .. => !((s.half ti.die ti.clu ti.ctx).arr.queue.any fun o => o.kind == 4)
   | .tissue .. => decide ((s.tissues.filter fun u => u.p == s.pOf ti && u.ctx == ti.ctx).length < 256)
   | _ => true)

end Sys2Proof.Machine
end

