-- ==== Sys2Proof/Machine/Control.lean ====
section
/-!
DEFINITION. Control.lean: branches, calls and loops (R162 to R166), thread control (R167 to R169, R172, R173), traps and TRET
(R323, R324).
-/
namespace Sys2Proof.Machine
open Sys2Proof

/-- The address the issuing instruction falls through to. -/
def State.nextAddr (s : State) : W64 := s.cur.addr + BitVec.ofNat 64 s.cur.len
/-- Target() (R132): the offset counts halfwords. -/
def State.target (s : State) (off : W64) : W64 := s.cur.addr + off + off

/-- A conditional branch (R162). -/
def branch (c : Bool) (off : W64) (s : State) : Out := .next (if c then s.jump (s.target off) else s.fall)

def execBeq (rs rt : Reg) (off : W64) (s : State) : Out := branch (s.reg rs == s.reg rt) off s
def execBne (rs rt : Reg) (off : W64) (s : State) : Out := branch (s.reg rs != s.reg rt) off s
def execBlt (rs rt : Reg) (off : W64) (s : State) : Out := branch ((s.reg rs).slt (s.reg rt)) off s
def execBge (rs rt : Reg) (off : W64) (s : State) : Out := branch (!(s.reg rs).slt (s.reg rt)) off s
def execBltu (rs rt : Reg) (off : W64) (s : State) : Out := branch ((s.reg rs).ult (s.reg rt)) off s
def execBgeu (rs rt : Reg) (off : W64) (s : State) : Out := branch (!(s.reg rs).ult (s.reg rt)) off s

def execJmp (off : W64) (s : State) : Out := .next (s.jump (s.target off))
/-- JR (R163): an odd target raises InstructionAlignment. -/
def execJr (rs : Reg) (s : State) : Out :=
  if (s.reg rs).getLsbD 0 then .next (s.takeTrap tIAlign 0 s.pc0) else .next (s.jump (s.reg rs))

/-! ### Calls (R55, R164) -/

/-- The window moves forward; w8 of the callee receives the return address. -/
def Thread.callTo (t : Thread) (target ret : W64) : Thread :=
  let t := { t with wb := t.wb + 1#3, depth := t.depth + 1#16, pc := target, ph := Phase.zero }
  t.setReg 8#5 ret

/-- Frames between BOT and WB (R54). -/
def Thread.frames (t : Thread) : BitVec 3 := t.wb - t.bot

def doCall (target : W64) (s : State) : M State := do
  ensure (s.th.depth != 0xFFFF#16) tIllegal s.pc0
  ensure (!target.getLsbD 0) tIAlign s.pc0
  ensure (s.th.frames != 6#3) tSpill s.pc0
  .ok (s.modMe fun t => t.callTo target s.nextAddr)

def execCall (off : W64) (s : State) : Out := finish s (doCall (s.target off) s)
def execCallr (rs : Reg) (s : State) : Out := finish s (doCall (s.reg rs) s)

def doRet (s : State) : M State := do
  ensure (s.th.depth != 0#16) tIllegal s.pc0
  ensure (!(s.th.reg 8#5).getLsbD 0) tIAlign s.pc0
  ensure (s.th.wb != s.th.bot) tFill s.pc0
  .ok (s.modMe fun t => { t with pc := t.reg 8#5, wb := t.wb - 1#3, depth := t.depth - 1#16, ph := Phase.zero })

def execRet (s : State) : Out := finish s (doRet s)

/-! ### Hardware loops (R165) -/

/-- The length of the instruction at le, for a count of 0: words up to the first base word; n prefixes have been met. -/
def loopLen (fetch : Nat → FetchR) : (fuel n : Nat) → DecR
  | 0, _ => .illegal
  | k + 1, n =>
    match fetch n with
    | .fault => .fetchFault n
    | .wait => .fetchWait n
    | .word w => if w / 2048 = 31 then (if n = 4 then .illegal else loopLen fetch k (n + 1)) else .ok .nop (2 * n + 2)

def Thread.setLoop (t : Thread) (lvl : BitVec 1) (c ls le : W64) : Thread :=
  if lvl = 0#1 then { t with lc0 := c, ls0 := ls, le0 := le } else { t with lc1 := c, ls1 := ls, le1 := le }

def doLoop (lvl : BitVec 1) (rc : Reg) (off : W64) (s : State) : M State := do
  let le := s.target off
  ensure (decide (s.nextAddr.toNat ≤ le.toNat)) tIllegal s.pc0
  let cnt := lo32 (s.reg rc)
  if cnt = 0 then
    match loopLen (fun n => s.fetchWord s.me (le + BitVec.ofNat 64 (2 * n))) 5 0 with
    | .ok _ len => .ok ((s.modMe fun t => t.setLoop lvl 0#64 s.nextAddr le).jump (le + BitVec.ofNat 64 len))
    | .fetchFault n => trap tFetch (le + BitVec.ofNat 64 (2 * n))
    | .fetchWait n => hold (s.fetchWait s.me (le + BitVec.ofNat 64 (2 * n)))
    | _ => trap tIllegal s.pc0
  else .ok (s.modMe fun t => t.setLoop lvl (BitVec.ofNat 64 (cnt + cnt * 2 ^ 32)) s.nextAddr le).fall

def execLoop (lvl : BitVec 1) (rc : Reg) (off : W64) (s : State) : Out := finish s (doLoop lvl rc off s)

/-! ### Thread control -/

def execNop (s : State) : Out := .next s.fall

/-- SVC completes, then the service entry is taken (R168, R322); a handler may not use it (R237). -/
def execSvc (code : BitVec 5) (s : State) : Out :=
  if s.th.kind = .group then .next (s.takeTrap tSvc code.toNat s.pc0) else .next (s.takeTrap tOp 0 s.pc0)

def execTrap (code sub : Nat) (faddr : W64) (s : State) : Out := .next (s.takeTrap code sub faddr)

/-- TRET (R324): a privileged instruction, and no return without a trap; an odd return address raises InstructionAlignment (R143). -/
def execTret (s : State) : Out :=
  if !s.th.sup then .next (s.takeTrap tPriv 0 s.pc0)
  else if s.th.inTrap && s.th.tpc.getLsbD 0 then .next (s.takeTrap tIAlign 0 s.pc0)
  else match s.trapReturn with | some t => .next t | none => .next (s.takeTrap tOp 0 s.pc0)

/-- The threads a mask names. -/
def maskIdx (mask : W64) : List Nat := (List.range 64).filter fun i => nbit mask.toNat i

/-- Open every barrier of the group whose condition holds (R187, R188). -/
def Group.tryOpen (g : Group) : Group :=
  let g := if !g.barArr.isEmpty && g.live.all g.barArr.contains then { g with barRel := unionL g.barRel g.barArr, barArr := [] } else g
  g.barps.foldl (fun g x =>
    if (maskIdx x.2.mask).all fun i => x.2.arrived.contains i || !g.live.contains i then
      { g with barps := adel g.barps x.1, barpRel := g.barpRel ++ x.2.arrived.map fun i => (x.1, i) }
    else g) g

/-- EXIT (R167): the thread ends, and with its last thread the group (R31). -/
def doExit (s : State) : M State := do
  ensure (s.th.kind == .group) tOp s.pc0
  if s.th.loads + s.th.updates + s.th.copies + s.th.tiles ≠ 0 then hold s
  else
    let gid := s.myGrp
    let ix := s.th.tidx
    let s := s.modMe fun t => { t with live := false, ph := Phase.zero, wait := .no }
    let s := s.modGrp gid fun g => ({ g with live := g.live.filter (· != ix) }).tryOpen
    match s.grp gid with
    | some g => .ok (if g.live.isEmpty then s.endGroup gid false true else s)
    | none => .ok s

def execExit (s : State) : Out := finish s (doExit s)

def doSetvl (rs : Reg) (s : State) : M State := do
  let v := (s.reg rs).toNat
  ensure (decide (1 ≤ v) && decide (v ≤ 4096)) tOp s.pc0
  .ok (s.modMe fun t => { t with vl := BitVec.ofNat 13 v }).fall

def execSetvl (rs : Reg) (s : State) : Out := finish s (doSetvl rs s)

/-- RDSTAT waits for the counters in deterministic mode (R172). -/
def execRdstat (rd : Reg) (s : State) : Out :=
  if s.th.det && s.th.loads + s.th.updates + s.th.copies + s.th.tiles != 0 then .next s
  else .next (s.setReg rd (s.th.stat s.me.ctx)).fall

def execWrstat (rs : Reg) (s : State) : Out := .next (s.modMe fun t => { t with flags := (s.reg rs).truncate 9 }).fall

/-- A special register (R173). -/
def Thread.special (t : Thread) : SReg → W64
  | .vl => t.vl.zeroExtend 64 | .lc0 => t.lc0 | .ls0 => t.ls0 | .le0 => t.le0 | .lc1 => t.lc1 | .ls1 => t.ls1 | .le1 => t.le1

def Thread.setSpecial (t : Thread) (sr : SReg) (v : W64) : Thread :=
  match sr with
  | .vl => t
  | .lc0 => { t with lc0 := v } | .ls0 => { t with ls0 := v } | .le0 => { t with le0 := v }
  | .lc1 => { t with lc1 := v } | .ls1 => { t with ls1 := v } | .le1 => { t with le1 := v }

def SRegIsAddr : SReg → Bool | .ls0 => true | .le0 => true | .ls1 => true | .le1 => true | _ => false

def execMovfs (rd : Reg) (sr : SReg) (s : State) : Out := .next (s.setReg rd (s.th.special sr)).fall

/-- MOVTS (R173): vl is not writable this way, and an odd loop address raises IllegalOperation. -/
def doMovts (sr : SReg) (rs : Reg) (s : State) : M State := do
  ensure (sr != .vl) tIllegal s.pc0
  ensure (!(SRegIsAddr sr && (s.reg rs).getLsbD 0)) tOp s.pc0
  .ok (s.modMe fun t => t.setSpecial sr (s.reg rs)).fall

def execMovts (sr : SReg) (rs : Reg) (s : State) : Out := finish s (doMovts sr rs s)

end Sys2Proof.Machine
end

