-- ==== Sys2Proof/Machine/Tables.lean ====
section
/-!
DEFINITION. Tables.lean: the samples F of the frozen transcendentals (R79): Floor(2^26 · f(z) + 1/2) at the ends and middles of the
segments, in rising z. Segment i takes the samples 2i, 2i + 1 and 2i + 2. The check codes of R81 are tested in Tests/Slice0.lean.
-/
namespace Sys2Proof.Machine

def exp2Samples0 : List Nat := [
  67108864, 67290815, 67473258, 67656197, 67839632, 68023564, 68207994, 68392925, 68578357, 68764292, 68950730, 69137675,
  69325126, 69513086, 69701555, 69890535, 70080027, 70270033, 70460555, 70651593, 70843149, 71035224, 71227820, 71420938,
  71614580, 71808747, 72003440, 72198661, 72394412, 72590693, 72787506, 72984853, 73182735, 73381154, 73580110, 73779606,
  73979643, 74180222, 74381345, 74583013, 74785228, 74987992, 75191305, 75395169, 75599586, 75804557, 76010084, 76216169,
  76422812, 76630015, 76837780, 77046108]
def exp2Samples1 : List Nat := [
  77255001, 77464461, 77674488, 77885085, 78096253, 78307994, 78520308, 78733198, 78946666, 79160712, 79375338, 79590547,
  79806339, 80022715, 80239679, 80457231, 80675373, 80894106, 81113432, 81333353, 81553870, 81774985, 81996699, 82219015,
  82441933, 82665456, 82889585, 83114321, 83339667, 83565624, 83792193, 84019377, 84247176, 84475594, 84704630, 84934288,
  85164568, 85395473, 85627003, 85859162, 86091949, 86325368, 86559420, 86794107, 87029429, 87265390, 87501990, 87739232,
  87977118, 88215648, 88454825, 88694650]
def exp2Samples2 : List Nat := [
  88935126, 89176253, 89418035, 89660471, 89903566, 90147319, 90391733, 90636810, 90882551, 91128959, 91376035, 91623780,
  91872197, 92121288, 92371054, 92621498, 92872620, 93124423, 93376909, 93630080, 93883937, 94138482, 94393717, 94649644,
  94906266, 95163583, 95421597, 95680311, 95939727, 96199846, 96460670, 96722202, 96984442, 97247394, 97511058, 97775437,
  98040534, 98306348, 98572884, 98840142, 99108125, 99376834, 99646272, 99916441, 100187342, 100458977, 100731349, 101004459,
  101278310, 101552904, 101828242, 102104326]
def exp2Samples3 : List Nat := [
  102381159, 102658742, 102937078, 103216169, 103496017, 103776623, 104057990, 104340120, 104623014, 104906676, 105191107,
  105476309, 105762284, 106049035, 106336563, 106624871, 106913960, 107203833, 107494492, 107785939, 108078177, 108371206,
  108665030, 108959651, 109255071, 109551291, 109848315, 110146144, 110444781, 110744227, 111044485, 111345557, 111647445,
  111950152, 112253680, 112558031, 112863206, 113169210, 113476042, 113783707, 114092206, 114401541, 114711715, 115022730,
  115334589, 115647293, 115960844, 116275246, 116590500, 116906609, 117223575, 117541400]
def exp2Samples4 : List Nat := [
  117860087, 118179638, 118500056, 118821342, 119143500, 119466530, 119790437, 120115222, 120440887, 120767436, 121094869,
  121423191, 121752403, 122082507, 122413506, 122745403, 123078199, 123411898, 123746502, 124082012, 124418433, 124755766,
  125094013, 125433177, 125773261, 126114267, 126456197, 126799055, 127142842, 127487561, 127833215, 128179806, 128527337,
  128875810, 129225227, 129575593, 129926908, 130279175, 130632398, 130986578, 131341719, 131697822, 132054891, 132412929,
  132771936, 133131918, 133492875, 133854811, 134217728]
/-- EXP2 at k/256. -/
def exp2Samples : List Nat := exp2Samples0 ++ exp2Samples1 ++ exp2Samples2 ++ exp2Samples3 ++ exp2Samples4

def log2Samples0 : List Nat := [
  0, 377457, 753448, 1127985, 1501079, 1872740, 2242980, 2611809, 2979239, 3345280, 3709941, 4073235, 4435170, 4795758,
  5155007, 5512929, 5869532, 6224826, 6578822, 6931527, 7282953, 7633108, 7982000, 8329640, 8676036, 9021198, 9365133,
  9707850, 10049359, 10389667, 10728784, 11066717, 11403474, 11739064, 12073495, 12406774, 12738911, 13069911, 13399784,
  13728537, 14056177, 14382713, 14708150, 15032498, 15355762, 15677951, 15999071, 16319130, 16638134, 16956090, 17273006,
  17588887]
def log2Samples1 : List Nat := [
  17903742, 18217575, 18530395, 18842207, 19153019, 19462835, 19771664, 20079510, 20386381, 20692282, 20997220, 21301200,
  21604229, 21906312, 22207456, 22507666, 22806948, 23105307, 23402750, 23699282, 23994909, 24289635, 24583468, 24876411,
  25168470, 25459651, 25749959, 26039399, 26327977, 26615696, 26902564, 27188583, 27473761, 27758100, 28041608, 28324287,
  28606143, 28887182, 29167407, 29446823, 29725435, 30003247, 30280265, 30556493, 30831934, 31106594, 31380477, 31653588,
  31925930, 32197508, 32468327, 32738390]
def log2Samples2 : List Nat := [
  33007703, 33276268, 33544090, 33811173, 34077521, 34343139, 34608030, 34872199, 35135648, 35398383, 35660406, 35921722,
  36182335, 36442249, 36701466, 36959991, 37217828, 37474980, 37731450, 37987243, 38242363, 38496811, 38750593, 39003711,
  39256169, 39507970, 39759119, 40009617, 40259469, 40508678, 40757247, 41005180, 41252479, 41499149, 41745191, 41990610,
  42235408, 42479589, 42723155, 42966110, 43208457, 43450199, 43691339, 43931880, 44171825, 44411176, 44649938, 44888111,
  45125701, 45362709, 45599138, 45834991]
def log2Samples3 : List Nat := [
  46070271, 46304980, 46539122, 46772699, 47005714, 47238169, 47470068, 47701412, 47932205, 48162449, 48392147, 48621302,
  48849915, 49077989, 49305528, 49532533, 49759007, 49984953, 50210372, 50435268, 50659643, 50883499, 51106838, 51329664,
  51551977, 51773782, 51995079, 52215872, 52436163, 52655953, 52875246, 53094043, 53312346, 53530159, 53747482, 53964319,
  54180672, 54396542, 54611931, 54826843, 55041278, 55255240, 55468730, 55681750, 55894303, 56106390, 56318013, 56529175,
  56739877, 56950121, 57159911, 57369246]
def log2Samples4 : List Nat := [
  57578130, 57786564, 57994550, 58202091, 58409188, 58615842, 58822057, 59027833, 59233172, 59438077, 59642550, 59846591,
  60050204, 60253389, 60456148, 60658484, 60860398, 61061891, 61262966, 61463625, 61663868, 61863698, 62063117, 62262125,
  62460725, 62658919, 62856708, 63054094, 63251078, 63447662, 63643848, 63839637, 64035030, 64230031, 64424639, 64618857,
  64812686, 65006128, 65199184, 65391856, 65584145, 65776054, 65967582, 66158732, 66349506, 66539905, 66729930, 66919582,
  67108864]
/-- LOG2 at 1 + k/256. -/
def log2Samples : List Nat := log2Samples0 ++ log2Samples1 ++ log2Samples2 ++ log2Samples3 ++ log2Samples4

def rcpSamples0 : List Nat := [
  67108864, 66847740, 66588640, 66331541, 66076420, 65823254, 65572020, 65322697, 65075262, 64829695, 64585974, 64344079,
  64103989, 63865685, 63629145, 63394351, 63161284, 62929924, 62700252, 62472252, 62245903, 62021188, 61798091, 61576592,
  61356676, 61138324, 60921522, 60706252, 60492497, 60280243, 60069473, 59860171, 59652324, 59445914, 59240928, 59037351,
  58835168, 58634366, 58434929, 58236845, 58040099, 57844677, 57650568, 57457756, 57266231, 57075977, 56886984, 56699238,
  56512728, 56327440, 56143363, 55960486]
def rcpSamples1 : List Nat := [
  55778796, 55598282, 55418933, 55240737, 55063683, 54887761, 54712959, 54539267, 54366675, 54195171, 54024746, 53855389,
  53687091, 53519842, 53353631, 53188449, 53024288, 52861136, 52698985, 52537826, 52377650, 52218447, 52060210, 51902928,
  51746594, 51591199, 51436734, 51283192, 51130563, 50978840, 50828015, 50678080, 50529027, 50380848, 50233536, 50087082,
  49941480, 49796722, 49652801, 49509709, 49367440, 49225986, 49085341, 48945496, 48806447, 48668185, 48530704, 48393998,
  48258060, 48122883, 47988461, 47854789]
def rcpSamples2 : List Nat := [
  47721859, 47589665, 47458202, 47327463, 47197443, 47068135, 46939533, 46811633, 46684427, 46557911, 46432079, 46306925,
  46182444, 46058631, 45935479, 45812984, 45691141, 45569945, 45449389, 45329470, 45210182, 45091520, 44973480, 44856055,
  44739243, 44623037, 44507433, 44392427, 44278013, 44164188, 44050947, 43938284, 43826197, 43714680, 43603729, 43493340,
  43383508, 43274230, 43165500, 43057316, 42949673, 42842567, 42735993, 42629948, 42524429, 42419430, 42314949, 42210981,
  42107523, 42004570, 41902120, 41800168]
def rcpSamples3 : List Nat := [
  41698712, 41597746, 41497269, 41397275, 41297762, 41198727, 41100166, 41002074, 40904450, 40807290, 40710590, 40614348,
  40518559, 40423222, 40328331, 40233886, 40139881, 40046315, 39953184, 39860485, 39768216, 39676372, 39584952, 39493952,
  39403370, 39313202, 39223446, 39134098, 39045157, 38956619, 38868482, 38780743, 38693399, 38606448, 38519886, 38433712,
  38347922, 38262515, 38177487, 38092836, 38008560, 37924656, 37841122, 37757954, 37675152, 37592712, 37510631, 37428909,
  37347542, 37266528, 37185864, 37105549]
def rcpSamples4 : List Nat := [
  37025580, 36945955, 36866672, 36787728, 36709122, 36630851, 36552913, 36475306, 36398028, 36321076, 36244450, 36168146,
  36092162, 36016497, 35941149, 35866115, 35791394, 35716984, 35642882, 35569087, 35495597, 35422411, 35349525, 35276939,
  35204650, 35132657, 35060958, 34989550, 34918433, 34847605, 34777063, 34706806, 34636833, 34567141, 34497729, 34428596,
  34359738, 34291156, 34222847, 34154810, 34087042, 34019543, 33952311, 33885344, 33818640, 33752199, 33686018, 33620096,
  33554432]
/-- RCP at 1 + k/256. -/
def rcpSamples : List Nat := rcpSamples0 ++ rcpSamples1 ++ rcpSamples2 ++ rcpSamples3 ++ rcpSamples4

def rsqrtSamples0 : List Nat := [
  67108864, 66848246, 66590641, 66335991, 66084241, 65835335, 65589221, 65345846, 65105161, 64867116, 64631663, 64398755,
  64168347, 63940395, 63714855, 63491685, 63270844, 63052291, 62835987, 62621895, 62409976, 62200194, 61992513, 61786899,
  61583317, 61381735, 61182119, 60984438, 60788660, 60594757, 60402697, 60212452, 60023993, 59837292, 59652324, 59469059,
  59287474, 59107542, 58929238, 58752539, 58577419, 58403856, 58231826, 58061308, 57892279, 57724718, 57558603, 57393915,
  57230632, 57068734, 56908203, 56749019]
def rsqrtSamples1 : List Nat := [
  56591163, 56434617, 56279364, 56125384, 55972662, 55821179, 55670920, 55521868, 55374007, 55227320, 55081793, 54937411,
  54794158, 54652020, 54510982, 54371031, 54232152, 54094332, 53957557, 53821814, 53687091, 53553375, 53420652, 53288912,
  53158141, 53028329, 52899463, 52771532, 52644524, 52518429, 52393236, 52268934, 52145513, 52022961, 51901270, 51780429,
  51660428, 51541257, 51422907, 51305369, 51188633, 51072690, 50957532, 50843149, 50729533, 50616675, 50504567, 50393201,
  50282568, 50172660, 50063471, 49954991]
def rsqrtSamples2 : List Nat := [
  49847213, 49740129, 49633733, 49528017, 49422973, 49318595, 49214876, 49111808, 49009385, 48907600, 48806447, 48705918,
  48606009, 48506711, 48408020, 48309929, 48212431, 48115522, 48019194, 47923443, 47828262, 47733646, 47639590, 47546087,
  47453133, 47268848, 47086694, 46906629, 46728615, 46552612, 46378583, 46206491, 46036301, 45867977, 45701487, 45536796,
  45373874, 45212687, 45053206, 44895401, 44739243, 44584703, 44431753, 44280367, 44130517, 43982179, 43835326, 43689935,
  43545981, 43403441, 43262291, 43122509]
def rsqrtSamples3 : List Nat := [
  42984074, 42846963, 42711156, 42576633, 42443372, 42311355, 42180562, 42050975, 41922575, 41795344, 41669264, 41544318,
  41420490, 41297762, 41176119, 41055545, 40936023, 40817540, 40700079, 40583626, 40468168, 40353689, 40240176, 40127616,
  40015995, 39905301, 39795520, 39686640, 39578649, 39471534, 39365285, 39259889, 39155336, 39051613, 38948710, 38846616,
  38745321, 38644814, 38545085, 38446125, 38347922, 38250469, 38153754, 38057770, 37962506, 37867954, 37774106, 37680951,
  37588482, 37496691, 37405569, 37315108]
def rsqrtSamples4 : List Nat := [
  37225300, 37136138, 37047613, 36959718, 36872446, 36785789, 36699740, 36614292, 36529439, 36445172, 36361486, 36278374,
  36195830, 36113846, 36032416, 35951535, 35871197, 35791394, 35712122, 35633374, 35555145, 35477428, 35400220, 35323513,
  35247302, 35171583, 35096349, 35021597, 34947320, 34873513, 34800172, 34727292, 34654868, 34582896, 34511369, 34440285,
  34369638, 34299424, 34229639, 34160278, 34091337, 34022812, 33954698, 33886991, 33819689, 33752785, 33686277, 33620161,
  33554432]
/-- RSQRT at 1 + k/128 for k below 128, then at 2 + (k − 128)/64. -/
def rsqrtSamples : List Nat := rsqrtSamples0 ++ rsqrtSamples1 ++ rsqrtSamples2 ++ rsqrtSamples3 ++ rsqrtSamples4

def sin2piSamples0 : List Nat := [
  0, 411772, 823529, 1235255, 1646934, 2058551, 2470091, 2881538, 3292876, 3704090, 4115165, 4526085, 4936834, 5347398,
  5757760, 6167906, 6577819, 6987485, 7396887, 7806011, 8214841, 8623362, 9031558, 9439415, 9846915, 10254046, 10660790,
  11067132, 11473058, 11878552, 12283599, 12688183, 13092290, 13495904, 13899009, 14301591, 14703635, 15105126, 15506047,
  15906385, 16306124, 16705249, 17103745, 17501597, 17898790, 18295309, 18691140, 19086267, 19480675, 19874350, 20267276,
  20659440]
def sin2piSamples1 : List Nat := [
  21050825, 21441418, 21831204, 22220168, 22608295, 22995571, 23381982, 23767512, 24152147, 24535873, 24918675, 25300539,
  25681450, 26061395, 26440358, 26818326, 27195284, 27571218, 27946115, 28319959, 28692737, 29064434, 29435038, 29804533,
  30172906, 30540143, 30906230, 31271153, 31634900, 31997455, 32358805, 32718937, 33077838, 33435493, 33791889, 34147013,
  34500851, 34853391, 35204618, 35554519, 35903083, 36250294, 36596140, 36940609, 37283687, 37625361, 37965619, 38304447,
  38641834, 38977765, 39312229, 39645212]
def sin2piSamples2 : List Nat := [
  39976704, 40306690, 40635158, 40962097, 41287493, 41611335, 41933610, 42254307, 42573413, 42890915, 43206803, 43521065,
  43833687, 44144660, 44453970, 44761607, 45067559, 45371813, 45674360, 45975187, 46274283, 46571636, 46867237, 47161073,
  47453133, 47743406, 48031883, 48318550, 48603399, 48886418, 49167596, 49446923, 49724388, 49999982, 50273692, 50545510,
  50815425, 51083427, 51349506, 51613651, 51875853, 52136102, 52394388, 52650702, 52905033, 53157373, 53407711, 53656038,
  53902345, 54146623, 54388862, 54629053]
def sin2piSamples3 : List Nat := [
  54867188, 55103257, 55337251, 55569162, 55798981, 56026699, 56252308, 56475799, 56697163, 56916393, 57133480, 57348416,
  57561193, 57771802, 57980237, 58186489, 58390550, 58592412, 58792069, 58989512, 59184734, 59377728, 59568487, 59757002,
  59943268, 60127277, 60309022, 60488497, 60665695, 60840608, 61013231, 61183556, 61351578, 61517290, 61680686, 61841760,
  62000506, 62156917, 62310988, 62462713, 62612087, 62759103, 62903756, 63046041, 63185953, 63323485, 63458633, 63591393,
  63721758, 63849723, 63975285, 64098439]
def sin2piSamples4 : List Nat := [
  64219179, 64337501, 64453401, 64566874, 64677917, 64786524, 64892692, 64996418, 65097695, 65196522, 65292895, 65386809,
  65478262, 65567249, 65653767, 65737814, 65819386, 65898480, 65975092, 66049221, 66120863, 66190016, 66256677, 66320843,
  66382512, 66441682, 66498350, 66552515, 66604174, 66653326, 66699968, 66744099, 66785716, 66824820, 66861408, 66895478,
  66927030, 66956062, 66982573, 67006562, 67028028, 67046971, 67063390, 67077284, 67088652, 67097495, 67103811, 67107601,
  67108864]
/-- sin(πz/2) at k/256. -/
def sin2piSamples : List Nat := sin2piSamples0 ++ sin2piSamples1 ++ sin2piSamples2 ++ sin2piSamples3 ++ sin2piSamples4

def tanhSamples0 : List Nat := [
  0, 2096470, 4188851, 6273089, 8345189, 10401252, 12437501, 14450306, 16436213, 18391962, 20314506, 22201029, 24048958,
  25855969, 27619999, 29339243, 31012157, 32637458, 34214110, 35741328, 37218557, 38645471, 40021952, 41348081, 42624125,
  43850515, 45027838, 46156819, 47238305, 48273251, 49262706, 50207797, 51109719, 51969721, 52789095, 53569164, 54311275,
  55016787, 55687064, 56323467, 56927351, 57500056, 58042901, 58557182, 59044170, 59505104, 59941190, 60353601, 60743471,
  61111899, 61459945, 61788629]
def tanhSamples1 : List Nat := [
  62098934, 62391803, 62668139, 62928810, 63174643, 63406430, 63624926, 63830852, 64024894, 64207703, 64379902, 64542079,
  64694796, 64838583, 64973944, 65101358, 65221276, 65334127, 65440316, 65540227, 65634222, 65722643, 65805814, 65884042,
  65957613, 66026802, 66091864, 66153042, 66210565, 66264648, 66315494, 66363295, 66408231, 66450472, 66490178, 66527500,
  66562579, 66595550, 66626539, 66655663, 66683034, 66708757, 66732930, 66755647, 66776994, 66797054, 66815905, 66833618,
  66850262, 66865902, 66880597, 66894405]
def tanhSamples2 : List Nat := [
  66907379, 66919569, 66931023, 66941784, 66951895, 66961395, 66970320, 66978706, 66986585, 66993987, 67000941, 67007475,
  67013614, 67019381, 67024799, 67029889, 67034671, 67039164, 67043385, 67047350, 67051076, 67054575, 67057863, 67060952,
  67063854, 67066580, 67069141, 67071547, 67073808, 67075931, 67077926, 67079800, 67081560, 67083214, 67084768, 67086228,
  67087599, 67088887, 67090097, 67091234, 67092302, 67093306, 67094248, 67095134, 67095965, 67096747, 67097481, 67098170,
  67098818, 67099427, 67099999, 67100536]
def tanhSamples3 : List Nat := [
  67101040, 67101514, 67101960, 67102378, 67102771, 67103140, 67103487, 67103813, 67104119, 67104406, 67104676, 67104930,
  67105168, 67105392, 67105602, 67105800, 67105986, 67106160, 67106324, 67106478, 67106622, 67106758, 67106886, 67107006,
  67107118, 67107224, 67107323, 67107417, 67107504, 67107587, 67107664, 67107737, 67107805, 67107869, 67107930, 67107986,
  67108039, 67108089, 67108136, 67108180, 67108222, 67108261, 67108297, 67108332, 67108364, 67108394, 67108423, 67108449,
  67108474, 67108498, 67108520, 67108541]
def tanhSamples4 : List Nat := [
  67108561, 67108579, 67108596, 67108612, 67108628, 67108642, 67108655, 67108668, 67108680, 67108691, 67108702, 67108711,
  67108721, 67108729, 67108738, 67108745, 67108752, 67108759, 67108766, 67108771, 67108777, 67108782, 67108787, 67108792,
  67108796, 67108800, 67108804, 67108808, 67108811, 67108814, 67108817, 67108820, 67108823, 67108825, 67108828, 67108830,
  67108832, 67108834, 67108836, 67108837, 67108839, 67108841, 67108842, 67108843, 67108845, 67108846, 67108847, 67108848,
  67108849]
/-- TANH at k/32. -/
def tanhSamples : List Nat := tanhSamples0 ++ tanhSamples1 ++ tanhSamples2 ++ tanhSamples3 ++ tanhSamples4

/-- c0, c1 and c2 of segment i (R79). -/
def segCoef (t : List Nat) (i : Nat) : Int × Int × Int :=
  let f0 : Int := (t.getD (2 * i) 0 : Nat)
  let f1 : Int := (t.getD (2 * i + 1) 0 : Nat)
  let f2 : Int := (t.getD (2 * i + 2) 0 : Nat)
  (f0, -3 * f0 + 4 * f1 - f2, 2 * (f0 - 2 * f1 + f2))

/-- y of segment i at position T (R79); division by a power of two floors. -/
def segEval (t : List Nat) (i pos : Nat) : Int :=
  let (c0, c1, c2) := segCoef t i
  let u := c2 * (pos : Int) / 65536
  let v := (c1 + u) * (pos : Int) / 65536
  c0 + v

end Sys2Proof.Machine
end

