-- ==== Sys2Proof/Machine/Convert.lean ====
section
/-!
DEFINITION. Convert.lean: conversions of one element (R73, R218) and the frozen transcendentals (R79, R80).
-/
namespace Sys2Proof.Machine
open Sys2Proof

/-! ### Transcendentals -/

/-- The six functions. -/
inductive TFn where | exp2 | log2 | rcp | rsqrt | sin2pi | tanh
  deriving DecidableEq, Repr

/-- Floor((±m · 2^e) · 2^k). -/
def floorAt (neg : Bool) (m : Nat) (e : Int) (k : Nat) : Int :=
  let v : Int := if neg then -(m : Int) else (m : Int)
  let sh : Int := e + (k : Int)
  if 0 ≤ sh then v * ((2 ^ sh.toNat : Nat) : Int) else v / ((2 ^ (-sh).toNat : Nat) : Int)

/-- A signed integer times 2^k. -/
def Num.ofScaled (v : Int) (k : Int) : Num := .fin (decide (v < 0)) v.natAbs k

/-- A result of R80: a special code with its flags, or an exact value still to be rounded. -/
inductive TRes where
  | code (inf neg : Bool) (fl : Flags)
  | nan (fl : Flags)
  | val (x : Num)
  deriving DecidableEq, Repr

/-- The exponent and the 23 fraction bits of ±m · 2^e (R80). -/
def normExp (m : Nat) (e : Int) : Int := e + (Nat.log2 m : Int)
def normFrac (m : Nat) : Nat := m * 2 ^ (23 - Nat.log2 m) % 2 ^ 23

/-- One function of a finite nonzero operand (R80). -/
def transFin (fn : TFn) (neg : Bool) (m : Nat) (e : Int) : TRes :=
  let ex := normExp m e
  let fr := normFrac m
  match fn with
  | .exp2 =>
    if !neg && decide (128 ≤ floorAt neg m e 0) then .code true false (Flags.OF ||| Flags.NX)
    else if neg && decide (200 ≤ floorAt false m e 0) then .code false false (Flags.UF ||| Flags.NX)
    else
      let g := floorAt neg m e 23
      let n := g / 8388608
      let f := (g % 8388608).toNat
      .val (Num.ofScaled (segEval exp2Samples (f / 65536) (f % 65536)) (n - 26))
  | .log2 =>
    if neg then .nan Flags.NV
    else .val (Num.ofScaled (ex * 67108864 + segEval log2Samples (fr / 65536) (fr % 65536)) (-26))
  | .rcp =>
    let y := segEval rcpSamples (fr / 65536) (fr % 65536)
    .val (.fin (neg != decide (y < 0)) y.natAbs (-26 - ex))
  | .rsqrt =>
    if neg then .nan Flags.NV
    else
      let i := (if ex % 2 = 0 then 0 else 64) + fr / 131072
      .val (Num.ofScaled (segEval rsqrtSamples i (fr / 2 % 65536)) (-26 - ex / 2))
  | .sin2pi =>
    let w := (floorAt neg m e 25 % 33554432).toNat
    let q := w / 8388608
    let g := if q % 2 = 1 then 8388608 - w % 8388608 else w % 8388608
    let y : Int := if g = 8388608 then 67108864 else segEval sin2piSamples (g / 65536) (g % 65536)
    if y = 0 then .code false false Flags.no else .val (Num.ofScaled (if 2 ≤ q then -y else y) (-26))
  | .tanh =>
    if 8 ≤ floorAt false m e 0 then .val (.fin neg 1 0)
    else if floorAt false m e 12 = 0 then .val (.fin neg m e)
    else
      let a := (floorAt false m e 20).toNat
      let y := segEval tanhSamples (a / 65536) (a % 65536)
      .val (.fin (neg != decide (y < 0)) y.natAbs (-26))

/-- One function of any operand. -/
def transNum (fn : TFn) (x : Num) : TRes :=
  match x with
  | .nan s => .nan (Flags.when s Flags.NV)
  | .inf neg =>
    match fn with
    | .exp2 => if neg then .code false false Flags.no else .code true false Flags.no
    | .log2 => if neg then .nan Flags.NV else .code true false Flags.no
    | .rcp => .code false neg Flags.no
    | .rsqrt => if neg then .nan Flags.NV else .code false false Flags.no
    | .sin2pi => .nan Flags.NV
    | .tanh => .val (.fin neg 1 0)
  | .fin neg m e =>
    if m = 0 then
      match fn with
      | .exp2 => .val (.fin false 1 0)
      | .log2 => .code true true Flags.DZ
      | .rcp => .code true neg Flags.DZ
      | .rsqrt => .code true neg Flags.DZ
      | .sin2pi => .code false false Flags.no
      | .tanh => .code false neg Flags.no
    else transFin fn neg m e

/-- One element: the code and the flags (R79). -/
def elTrans (fn : TFn) (f : EFmt) (ftz : Bool) (code : Nat) : Nat × Flags :=
  match transNum fn (elemValue f ftz code) with
  | .code inf neg fl => ((if inf then f.ff.infCode else 0) + (if neg then f.ff.signBit else 0), fl)
  | .nan fl => (f.ff.nanCode, fl)
  | .val x => f.ff.round .rne (ftz && f.ftzOn) x

/-! ### Conversions (R73, R218) -/

/-- An element converted between two formats other than Q4X. The conversion of an FE4 code never sets NV (R73). -/
def elCvt (src dst : EFmt) (r : Rnd) (ftz : Bool) (code : Nat) : Nat × Flags :=
  let x := elemValue src ftz code
  let (c, fl) := cvtTo dst r ftz x
  (c, if src == .fe4 && x.isNan then Flags.no else fl)

/-- A converted code in its register: integers sign-extended, floats zero-extended. -/
def extendTo (dst : EFmt) (code : Nat) : W64 := if dst.isInt then sext64 (EFmtBits dst) code else BitVec.ofNat 64 code

/-- Write a result with its flags and complete. -/
def cvtDone (rd : Reg) (v : W64) (fl : Flags) (s : State) : State := ((s.orFlags fl).setReg rd v).fall

/-- The code of the low bytes of a register in a format. -/
def lowCode (f : EFmt) (v : W64) : Nat := v.toNat % 2 ^ EFmtBits f

def doCvt (src dst : EFmt) (r : Rnd) (rd rs : Reg) (s : State) : M State := do
  ensure (src != dst && src != .q4x && dst != .q4x) tIllegal s.pc0
  let (c, fl) := elCvt src dst r s.th.ftz (lowCode src (s.reg rs))
  .ok (cvtDone rd (extendTo dst c) fl s)

def execCvt (src dst : EFmt) (r : Rnd) (rd rs : Reg) (s : State) : Out := finish s (doCvt src dst r rd rs s)

def doCvtToF64 (src : EFmt) (r : Rnd) (rd rs : Reg) (s : State) : M State := do
  ensure (src != .q4x) tIllegal s.pc0
  let (c, fl) := ff64.round r false (elemValue src s.th.ftz (lowCode src (s.reg rs)))
  .ok (cvtDone rd (BitVec.ofNat 64 c) fl s)

def execCvtToF64 (src : EFmt) (r : Rnd) (rd rs : Reg) (s : State) : Out := finish s (doCvtToF64 src r rd rs s)

def doCvtFromF64 (dst : EFmt) (r : Rnd) (rd rs : Reg) (s : State) : M State := do
  ensure (dst != .q4x) tIllegal s.pc0
  let (c, fl) := cvtTo dst r s.th.ftz (ff64.value (s.reg rs).toNat)
  .ok (cvtDone rd (extendTo dst c) fl s)

def execCvtFromF64 (dst : EFmt) (r : Rnd) (rd rs : Reg) (s : State) : Out := finish s (doCvtFromF64 dst r rd rs s)

end Sys2Proof.Machine
end

