-- ==== Sys2Proof/Machine/Memory.lean ====
section
/-!
DEFINITION. Memory.lean: loads, keyed updates and returning atomics (R175 to R181), on cluster threads and Reed cores (R268), and
the completion of LD.nb (R178).
-/
namespace Sys2Proof.Machine
open Sys2Proof

/-- A loaded value in its register (R177). -/
def loadResult (signed : Bool) (n v : Nat) : W64 := if signed then sext64 (8 * n) v else BitVec.ofNat 64 (v % 2 ^ (8 * n))

/-- The sender of a Reed task's message consumes poison (R364). A message of a queue or of a peer has no sender here (log 46). -/
def State.senderConsume (s : State) (m : Msg) (pa : Nat) : State :=
  match m.ti with | some ti => if (s.thr ti).uid = m.uid then s.consume ti pa else s | none => s
/-- A Reed task consumes poison (R364): the sender's group is contained, and the task ends. -/
def State.reedConsume (s : State) (q pa : Nat) : State :=
  match (s.reed q).task with
  | some m => (s.senderConsume m pa).reedTrap q 0 0#64
  | none => s

/-- A Reed core's read of n bytes at DRAM byte `lin`: the barn state (R268). -/
def State.reedRead (s : State) (q lin n : Nat) : M Nat :=
  if s.isPoison lin then hold (s.reedConsume q (bankBase + lin)) else .ok (s.dramRead lin n)

/-- A request to a peer and its answer (R123, R125): the thread waits between. `ordered`: it is a load with an order suffix (R128). -/
def State.askPeer (s : State) (dev : Nat) (r : PeerReq) (ordered : Bool) : M (List W64 × State) :=
  match s.th.ph.ans with
  | some ws => .ok (ws, s.setPhase { s.th.ph with ans := none })
  | none => hold ((s.toStream s.me dev r true).waitMe (.peer s.fresh (if r.parks then .parks else if ordered then .ordered else .stays)))

/-- Does the thread still have updates in a root complex's stream (R371)? -/
def State.hostBusy (s : State) (ti : SlotId) (rc : Nat) : Bool := (aget [] s.hostq rc).any fun u => u.owner.uid == (s.thr ti).uid

/-- FenLoad(va, n) for the issuing thread (R156, R177): device memory folds, host memory and peers answer, a held key parks. A peer that finds
the key unpopulated answers no word: the load completes with 0 (DESIGN CHOICE, log 60). `ordered`: the load has an order suffix. -/
def State.fenLoad (s : State) (va : W64) (n : Nat) (ordered : Bool) : M (Nat × State) := do
  let (k, s) ← s.keyAt va n .read subLoad
  if s.busyWords s.me [wordOf k.pa] then hold s
  else match k.cls with
  | .dram _ =>
    match s.loadKey (pathOf s.me) k.pa n true with
    | .ok v s' => .ok (v, s')
    | .held => hold s.keepLen
    | .poison => hold (s.consume s.me k.pa)
  | .host rc a => if s.hostBusy s.me rc then hold s else .ok (s.hostRead a n, s)
  | .peer v o => do
    let (ws, s) ← s.askPeer v (.load o (Width.ofCode (Nat.log2 n))) ordered
    .ok ((ws.headD 0#64).toNat % 2 ^ (8 * n), s)
  | .steading o => .ok ((Config.steadingRead s.frees o).toNat % 2 ^ (8 * n), { s with frees := s.frees + 1 })
  | .none => trap tPhys va

/-- Issue of an LD.nb (R178). -/
def doLoadNb (signed : Bool) (wd : Width) (o : Ord) (rd : Reg) (va : W64) (s : State) : M State := do
  let (k, s) ← s.keyAt va wd.bytes .read subLoad
  if s.busyWords s.me [wordOf k.pa] then hold s
  else
    let acq := if o.ord.isAcq then some o.sc else none
    let (elems, s) := s.loadElemsAt s.me wd [(k.pa, 0)]
    let op : LoadOp := { id := s.fresh, ti := s.me, uid := s.th.uid, grp := s.myGrp, reg := some (s.th.place rd), signed := signed, width := wd, acq := acq, elems := elems }
    let s := { s with loads := s.loads ++ [op], fresh := s.fresh + 1 }
    .ok (s.modMe fun t => { t with loads := t.loads + 1, acqPend := t.acqPend + b2n acq.isSome }).fall

/-- LD and LD.s (R177, R268). -/
def doLoad (signed : Bool) (wd : Width) (sp nb : Bool) (o : Ord) (rd rs : Reg) (off : W64) (s : State) : M State := do
  let n := wd.bytes
  let ea := s.ea rs off n
  match s.cur.who with
  | .reed q =>
    ensure (!nb && !sp) tIllegal s.pc0
    let lin ← s.reedAt q ea n
    let v ← s.reedRead q lin n
    .ok ((s.class0 lin).setReg rd (loadResult signed n v)).fall
  | _ =>
    if sp then
      let a ← s.spAt ea n n
      if s.spPoisoned s.myGrp a n then hold (s.consume s.me sramPa)
      else .ok ((s.setReg rd (loadResult signed n (leNat (s.spRead s.myGrp a n)))).ordAcquire o).fall
    else if nb then doLoadNb signed wd o rd ea s
    else
      let (v, s) ← s.fenLoad ea n (o.ord != .none)
      .ok ((s.setReg rd (loadResult signed n v)).ordAcquire o).fall

def execLd (wd : Width) (sp nb : Bool) (o : Ord) (rd rs : Reg) (off : W64) (s : State) : Out := finish s (doLoad false wd sp nb o rd rs off s)
def execLdS (wd : Width) (sp nb : Bool) (o : Ord) (rd rs : Reg) (off : W64) (s : State) : Out := finish s (doLoad true wd sp nb o rd rs off s)

/-! ### Keyed updates (R179) -/

/-- An order suffix toward a peer's key acts at system scope (R125). -/
def ordForKey (o : Ord) (c : PClass) : Ord := match c, o.sc with | .peer _ _, .dev => { o with sc := .sys } | _, _ => o

/-- An update's value: the low bytes of the register. -/
def lowBytes (v : W64) (n : Nat) : W64 := BitVec.ofNat 64 (v.toNat % 2 ^ (8 * n))

/-- The entry a Reed core applies at its barn. -/
def reedEntry (lin : Nat) (op : KOp) (wd : Width) (bf : Bool) (v : W64) (clk : Nat) : Entry := mkEntry (bankBase + lin) op wd bf 0 0 v [] clk

/-- A keyed update by whoever issues (R179, R268). -/
def doUpdate (op : KOp) (wd : Width) (bf : Bool) (o : Ord) (rd : Reg) (ea : W64) (s : State) : M State := do
  let n := wd.bytes
  let v := lowBytes (s.reg rd) n
  match s.cur.who with
  | .reed q =>
    let lin ← s.reedAt q ea n
    match s.barnApply (reedEntry lin op wd bf v s.clk) with
    | .ok s' => .ok s'.fall
    | _ => trap tOp s.pc0
  | _ =>
    let (k, s) ← s.keyAt ea n .write subUpd
    ensure (match k.cls with | .steading _ => op == .replace | _ => true) tOp s.pc0
    ensure (!(op == .fadd64 && s.th.det)) tOp s.pc0
    if s.busyWords s.me [wordOf k.pa] then hold s
    else
      let s ← s.ordRelease (ordForKey o k.cls)
      match k.cls with
      | .dram _ => .ok (s.formUpdates s.me [(k.pa, .val v)] op wd bf).fall
      | .host rc a => .ok (s.toHost s.me rc a op wd bf v).fall
      | .peer d x => .ok (s.toStream s.me d (.update x op wd bf v) false).fall
      | _ => .ok s.fall

/-- ST to scratchpad (R118, R179). -/
def doStoreSp (wd : Width) (o : Ord) (rd : Reg) (ea : W64) (s : State) : M State := do
  let a ← s.spAt ea wd.bytes wd.bytes
  let s ← s.ordRelease o
  .ok (s.spWrite s.myGrp a (leBytes wd.bytes (s.reg rd).toNat)).fall

def execSt (wd : Width) (sp : Bool) (o : Ord) (rd rs : Reg) (off : W64) (s : State) : Out :=
  finish s (if sp then (match s.cur.who with | .reed _ => trap tIllegal s.pc0 | _ => doStoreSp wd o rd (s.ea rs off wd.bytes) s) else doUpdate .replace wd false o rd (s.ea rs off wd.bytes) s)
def execIadd (wd : Width) (o : Ord) (rd rs : Reg) (off : W64) (s : State) : Out := finish s (doUpdate .iadd wd false o rd (s.ea rs off wd.bytes) s)
def execSmin (wd : Width) (o : Ord) (rd rs : Reg) (off : W64) (s : State) : Out := finish s (doUpdate .smin wd false o rd (s.ea rs off wd.bytes) s)
def execSmax (wd : Width) (o : Ord) (rd rs : Reg) (off : W64) (s : State) : Out := finish s (doUpdate .smax wd false o rd (s.ea rs off wd.bytes) s)
def execUmin (wd : Width) (o : Ord) (rd rs : Reg) (off : W64) (s : State) : Out := finish s (doUpdate .umin wd false o rd (s.ea rs off wd.bytes) s)
def execUmax (wd : Width) (o : Ord) (rd rs : Reg) (off : W64) (s : State) : Out := finish s (doUpdate .umax wd false o rd (s.ea rs off wd.bytes) s)
def execAndUpdate (wd : Width) (o : Ord) (rd rs : Reg) (off : W64) (s : State) : Out := finish s (doUpdate .and wd false o rd (s.ea rs off wd.bytes) s)
def execOrUpdate (wd : Width) (o : Ord) (rd rs : Reg) (off : W64) (s : State) : Out := finish s (doUpdate .or wd false o rd (s.ea rs off wd.bytes) s)
def execXorUpdate (wd : Width) (o : Ord) (rd rs : Reg) (off : W64) (s : State) : Out := finish s (doUpdate .xor wd false o rd (s.ea rs off wd.bytes) s)
def execFsum (f : FFmt) (o : Ord) (rd rs : Reg) (off : W64) (s : State) : Out := finish s (doUpdate .fsum f.width (f == .bf16) o rd (s.ea rs off f.width.bytes) s)
def execFmin (f : FFmt) (o : Ord) (rd rs : Reg) (off : W64) (s : State) : Out := finish s (doUpdate .fmin f.width (f == .bf16) o rd (s.ea rs off f.width.bytes) s)
def execFmax (f : FFmt) (o : Ord) (rd rs : Reg) (off : W64) (s : State) : Out := finish s (doUpdate .fmax f.width (f == .bf16) o rd (s.ea rs off f.width.bytes) s)
def execFadd64 (o : Ord) (rd rs : Reg) (off : W64) (s : State) : Out := finish s (doUpdate .fadd64 .d false o rd (s.ea rs off 8) s)

/-! ### ATOM (R180) -/

/-- The thread's part at the barn: the entries on its path are pushed, then the operator acts; the old value. What R180 calls the record of an
operator fault is the trap's own registers: the spec names no fault record for a precise trap, so none is written, and the trap is code 3 with
SUB 0 (DESIGN CHOICE, log 30). -/
def State.atomBarn (s : State) (pa : Nat) (op : KOp) (wd : Width) (bf : Bool) (v : W64) : M (Nat × State) :=
  let ti := s.me
  let w := wordOf pa
  let s := s.pushWord ti.die ti.clu ti.core w
  if s.pathLeft ti.die ti.clu ti.core w then hold s
  else
    let lin := wordLin w + pa % 8
    if s.isPoison lin then hold (s.consume ti pa)
    else match s.barnApply (mkEntry pa op wd bf ti.ctx 0 v [] s.clk) with
      | .ok s' => .ok (s.dramRead lin wd.bytes, s'.afterBarn ti.die w)
      | _ => .error (.trapOn s tOp 0 s.pc0)

def doAtom (op : KOp) (wd : Width) (bf : Bool) (o : Ord) (rd rs : Reg) (s : State) : M State := do
  let n := wd.bytes
  let ea := s.reg rs
  let v := lowBytes (s.reg rd) n
  match s.cur.who with
  | .reed q =>
    let lin ← s.reedAt q ea n
    let old ← s.reedRead q lin n
    match s.barnApply (reedEntry lin op wd bf v s.clk) with
    | .ok s' => .ok (s'.setReg rd (BitVec.ofNat 64 old)).fall
    | _ => trap tOp s.pc0
  | _ =>
    let (k, s) ← s.keyAt ea n .write subUpd
    ensure (match k.cls with | .dram _ => true | .peer _ _ => true | _ => false) tOp s.pc0
    ensure (!(op == .fadd64 && s.th.det)) tOp s.pc0
    if s.busyWords s.me [wordOf k.pa] then hold s
    else
      let o := ordForKey o k.cls
      let s ← s.ordRelease o
      match k.cls with
      | .peer d x =>
        let (ws, s) ← s.askPeer d (.atom x op wd bf v) false
        match ws with
        | [] => .error (.trapOn s tOp 0 s.pc0)
        | w :: _ => .ok ((s.setReg rd (lowBytes w n)).ordAcquire o).fall
      | _ =>
        let (old, s) ← s.atomBarn k.pa op wd bf v
        .ok ((s.setReg rd (BitVec.ofNat 64 old)).ordAcquire o).fall

def execAtom (op : KOp) (wd : Width) (bf : Bool) (o : Ord) (rd rs : Reg) (s : State) : Out := finish s (doAtom op wd bf o rd rs s)

/-! ### LDNB_COMPLETE (R106, R178) -/

/-- The bytes of a load that never parks: default results over held lanes; whether MF is set. Poison is never returned (R364). -/
def State.foldDefault (s : State) (p : Path) (key n : Nat) : Nat × Bool :=
  let w := wordOf key
  let hs := s.heldOn p w
  let val := hs.foldl (fun v e => e.lanes.foldl (fun v o => laneSet v o e.width.bytes (heldDefault e.op e.width e.bf)) v) (s.loadFold p w true).val
  (laneGet val (key % 8) n, hs.any fun e => (List.range n).any fun i => nbit e.be.toNat (key % 8 + i))

/-- The LD.nb of number ev.q completes: of a peer's key, once the peer has answered (R123). -/
def execLdnbComplete (s : State) : Out :=
  match s.loads.find? fun l => l.id == s.cur.ev.q && l.reg.isSome with
  | none => .next s
  | some l =>
    let ti := l.ti
    let n := l.width.bytes
    let el := l.elems.headD ⟨0, 0, 0, none, false⟩
    let key := el.key
    let drop (s : State) : State := { s with loads := s.loads.filter fun x => x.id != l.id }
    let done (v : Nat) (mf : Bool) (s : State) : Out :=
      let s := drop s
      if (s.thr ti).uid != l.uid then .next s
      else
        let s := s.modThr ti fun t => { t.setPlace (l.reg.getD 0) (loadResult l.signed n v) with flags := t.flags ||| Flags.when mf Flags.MF, acqPend := t.acqPend - b2n l.acq.isSome }
        let s := s.loadDone ti l.uid
        .next (match l.acq with | some sc => s.acqAt ti sc | none => s)
    let poisoned (s : State) : Out := .next (if (s.thr ti).uid = l.uid then s.consume ti key else s)
    match s.classify (s.pOf ti) key with
    | .dram _ =>
      match s.loadKey (pathOf ti) key n true with
      | .ok v s' => done v false s'
      | .held =>
        if s.foldPoison (pathOf ti) (wordOf key) true then poisoned (drop s)
        else let (v, mf) := s.foldDefault (pathOf ti) key n; done v mf (s.afterLoad (pathOf ti) (wordOf key) true)
      | .poison => poisoned (drop s)
    | .host rc a => if s.hostBusy ti rc then .next s else done (s.hostRead a n) false s
    | .peer _ _ => (match el.ans with | some v => done (v.toNat % 2 ^ (8 * n)) false s | none => .next s)
    | .steading o => done ((Config.steadingRead s.frees o).toNat % 2 ^ (8 * n)) false { s with frees := s.frees + 1 }
    | .none => done 0 false s

end Sys2Proof.Machine
end

