-- ==== Sys2Proof/Machine/Sync.lean ====
section
/-!
DEFINITION. Sync.lean: full/empty words (R182, R183), fences and SETTLE (R184, R185), WAIT (R186), barriers (R187, R188), channels
(R190 to R192), MRESOLVE (R193), and the events that carry them on: insertion into the sheaf (R87, R112), retries (R102), the end of a
release (R108).
-/
namespace Sys2Proof.Machine
open Sys2Proof

/-- The scope whose acquire an order suffix asks for. -/
def acqOf (o : Ord) : Option Scope := if o.ord.isAcq then some o.sc else none

/-! ### FILL, TAKE, PEEK, EMPTY (R182) -/

/-- On a Reed core (R268): at the barn without any push; the wrong state stalls. -/
def reedFe (kind : Nat) (rd : Reg) (lin : Nat) (s : State) (q : Nat) : M State :=
  let full := s.isFull lin
  if kind = 0 then
    if full then hold s else .ok ((s.barnFill lin (s.reg rd)).wakeWord lin).fall
  else if !full then hold s
  else do
    let v ← s.reedRead q lin 8
    .ok (((if kind = 1 then (s.setFull lin false).wakeWord lin else s.class0 lin).setReg rd (BitVec.ofNat 64 v))).fall

/-- Is the class of a key one that full/empty words may have (R182)? -/
def feClass (c : PClass) : Bool := match c with | .dram _ => true | .peer _ _ => true | _ => false

/-- The request for a peer's word. -/
def feReq (kind x : Nat) (v : W64) : PeerReq := match kind with | 0 => .fill x v | 1 => .take x | _ => .peek x

/-- Act on a word of this device or of scratchpad: the thread completes, waits or parks. -/
def feGo (s : State) (o : FeOp) : M State := .ok (s.keepLen.feAct s.me o)

/-- FILL (0), TAKE (1) and PEEK (2) of a cluster thread. -/
def doFe (kind : Nat) (sp : Bool) (o : Ord) (rd : Reg) (ea : W64) (s : State) : M State := do
  match s.cur.who with
  | .reed q =>
    ensure (!sp) tIllegal s.pc0
    let lin ← s.reedAt q ea 8
    reedFe kind rd lin s q
  | _ =>
    let v := s.reg rd
    if sp then
      let a ← s.spAt ea 8 8
      let s ← s.ordRelease o
      feGo s ⟨kind, true, a, rd.toNat, v, acqOf o, none, false, false, 0⟩
    else
      let (k, s) ← s.keyAt ea 8 (if kind = 2 then .read else .write) (if kind = 2 then subLoad else subUpd)
      ensure (feClass k.cls) tOp s.pc0
      if s.busyWords s.me [wordOf k.pa] then hold s
      else
        let o := ordForKey o k.cls
        let s ← s.ordRelease o
        match k.cls with
        | .peer d x =>
          let (ws, s) ← s.askPeer d (feReq kind x v) false
          match ws with
          | [] => .error (.trapOn s tOp 0 s.pc0)
          | w :: _ => .ok ((if kind = 0 then s else s.setReg rd w).ordAcquire o).fall
        | _ => feGo s ⟨kind, false, k.pa, rd.toNat, v, acqOf o, none, false, false, 0⟩

def execFill (sp : Bool) (o : Ord) (rd rs : Reg) (off : W64) (s : State) : Out := finish s (doFe 0 sp o rd (s.ea rs off 8) s)
def execTake (sp : Bool) (o : Ord) (rd rs : Reg) (off : W64) (s : State) : Out := finish s (doFe 1 sp o rd (s.ea rs off 8) s)
def execPeek (sp : Bool) (o : Ord) (rd rs : Reg) (off : W64) (s : State) : Out := finish s (doFe 2 sp o rd (s.ea rs off 8) s)

/-- A word of device memory becomes empty, its value and its cells unchanged (R101); only a change wakes its waiters (R102). -/
def State.barnEmpty (s : State) (lin : Nat) : State := if s.isFull lin then (s.setFull lin false).wakeWord lin else s

/-- EMPTY at the barn: the entries on the thread's path are pushed first; where one is held, what is left is not waited for (R105 names FILL, TAKE
and PEEK alone; log 30). -/
def State.emptyBarn (s : State) (ti : SlotId) (pa : Nat) : M State :=
  let w := wordOf pa
  let s := s.pushWord ti.die ti.clu ti.core w
  if s.pathLeft ti.die ti.clu ti.core w && !s.heldPath ti.die ti.clu ti.core w then hold s
  else .ok ((s.barnEmpty (wordLin w)).afterBarn ti.die w)

def doEmpty (sp : Bool) (o : Ord) (ea : W64) (s : State) : M State := do
  match s.cur.who with
  | .reed q =>
    ensure (!sp) tIllegal s.pc0
    let lin ← s.reedAt q ea 8
    .ok (s.barnEmpty lin).fall
  | _ =>
    let ti := s.me
    if sp then
      let a ← s.spAt ea 8 8
      let s ← s.ordRelease o
      let b := (s.spPhys s.myGrp a).getD 0
      let h := s.half ti.die ti.clu ti.ctx
      let s := if h.isFull b then (s.setHalf ti.die ti.clu ti.ctx (h.setFull b false)).wakeSp ti.die ti.clu ti.ctx b else s
      .ok (s.ordAcquire o).fall
    else
      let (k, s) ← s.keyAt ea 8 .write subUpd
      ensure (feClass k.cls) tOp s.pc0
      if s.busyWords s.me [wordOf k.pa] then hold s
      else
        let o := ordForKey o k.cls
        let s ← s.ordRelease o
        match k.cls with
        | .peer d x =>
          let (ws, s) ← s.askPeer d (.empty x) false
          if ws.isEmpty then .error (.trapOn s tOp 0 s.pc0) else .ok (s.ordAcquire o).fall
        | _ =>
          let s ← s.emptyBarn ti k.pa
          .ok (s.ordAcquire o).fall

def execEmpty (sp : Bool) (o : Ord) (rs : Reg) (off : W64) (s : State) : Out := finish s (doEmpty sp o (s.ea rs off 8) s)

/-! ### Fences (R184, R185) -/

def doFence (o : Ord) (s : State) : M State := do
  ensure (o.ord != .none) tIllegal s.pc0
  let s ← s.ordRelease o
  .ok (s.ordAcquire o).fall

def execFence (o : Ord) (s : State) : Out := finish s (doFence o s)

/-- Where a SETTLE is issued: die, cluster, and the scope it acts at; a Reed core has no cluster (R268). -/
def State.settleAt (s : State) (sc : Scope) : Nat × Nat × Scope :=
  match s.cur.who with
  | .reed q => (q / 64, 0, match sc with | .clu => .core | x => x)
  | _ => (s.me.die, s.me.clu, sc)

/-- SETTLE (R91, R116): mark what stands in the extent, merge it, end with an acquire at device and system scope. The thread's own
updates that wait to be inserted go first (R111). (log 38) -/
def doSettle (sc : Scope) (s : State) : M State := do
  ensure (sc != .thread) tIllegal s.pc0
  let (d, c, sc) := s.settleAt sc
  let p := s.partOf d
  let early : Bool := match s.cur.who with | .reed _ => false | _ => sc != .core && !s.inserted s.me
  if early then hold s
  else
    let ph := s.phase
    let s := if ph.stage = 0 then
        ((s.settleMark s.fresh p d c sc).setPhase { ph with stage := 1, mark := s.fresh, len := s.cur.len }).newId
      else s
    let m := s.phase.mark
    if s.settleLeft m p d c sc then hold (s.settleWant m p d c sc)
    else .ok (match sc with | .dev => s.acquire d .dev | .sys => s.acquire d .dev | _ => s).fall

def execSettle (sc : Scope) (s : State) : Out := finish s (doSettle sc s)

/-! ### WAIT (R127, R186) -/

/-- The counters are within the limits L, U, C, T. -/
def Thread.within (t : Thread) (lim : BitVec 16) : Bool :=
  decide (t.loads ≤ nfld lim.toNat 12 4) && decide (t.updates ≤ nfld lim.toNat 8 4) && decide (t.copies ≤ nfld lim.toNat 4 4) &&
  decide (t.tiles ≤ nfld lim.toNat 0 4)

/-- The acquires of R127, for every completed operation that nothing has counted yet. -/
def State.countOps (s : State) (ti : SlotId) : State :=
  let ops := (s.thr ti).doneOps
  let s := s.modThr ti fun t => { t with doneOps := [] }
  if ops.any fun x => x == .dev || x == .sys then s.acqAt ti .dev else s

def doWait (nb : Bool) (rd : Reg) (lim : BitVec 16) (s : State) : M State :=
  if s.th.within lim then
    let s := s.countOps s.me
    .ok (if nb then s.setReg rd 1#64 else s).fall
  else if nb && !s.th.det then .ok (s.setReg rd 0#64).fall
  else hold s

def execWait (nb : Bool) (rd : Reg) (lim : BitVec 16) (s : State) : Out := finish s (doWait nb rd lim s)

/-! ### Barriers -/

/-- The release before a barrier: .clu, or the scope named with `.ar`. -/
def State.barRelease (s : State) (o : Ord) : M State := if o.ord == .none then s.release .clu false else s.release o.sc o.cum

/-- A thread goes on from an opened barrier. -/
def State.barGo (s : State) (o : Ord) : State := (s.ordAcquire o).fall

def doBar (o : Ord) (s : State) : M State := do
  s.notHandler
  let gid := s.myGrp
  let ix := s.th.tidx
  let go (s : State) : State := (s.modGrp gid fun g => { g with barRel := g.barRel.filter (· != ix) }).barGo o
  match s.grp gid with
  | none => hold s
  | some g =>
    if g.barRel.contains ix then .ok (go s)
    else if g.barArr.contains ix then hold s
    else
      let s ← s.barRelease o
      let s := s.modGrp gid fun g => ({ g with barArr := g.barArr ++ [ix] }).tryOpen
      if ((s.grp gid).map fun g => g.barRel.contains ix) == some true then .ok (go s) else hold s

def execBar (o : Ord) (s : State) : Out := finish s (doBar o s)

def doBarp (o : Ord) (rs rt : Reg) (s : State) : M State := do
  s.notHandler
  let gid := s.myGrp
  let ix := s.th.tidx
  let id := fld (s.reg rs) 0 2
  let tag := fld (s.reg rs) 8 8
  let mask := s.reg rt
  let go (s : State) : State := (s.modGrp gid fun g => { g with barpRel := g.barpRel.filter (· != (id, ix)) }).barGo o
  match s.grp gid with
  | none => hold s
  | some g =>
    ensure (nbit mask.toNat ix && (maskIdx mask).all fun i => decide (i < g.n)) tOp s.pc0
    if g.barpRel.contains (id, ix) then .ok (go s)
    else
      let old := aget? g.barps id
      ensure (match old with | some b => b.tag == tag && b.mask == mask | none => true) tOp s.pc0
      if (old.map fun b => b.arrived.contains ix) == some true then hold s
      else
        let s ← s.barRelease o
        let s := s.modGrp gid fun g =>
          let b := (aget? g.barps id).getD ⟨tag, mask, []⟩
          ({ g with barps := aset g.barps id { b with arrived := b.arrived ++ [ix] } }).tryOpen
        if ((s.grp gid).map fun g => g.barpRel.contains (id, ix)) == some true then .ok (go s) else hold s

def execBarp (o : Ord) (rs rt : Reg) (s : State) : Out := finish s (doBarp o rs rt s)

/-! ### Channels -/

/-- Who binds a channel: the launch, the group index and the thread index; a handler outside every group is its own thread (R192). -/
def State.binder (s : State) (ti : SlotId) : Nat × Nat × Nat :=
  match s.grp (s.thr ti).grp with
  | some g => (g.launch, g.gi, (s.thr ti).tidx)
  | none => (0, 0, (s.thr ti).uid)

/-- Bind a role of a ring in a table with room for `cap` rings, or refuse the thread (R192). -/
def bindIn (cap : Nat) (mine : Nat → Bool) (m : List (Nat × Bind)) (key base : Nat) (pop : Bool) (w : Nat × Nat × Nat) : Option (List (Nat × Bind)) :=
  match aget? m key with
  | some b =>
    match (if pop then b.rd else b.wr) with
    | some x => if x = w then some m else none
    | none => some (aset m key (if pop then { b with rd := some w } else { b with wr := some w }))
  | none =>
    if (m.filter fun x => mine x.1).length < cap then
      some (aset m key ⟨base, if pop then none else some w, if pop then some w else none⟩)
    else some m

/-- Bind for a ring of device memory: `base` is the physical address of its base. (log 34) -/
def State.bindGlobal (s : State) (base ctx : Nat) (pop : Bool) (w : Nat × Nat × Nat) : Option State :=
  let h := homeDie base
  let d := s.die h
  match bindIn 1024 (fun k => k % 2 == ctx) d.binds (base * 2 + ctx) base pop w with
  | some b => some (s.setDie h { d with binds := b })
  | none => none

/-- Bind for a scratchpad ring: `base` is its byte in the half. -/
def State.bindSp (s : State) (ti : SlotId) (base : Nat) (pop : Bool) : Option State :=
  let h := s.half ti.die ti.clu ti.ctx
  match bindIn 16 (fun _ => true) h.binds base base pop (s.binder ti) with
  | some b => some (s.setHalf ti.die ti.clu ti.ctx { h with binds := b })
  | none => none

/-- The ring base of a handle's address (R190), and the handle after one item (R191). -/
def ringBase (h : W64) : Nat := fld h 0 56 / 2 ^ (fld h 56 4 + 3) * 2 ^ (fld h 56 4 + 3)
def handleNext (h : W64) : W64 :=
  let l := fld h 56 4
  let idx := (fld h 3 l + 1) % 2 ^ l
  BitVec.ofNat 64 (h.toNat / 2 ^ (l + 3) * 2 ^ (l + 3) + idx * 8)

/-- The state a binding gives, or IllegalOperation. -/
def bound (s : State) (b : Option State) : M State := match b with | some s => .ok s | none => trap tOp s.pc0

/-- CHPUSH and CHPOP (R191): `v` is the value pushed, `rd` the register popped into. The ring's base is translated on its own, for writing, and
its physical address names the ring in the table of the base's home die: a base page that is unmapped or may not be written raises Translation
at the base (DESIGN CHOICE, log 71). -/
def doChan (pop : Bool) (o : Ord) (rh rd : Reg) (v : W64) (s : State) : M State := do
  s.notHandler
  let h := s.reg rh
  let l := fld h 56 4
  ensure (decide (1 ≤ l) && decide (l ≤ 12) && fld h 60 3 == 0) tOp s.pc0
  let a := BitVec.ofNat 64 (fld h 0 56)
  let ti := s.me
  let next := handleNext h
  let kind := b2n pop
  let o := if pop then { o with ord := if o.ord.isAcq then .acq else .none } else o
  if h.getLsbD 63 then
    let ad ← s.spAt a 8 8
    let s ← bound s (s.bindSp ti ((s.spPhys s.myGrp ad).getD 0 - (ad - ringBase h)) pop)
    let s ← s.ordRelease o
    feGo s ⟨kind, true, ad, rd.toNat, v, acqOf o, some (rh.toNat, next), false, false, 0⟩
  else
    let (k, s) ← s.keyAt a 8 .write subUpd
    ensure (feClass k.cls) tOp s.pc0
    let (b, s) ← s.xlate (BitVec.ofNat 64 (ringBase h)) .write subUpd
    if s.busyWords ti [wordOf k.pa] then hold s
    else match k.cls with
      | .peer d x =>
        let o := ordForKey o k.cls
        let s ← s.ordRelease o
        let w := s.binder ti
        let (ws, s) ← s.askPeer d (.chan pop x (b % 2 ^ 40) v w.1 w.2.1 w.2.2) false
        match ws with
        | [] => .error (.trapOn s tOp 0 s.pc0)
        | r :: _ => .ok (((if pop then s.setReg rd r else s).setReg rh next).ordAcquire o).fall
      | _ =>
        let s ← bound s (s.bindGlobal b ti.ctx pop (s.binder ti))
        let s ← s.ordRelease o
        feGo s ⟨kind, false, k.pa, rd.toNat, v, acqOf o, some (rh.toNat, next), false, false, 0⟩

def execChpush (o : Ord) (rs rt : Reg) (s : State) : Out := finish s (doChan false o rs 0#5 (s.reg rt) s)
def execChpop (o : Ord) (rd rs : Reg) (s : State) : Out :=
  finish s (do ensure (rd != rs) tIllegal s.pc0; doChan true o rs rd 0#64 s)

/-! ### MRESOLVE (R107, R193) -/

/-- The held entry of a handle, with its run. -/
def State.heldBy (s : State) (hd : Nat) : Option (RunId × Entry) :=
  s.runs.findSome? fun r => (r.2.ents.find? fun e => e.held && e.handle == hd).map fun e => (r.1, e)

/-- Keep the bytes of v that BE names. -/
def beMask (be : BitVec 8) (v : Nat) : Nat := (List.range 8).foldl (fun x o => if nbit be.toNat o then laneSet x o 1 (laneGet v o 1) else x) 0

/-- RETRY's new entry (R193): the supplied value, or for FSUM its cell. -/
def Entry.retryWith (e : Entry) (v : W64) : Entry :=
  match e.op with
  | .fsum => { e with held := false, cell := cellOf (laneFF e.width e.bf) (laneGet v.toNat (e.lanes.headD 0) e.width.bytes) }
  | _ => { e with held := false, val := BitVec.ofNat 64 (beMask e.be v.toNat) }

/-- COMMIT's update: REPLACE of v over the lanes of e. -/
def Entry.commitWith (e : Entry) (v : W64) : Entry :=
  { e with op := .replace, width := .b, bf := false, held := false, val := BitVec.ofNat 64 (beMask e.be v.toNat), cell := Cell.zero, pendHome := false, poison := false }

def State.dropEntry (s : State) (r : RunId) (e : Entry) : State :=
  s.setRun r { s.run r with ents := (s.run r).ents.filter fun x => !(decide (x = e)) }

/-- Which action. -/
inductive MAct where | retry | drop | commit
  deriving DecidableEq, Repr

/-- Perform the action on a held entry. A commit whose destination holds an entry for the word waits (R105), and one whose destination run has
no free slot waits for it (DESIGN CHOICE, log 71). -/
def State.resolve (s : State) (a : MAct) (r : RunId) (e : Entry) (v : W64) : M State :=
  match a with
  | .retry => .ok (s.setRun r { s.run r with ents := (s.run r).ents.map fun x => if x = e then e.retryWith v else x })
  | .drop => .ok (s.dropEntry r e)
  | .commit =>
    let s' := s.dropEntry r e
    match (if e.pendHome then State.put levels s' r (e.commitWith v) false else State.out levels s' r (e.commitWith v)) with
    | .ok t => .ok t
    | _ => hold s

/-- MRESOLVE (R193): the record's address is checked at 64 bytes, as the prose aligns it, before the 8-byte load (DESIGN CHOICE, log 71). -/
def doMresolve (a : MAct) (rd rs : Reg) (s : State) : M State := do
  ensure ((s.reg rs).toNat % 64 == 0) tAlign (s.reg rs)
  let (hd, s) ← s.fenLoad (s.reg rs) 8 false
  match (if hd = 0 then none else s.heldBy hd) with
  | none => .ok (s.setReg rd 1#64).fall
  | some (r, e) =>
    if e.ctx ≠ s.me.ctx ∧ s.th.sup = false then .ok (s.setReg rd 2#64).fall
    else
      let s ← s.resolve a r e (s.reg rd)
      .ok (s.setReg rd 0#64).fall

def execMresolveRetry (rd rs : Reg) (s : State) : Out := finish s (doMresolve .retry rd rs s)
def execMresolveDrop (rd rs : Reg) (s : State) : Out := finish s (doMresolve .drop rd rs s)
def execMresolveCommit (rd rs : Reg) (s : State) : Out := finish s (doMresolve .commit rd rs s)

/-! ### SHEAF_INSERT (R87, R105, R112) -/

/-- Give an update that already has its place in a host's or a peer's stream its value (R123, R371). -/
def State.streamValue (s : State) (req : Nat) (v : W64) : State :=
  { s with
    hostq := s.hostq.map fun q => (q.1, q.2.map fun u => if u.id = req then { u with val := v, ready := true } else u)
    peerq := s.peerq.map fun r => if r.id = req then { r with ready := true, req := (match r.req with | .update k op wd bf _ => .update k op wd bf v | x => x) } else r }

/-- Bring one formed update where it belongs: the sheaf run, or its place in a stream (R123, R370). -/
def State.insertOne (s : State) (r : RunId) (u : Ins) (v : W64) : Put :=
  if u.req ≠ 0 then .ok (s.streamValue u.req v)
  else match s.classify (s.partOf u.ti.die) u.key with
    | .dram _ => State.put levels s r (mkEntry u.key u.op u.width u.bf u.ctx u.qtag v [u.owner] s.clk) true
    | _ => .ok s

/-- The first update of the queue that can be inserted: one waiting for a slot, or for its source element, stops all after it; one
behind a held entry stops only its own word. -/
def State.insertScan (s : State) (r : RunId) (blocked : List Nat) : List Ins → State × Option Ins × List Ins
  | [] => (s, none, [])
  | u :: us =>
    let w := wordOf u.key
    if u.stands then
      let (s', x, rest) := State.insertScan s r blocked us
      (s', x, u :: rest)
    else
    let skip (s : State) : State × Option Ins × List Ins :=
      let (s', x, rest) := State.insertScan s r (w :: blocked) us
      (s', x, u :: rest)
    match u.src with
    | .sp _ _ => (s, none, u :: us)
    | .val v =>
      if blocked.contains w || (s.run r).hasHeld w then skip s
      else match s.insertOne r u v with
        | .ok s' => (s', some u, { u with stands := true } :: us)
        | .behind s' => skip s'
        | .noRoom s' => (s', none, u :: us)
        | .opFault _ _ _ => (s, none, u :: us)

/-- Insert the next update of core (ev.die, ev.clu, ev.core). -/
def execSheafInsert (s : State) : Out :=
  let e := s.cur.ev
  let k := (e.die, e.clu, e.core)
  let r := RunId.sheaf e.die e.clu e.core
  let (s, done, rest) := s.insertScan r [] (aget [] s.ins k)
  let s := { s with ins := aset s.ins k rest }
  match done with
  | none => .next s
  | some u =>
    let s := if r.threshold ≤ (s.run r).occ then s.wantMerge r else s
    if rest.any (fun x => x.uop == u.uop && !x.stands) then .next s
    else
      let s : State := { s with ins := aset s.ins k (rest.filter fun x => x.uop != u.uop) }
      .next (if (s.thr u.ti).uid != u.owner.uid then s else s.modThr u.ti fun t => { t with updates := t.updates - 1 })

/-! ### Retries (R102) and the end of a release (R108) -/

/-- Do two parked operations wait on one word? -/
def State.sameFe (s : State) (a b : SlotId) (x y : FeOp) : Bool :=
  if x.sp && y.sp then
    a.die == b.die && a.clu == b.clu && a.ctx == b.ctx &&
    (match s.spPhys (s.thr a).grp x.addr, s.spPhys (s.thr b).grp y.addr with | some i, some j => i / 8 == j / 8 | _, _ => false)
  else !x.sp && !y.sp && (linOf x.addr).getD 0 / 8 == (linOf y.addr).getD 0 / 8

/-- A listed waiter of the word that a change has woken, that can retry now, and that parked before `ord`. -/
def State.wokenBefore (s : State) (ti : SlotId) (o : FeOp) (ord : Nat) : Bool :=
  s.slots.any fun x =>
    match x.2.wait with
    | .word y => y.woken && y.listed && decide (y.ord < ord) && s.canTurn x.1 && s.sameFe ti x.1 o y
    | _ => false

/-! ### Peers' requests on one word (R125) -/

/-- An answer to a peer. -/
def State.answerPeer (s : State) (dev id : Nat) (ws : List W64) : State := { s with toPeer := s.toPeer ++ [(dev, BitVec.ofNat 64 id :: ws)] }

/-- A full/empty or channel request at the barn: none while the word is in the wrong state, or poisoned: poison is never returned (R364). -/
def State.peerFe (s : State) (kind lin : Nat) (v : W64) : Option (W64 × State) :=
  let full := s.isFull lin
  let good := full && !s.isPoison lin
  match kind with
  | 0 => if full then none else some (0#64, (s.barnFill lin v).wakeWord lin)
  | 1 => if good then some (BitVec.ofNat 64 (s.dramRead lin 8), (s.setFull lin false).wakeWord lin) else none
  | 2 => if good then some (BitVec.ofNat 64 (s.dramRead lin 8), s.class0 lin) else none
  | _ => some (0#64, s.barnEmpty lin)

/-- The answer to a peer's request on one word that acts at the barn, none while the word is in the wrong state; and the state after. A channel
request that waits has bound its ring already (R192). -/
def State.peerAct (s : State) (dev ctx : Nat) (req : PeerReq) (key : Nat) : Option (List W64) × State :=
  let lin := wordLin (wordOf key)
  let fe (s : State) (kind : Nat) (v : W64) : Option (List W64) × State := match s.peerFe kind lin v with | some (x, s') => (some [x], s') | none => (none, s)
  match req with
  | .atom k op wd bf v =>
    let a := (linOf k).getD 0
    if s.isPoison a then (none, s) else match s.barnApply (mkEntry k op wd bf ctx 0 v [] s.clk) with
    | .ok s' => (some [BitVec.ofNat 64 (s.dramRead a wd.bytes)], s')
    | _ => (some [], s)
  | .fill _ v => fe s 0 v
  | .take _ => fe s 1 0#64
  | .peek _ => fe s 2 0#64
  | .empty _ => fe s 3 0#64
  | .chan pop _ ring v launch gi tidx =>
    (match s.bindGlobal ring ctx pop (launch + (dev + 1) * 2 ^ 64, gi, tidx) with
     | none => (some [], s)
     | some s => fe s (b2n pop) v)
  | _ => (none, s)

/-- A waiter of the word that a change has woken and that parked earlier: a thread of the die, or a peer's request (R102, R125). -/
def State.wordWoken (s : State) (lin ord : Nat) : Bool :=
  (s.slots.any fun x => match x.2.wait with
    | .word y => !y.sp && y.woken && y.listed && decide (y.ord < ord) && s.canTurn x.1 && (linOf y.addr).getD 0 / 8 == lin / 8
    | _ => false) ||
  s.dies.any fun d => d.2.peerWait.any fun w => w.woken && decide (w.ord < ord) && (w.req.key.bind linOf).getD 0 / 8 == lin / 8

/-- A peer's woken request for the word of a thread's operation that parked before `ord`. -/
def State.peerBefore (s : State) (o : FeOp) (ord : Nat) : Bool :=
  !o.sp && s.dies.any fun d => d.2.peerWait.any fun w => w.woken && decide (w.ord < ord) && (w.req.key.bind linOf).getD 0 / 8 == (linOf o.addr).getD 0 / 8

/-- The woken request of a peer that parked first on die d retries (R102, R125). -/
def State.peerRetry (s : State) (d : Nat) : State :=
  match (s.die d).peerWait.find? fun w => w.woken && !s.wordWoken (((w.req.key.bind linOf).getD 0)) w.ord with
  | none => s
  | some w =>
    let key := w.req.key.getD 0
    match s.peerAct w.dev w.ctx w.req key with
    | (some ws, s') =>
      let s' := s'.setDie d { s'.die d with peerWait := (s'.die d).peerWait.filter fun y => y.ord != w.ord }
      (s'.dropLine d (wordOf key)).answerPeer w.dev w.id ws
    | (none, s) => s.setDie d { s.die d with peerWait := (s.die d).peerWait.map fun y => if y.ord = w.ord then { y with woken := false } else y }

/-- The parked thread ev.ti retries when its word has changed, in the order of parking; with ev.flag, a peer's request that waits on die
ev.die (R125). -/
def execWaiterRetry (s : State) : Out :=
  let ti := s.cur.ev.ti
  if s.cur.ev.flag then .next (s.peerRetry s.cur.ev.die)
  else
  match (s.thr ti).wait with
  | .word o => if o.listed && o.woken && s.canTurn ti && !s.wokenBefore ti o o.ord && !s.peerBefore o o.ord then .next (s.feAct ti o) else .next s
  | _ => .next s

/-- A waiter that found the list full retries after the listed ones. -/
def execWaitListPoll (s : State) : Out :=
  let ti := s.cur.ev.ti
  match (s.thr ti).wait with
  | .word o => if !o.listed && s.canTurn ti && !s.wokenBefore ti o s.fresh && !s.peerBefore o s.fresh then .next (s.feAct ti o) else .next s
  | _ => .next s

/-- The release that thread ev.ti waits for completes, if nothing is left of it. -/
def execReleaseComplete (s : State) : Out :=
  let ti := s.cur.ev.ti
  let ph := (s.thr ti).ph
  if ph.rel = 1 ∧ s.relReady ti ph.relSc ph.cum ph.mark = true then
    .next ((s.modThr ti fun t => { t with ph := { t.ph with rel := 2 } }).releaseDone ti ph.relSc)
  else .next s

end Sys2Proof.Machine
end

