-- ==== Sys2Proof/Machine/Vector.lean ====
section
/-!
DEFINITION. Vector.lean: the vector unit (R195 to R220): elementwise arithmetic, compares, reductions, movement, conversions, vector
loads and updates, and the beats that read their sources (R200).
-/
namespace Sys2Proof.Machine
open Sys2Proof

/-! ### Steps (R196, R198) -/

/-- What a step of `count` elements from `first` writes, and its flags, from the state before it. -/
abbrev StepFn := State → Nat → Nat → List (Nat × List Byte) × Flags

def idxs (first count : Nat) : List Nat := (List.range count).map (first + ·)

/-- Make a step's writes. -/
def State.spWrites (s : State) (ws : List (Nat × List Byte)) : State := ws.foldl (fun s w => s.spWrite s.myGrp w.1 w.2) s

/-- Run the steps in rising order. -/
def vrun (f : StepFn) (steps : List (Nat × Nat)) (s : State) : State × Flags :=
  steps.foldl (fun x st =>
    let (ws, g) := f x.1 st.1 st.2
    (x.1.spWrites ws, x.2 ||| g)) (s, Flags.no)

/-- Post-increments of the operands (R21). -/
def State.bumps (s : State) (bs : List (PtrOp × VKind)) : State := s.modMe fun t => bs.foldl (fun t b => t.bump b.1 b.2) t

/-- A vector instruction that writes scratchpad: checks, steps, flags, pointers, the unit until the last beat. Beats set the timing
only, never the result (R198): all steps run at the issue. `ops` are its operands, `src` those it reads beside the mask. (log 31) -/
def vexec (mk : Bool) (ops src : List VOp) (bs : List (PtrOp × VKind)) (f : StepFn) (s : State) : M State := do
  s.vcheck ops
  s.vread mk src
  let e := stepSize ops
  let (t, fl) := vrun f (vsteps e s.vlen) s
  .ok (((t.orFlags fl).bumps bs).holdUnit true 0 (beatsOf ops e s.vlen false)).fall

/-- A vector instruction that writes a register: `g` gives the value and the flags. -/
def vreduce (mk : Bool) (src : List VOp) (bs : List (PtrOp × VKind)) (rd : Reg) (g : State → W64 × Flags) (s : State) : M State := do
  let ops := s.vmask mk ++ src
  s.vcheck ops
  s.vread mk src
  let (v, fl) := g s
  .ok ((((s.orFlags fl).setReg rd v).bumps bs).holdUnit true 0 (beatsOf ops (stepSize ops) s.vlen false)).fall

/-- A step that writes every unmasked element i of d with `g i`. -/
def mapStep (mk : Bool) (d : VOp) (n : Nat) (g : State → Nat → Nat × Flags) : StepFn := fun s first count =>
  (idxs first count).foldl (fun (x : List (Nat × List Byte) × Flags) i =>
    if s.unmasked mk i then
      let (v, fl) := g s i
      (x.1 ++ [(d.addr + n * i, leBytes n v)], x.2 ||| fl)
    else x) ([], Flags.no)

/-- The bytes of a bitmap for the bits of a step, zero above them. -/
def bitBytes (p : VOp) (first : Nat) (bs : List Bool) : List (Nat × List Byte) :=
  (List.range ((bs.length + 7) / 8)).map fun j =>
    (p.addr + first / 8 + j, [BitVec.ofNat 8 ((List.range 8).foldl (fun v b => v + b2n (bs.getD (8 * j + b) false) * 2 ^ b) 0)])

/-- A step that writes a bitmap; a masked element's bit is 0 (R199). -/
def bitStep (mk : Bool) (d : VOp) (g : State → Nat → Bool × Flags) : StepFn := fun s first count =>
  let rs := (idxs first count).map fun i => if s.unmasked mk i then g s i else (false, Flags.no)
  (bitBytes d first (rs.map (·.1)), rs.foldl (fun f r => f ||| r.2) Flags.no)

/-! ### Elementwise instructions (R204, R205) -/

/-- Two sources, one destination of a format. -/
def vbin (f : EFmt) (mk : Bool) (g : Nat → Nat → Nat × Flags) (pd pa pb : PtrOp) (s : State) : M State :=
  let k := vkind f
  let n := f.bytes
  let d := s.vop k pd
  let a := s.vop k pa
  let b := s.vop k pb
  vexec mk (s.vmask mk ++ [d, a, b]) [a, b] [(pd, k), (pa, k), (pb, k)]
    (mapStep mk d n fun t i => g (t.elem a n i) (t.elem b n i)) s

/-- One source, one destination. -/
def vun (f : EFmt) (mk : Bool) (g : Nat → Nat × Flags) (pd pa : PtrOp) (s : State) : M State :=
  let k := vkind f
  let n := f.bytes
  let d := s.vop k pd
  let a := s.vop k pa
  vexec mk (s.vmask mk ++ [d, a]) [a] [(pd, k), (pa, k)] (mapStep mk d n fun t i => g (t.elem a n i)) s

def execVadd (f : EFmt) (r : Rnd) (mk : Bool) (pd pa pb : PtrOp) (s : State) : Out := finish s (vbin f mk (elAdd f r s.th.ftz) pd pa pb s)
def execVsub (f : EFmt) (r : Rnd) (mk : Bool) (pd pa pb : PtrOp) (s : State) : Out := finish s (vbin f mk (elSub f r s.th.ftz) pd pa pb s)
def execVmul (f : EFmt) (r : Rnd) (mk : Bool) (pd pa pb : PtrOp) (s : State) : Out := finish s (vbin f mk (elMul f r s.th.ftz) pd pa pb s)

/-- VFMA reads its destination too. -/
def doVfma (f : EFmt) (r : Rnd) (mk : Bool) (pd pa pb : PtrOp) (s : State) : M State :=
  let k := vkind f
  let n := f.bytes
  let d := s.vop k pd
  let a := s.vop k pa
  let b := s.vop k pb
  let ftz := s.th.ftz
  vexec mk (s.vmask mk ++ [d, a, b]) [a, b, d] [(pd, k), (pa, k), (pb, k)]
    (mapStep mk d n fun t i => elFma f r ftz (t.elem a n i) (t.elem b n i) (t.elem d n i)) s

def execVfma (f : EFmt) (r : Rnd) (mk : Bool) (pd pa pb : PtrOp) (s : State) : Out := finish s (doVfma f r mk pd pa pb s)
def execVmin (f : EFmt) (mk : Bool) (pd pa pb : PtrOp) (s : State) : Out := finish s (vbin f mk (elMinMax false f s.th.ftz) pd pa pb s)
def execVmax (f : EFmt) (mk : Bool) (pd pa pb : PtrOp) (s : State) : Out := finish s (vbin f mk (elMinMax true f s.th.ftz) pd pa pb s)
def execVabs (f : EFmt) (r : Rnd) (mk : Bool) (pd pa : PtrOp) (s : State) : Out := finish s (vun f mk (elAbs f r) pd pa s)
def execVneg (f : EFmt) (r : Rnd) (mk : Bool) (pd pa : PtrOp) (s : State) : Out := finish s (vun f mk (elNeg f r) pd pa s)

/-- Formats of the bitwise instructions (R195). -/
def intOnly (f : EFmt) (s : State) (m : M State) : M State := if f.isInt then m else trap tIllegal s.pc0

def execVand (f : EFmt) (mk : Bool) (pd pa pb : PtrOp) (s : State) : Out :=
  finish s (intOnly f s (vbin f mk (fun a b => (a &&& b, Flags.no)) pd pa pb s))
def execVor (f : EFmt) (mk : Bool) (pd pa pb : PtrOp) (s : State) : Out :=
  finish s (intOnly f s (vbin f mk (fun a b => (a ||| b, Flags.no)) pd pa pb s))
def execVxor (f : EFmt) (mk : Bool) (pd pa pb : PtrOp) (s : State) : Out :=
  finish s (intOnly f s (vbin f mk (fun a b => (a ^^^ b, Flags.no)) pd pa pb s))
def execVshl (f : EFmt) (r : Rnd) (mk : Bool) (pd pa pb : PtrOp) (s : State) : Out :=
  finish s (intOnly f s (vbin f mk (elShl f r) pd pa pb s))

/-! ### Compares and selection (R206, R207) -/

def vcmp (op : CmpOp) (f : EFmt) (mk : Bool) (pd pa pb : PtrOp) (s : State) : M State :=
  let k := vkind f
  let n := f.bytes
  let d := s.vop .bits pd
  let a := s.vop k pa
  let b := s.vop k pb
  let ftz := s.th.ftz
  vexec mk (s.vmask mk ++ [d, a, b]) [a, b] [(pd, .bits), (pa, k), (pb, k)]
    (bitStep mk d fun t i => elCmp op f ftz (t.elem a n i) (t.elem b n i)) s

def execVcmpeq (f : EFmt) (mk : Bool) (pd pa pb : PtrOp) (s : State) : Out := finish s (vcmp .eq f mk pd pa pb s)
def execVcmpne (f : EFmt) (mk : Bool) (pd pa pb : PtrOp) (s : State) : Out := finish s (vcmp .ne f mk pd pa pb s)
def execVcmplt (f : EFmt) (mk : Bool) (pd pa pb : PtrOp) (s : State) : Out := finish s (vcmp .lt f mk pd pa pb s)
def execVcmple (f : EFmt) (mk : Bool) (pd pa pb : PtrOp) (s : State) : Out := finish s (vcmp .le f mk pd pa pb s)

/-- VSEL selects by the bitmap at p7. -/
def doVsel (f : EFmt) (pd pa pb : PtrOp) (s : State) : M State :=
  let k := vkind f
  let n := f.bytes
  let d := s.vop k pd
  let a := s.vop k pa
  let b := s.vop k pb
  let p := s.th.ptr 7#3
  vexec false [⟨.bits, p⟩, d, a, b] [⟨.bits, p⟩, a, b] [(pd, k), (pa, k), (pb, k)]
    (mapStep false d n fun t i => (if t.bitAt p i then t.elem a n i else t.elem b n i, Flags.no)) s

def execVsel (f : EFmt) (pd pa pb : PtrOp) (s : State) : Out := finish s (doVsel f pd pa pb s)

/-! ### Reductions and scans (R208 to R210) -/

/-- The float reduction of the unmasked terms: groups of 16 summed exactly, FP32 running value. -/
def sumGroups (r : Rnd) (ftz : Bool) (x : Nat → Option (Num × Flags)) (vl : Nat) : Nat × Flags :=
  (List.range ((vl + 15) / 16)).foldl (fun acc g =>
    let xs := (idxs (16 * g) (min 16 (vl - 16 * g))).filterMap x
    let t := groupSum (xs.map (·.1))
    let fl := xs.foldl (fun f y => f ||| y.2) (Flags.when (groupInvalid (xs.map (·.1))) Flags.NV)
    let a := (ff32.value acc.1).add r t
    let (c, g2) := ff32.arith r ftz a.1
    (c, acc.2 ||| fl ||| a.2 ||| g2)) (0, Flags.no)

/-- The integer reduction, modulo 2^64. -/
def sumInts (x : Nat → Option Int) (vl : Nat) : W64 :=
  BitVec.ofInt 64 ((List.range vl).foldl (fun a i => a + (x i).getD 0) (0 : Int))

def doVsum (f : EFmt) (r : Rnd) (mk : Bool) (rd : Reg) (pa : PtrOp) (s : State) : M State :=
  let k := vkind f
  let n := f.bytes
  let a := s.vop k pa
  let ftz := s.th.ftz
  vreduce mk [a] [(pa, k)] rd (fun t =>
    if f.isInt then (sumInts (fun i => if t.unmasked mk i then some (sint (EFmtBits f) (t.elem a n i)) else none) t.vlen, Flags.no)
    else
      let (c, fl) := sumGroups r ftz (fun i => if t.unmasked mk i then
          let x := elemValue f ftz (t.elem a n i)
          some (x.quiet, Flags.when x.sig Flags.NV) else none) t.vlen
      (BitVec.ofNat 64 c, fl)) s

def execVsum (f : EFmt) (r : Rnd) (mk : Bool) (rd : Reg) (pa : PtrOp) (s : State) : Out := finish s (doVsum f r mk rd pa s)

def doVdot (f : EFmt) (r : Rnd) (mk : Bool) (rd : Reg) (pa pb : PtrOp) (s : State) : M State :=
  let k := vkind f
  let n := f.bytes
  let a := s.vop k pa
  let b := s.vop k pb
  let ftz := s.th.ftz
  vreduce mk [a, b] [(pa, k), (pb, k)] rd (fun t =>
    if f.isInt then
      (sumInts (fun i => if t.unmasked mk i then some (sint (EFmtBits f) (t.elem a n i) * sint (EFmtBits f) (t.elem b n i)) else none) t.vlen, Flags.no)
    else
      let (c, fl) := sumGroups r ftz (fun i => if t.unmasked mk i then
          some ((elemValue f ftz (t.elem a n i)).mul (elemValue f ftz (t.elem b n i))) else none) t.vlen
      (BitVec.ofNat 64 c, fl)) s

def execVdot (f : EFmt) (r : Rnd) (mk : Bool) (rd : Reg) (pa pb : PtrOp) (s : State) : Out := finish s (doVdot f r mk rd pa pb s)

/-- VMAXR: the greatest unmasked element; nothing but masked elements gives the least value. -/
def doVmaxr (f : EFmt) (mk : Bool) (rd : Reg) (pa : PtrOp) (s : State) : M State :=
  let k := vkind f
  let n := f.bytes
  let a := s.vop k pa
  let ftz := s.th.ftz
  vreduce mk [a] [(pa, k)] rd (fun t =>
    let xs := ((List.range t.vlen).filter fun i => t.unmasked mk i).map fun i => t.elem a n i
    if f.isInt then
      (sext64 (EFmtBits f) (wrapN (EFmtBits f) (xs.foldl (fun m x => max m (sint (EFmtBits f) x)) (-((2 ^ (EFmtBits f - 1) : Nat) : Int)))), Flags.no)
    else
      let vs := xs.map (elemValue f ftz)
      let m := vs.foldl Num.maximum (.inf true)
      let (c, fl) := f.ff.round .rne (ftz && f.ftzOn) m.quiet
      (BitVec.ofNat 64 c, fl ||| Flags.when (vs.any Num.sig) Flags.NV)) s

def execVmaxr (f : EFmt) (mk : Bool) (rd : Reg) (pa : PtrOp) (s : State) : Out := finish s (doVmaxr f mk rd pa s)

/-- The running value of VSCAN before element i and its codes: carried through the steps. -/
def scanOne (f : EFmt) (r : Rnd) (ftz : Bool) (run code : Nat) : Nat × Nat × Flags :=
  if f.isInt then
    let (v, fl) := intResult (EFmtBits f) r (sint (EFmtBits f) run + sint (EFmtBits f) code)
    (v, v, fl)
  else
    let a := (ff32.value run).add r (elemValue f ftz code)
    let (c, g) := ff32.arith r ftz a.1
    let (d, h) := f.ff.arith r (ftz && f.ftzOn) (ff32.value c)
    (c, d, a.2 ||| g ||| h)

def doVscan (f : EFmt) (r : Rnd) (mk : Bool) (pd pa : PtrOp) (s : State) : M State := do
  let k := vkind f
  let n := f.bytes
  let d := s.vop k pd
  let a := s.vop k pa
  let ops := s.vmask mk ++ [d, a]
  s.vcheck ops
  s.vread mk [a]
  let ftz := s.th.ftz
  let e := stepSize ops
  let (t, _, fl) := (vsteps e s.vlen).foldl (fun (x : State × Nat × Flags) st =>
    let (ws, run, fl) := (idxs st.1 st.2).foldl (fun (y : List (Nat × List Byte) × Nat × Flags) i =>
      if x.1.unmasked mk i then
        let (c, out, g) := scanOne f r ftz y.2.1 (x.1.elem a n i)
        (y.1 ++ [(d.addr + n * i, leBytes n out)], c, y.2.2 ||| g)
      else y) ([], x.2.1, x.2.2)
    (x.1.spWrites ws, run, fl)) (s, 0, Flags.no)
  .ok (((t.orFlags fl).bumps [(pd, k), (pa, k)]).holdUnit true 0 (beatsOf ops e s.vlen false)).fall

def execVscan (f : EFmt) (r : Rnd) (mk : Bool) (pd pa : PtrOp) (s : State) : Out := finish s (doVscan f r mk pd pa s)

/-! ### Fill, copy, count and pointers (R211 to R213) -/

def doVfill (f : EFmt) (mk : Bool) (pd : PtrOp) (rs : Reg) (s : State) : M State :=
  let k := vkind f
  let n := f.bytes
  let d := s.vop k pd
  let v := (s.reg rs).toNat % 2 ^ (8 * n)
  vexec mk (s.vmask mk ++ [d]) [] [(pd, k)] (mapStep mk d n fun _ _ => (v, Flags.no)) s

def execVfill (f : EFmt) (mk : Bool) (pd : PtrOp) (rs : Reg) (s : State) : Out := finish s (doVfill f mk pd rs s)

/-- Any of the elements of a step is unmasked: a block of Q4X is taken whole then. -/
def State.anyUnmasked (s : State) (mk : Bool) (first count : Nat) : Bool := (idxs first count).any fun i => s.unmasked mk i

def doVcopy (f : EFmt) (mk : Bool) (pd pa : PtrOp) (s : State) : M State :=
  let k := vkind f
  let d := s.vop k pd
  let a := s.vop k pa
  match f with
  | .q4x => vexec mk (s.vmask mk ++ [d, a]) [a] [(pd, k), (pa, k)] (fun t first count =>
      (if t.anyUnmasked mk first count then [(d.addr + 18 * (first / 32), leBytes 18 (t.blockAt a (first / 32)))] else [], Flags.no)) s
  | _ => vun f mk (fun x => (x, Flags.no)) pd pa s

def execVcopy (f : EFmt) (mk : Bool) (pd pa : PtrOp) (s : State) : Out := finish s (doVcopy f mk pd pa s)

/-- The bits of one step of VNNZ and its flags. -/
def nnzStep (f : EFmt) (mk : Bool) (a : VOp) (t : State) (first count : Nat) : List Bool × Flags :=
  match f with
  | .q4x =>
    if t.anyUnmasked mk first count then
      let (vs, bad) := q4xDecode (t.blockAt a (first / 32))
      ((idxs first count).map fun i => t.unmasked mk i && !(vs.getD (i % 32) Num.zero).isZero, Flags.when bad Flags.FORMAT)
    else (List.replicate count false, Flags.no)
  | _ => ((idxs first count).map fun i => t.unmasked mk i && elNonzero f (t.elem a f.bytes i), Flags.no)

def doVnnz (f : EFmt) (mk : Bool) (rd : Reg) (pa pb : PtrOp) (s : State) : M State := do
  let k := vkind f
  let a := s.vop k pa
  let b := s.vop .bits pb
  let ops := s.vmask mk ++ [a, b]
  s.vcheck ops
  s.vread mk [a]
  let e := stepSize ops
  let (t, n, fl) := (vsteps e s.vlen).foldl (fun (x : State × Nat × Flags) st =>
    let (bs, g) := nnzStep f mk a x.1 st.1 st.2
    (x.1.spWrites (bitBytes b st.1 bs), x.2.1 + (bs.filter id).length, x.2.2 ||| g)) (s, 0, Flags.no)
  .ok (((((t.orFlags fl).setReg rd (BitVec.ofNat 64 n))).bumps [(pa, k), (pb, .bits)]).holdUnit true 0 (beatsOf ops e s.vlen false)).fall

def execVnnz (f : EFmt) (mk : Bool) (rd : Reg) (pa pb : PtrOp) (s : State) : Out := finish s (doVnnz f mk rd pa pb s)

def execPset (p : BitVec 3) (rs : Reg) (s : State) : Out := .next (s.modMe fun t => t.setPtr p ((s.reg rs).truncate 32)).fall
def execPadd (p : BitVec 3) (rs : Reg) (s : State) : Out := .next (s.modMe fun t => t.setPtr p (t.ptr p + (s.reg rs).truncate 32)).fall
def execPget (rd : Reg) (p : BitVec 3) (s : State) : Out := .next (s.setReg rd ((s.th.ptr p).zeroExtend 64)).fall

/-! ### Conversions and transcendentals (R218, R219) -/

/-- A block of Q4X decoded: the unmasked elements of the step in the target format. -/
def fromQ4x (dst : EFmt) (r : Rnd) (ftz mk : Bool) (d a : VOp) : StepFn := fun t first count =>
  if t.anyUnmasked mk first count then
    let (vs, bad) := q4xDecode (t.blockAt a (first / 32))
    let n := dst.bytes
    (idxs first count).foldl (fun (x : List (Nat × List Byte) × Flags) i =>
      if t.unmasked mk i then
        let (c, fl) := cvtTo dst r ftz (vs.getD (i % 32) Num.zero)
        (x.1 ++ [(d.addr + n * i, leBytes n c)], x.2 ||| fl)
      else x) ([], Flags.when bad Flags.FORMAT)
  else ([], Flags.no)

/-- A block of Q4X is encoded and written by the step that ends it; masked elements enter as 0. (log 64) -/
def toQ4x (src : EFmt) (r : Rnd) (ftz mk : Bool) (d a : VOp) : StepFn := fun t first count =>
  let b := first / 32
  if (first + count) % 32 = 0 ∧ t.anyUnmasked mk (32 * b) 32 = true then
    let vs := (idxs (32 * b) 32).map fun i => if t.unmasked mk i then elemValue src ftz (t.elem a src.bytes i) else Num.zero
    let (c, fl) := q4xEncode vs r
    ([(d.addr + 18 * b, leBytes 18 c)], fl)
  else ([], Flags.no)

def doVcvt (src dst : EFmt) (r : Rnd) (mk : Bool) (pd pa : PtrOp) (s : State) : M State := do
  ensure (src != dst) tIllegal s.pc0
  let d := s.vop (vkind dst) pd
  let a := s.vop (vkind src) pa
  let ftz := s.th.ftz
  let f : StepFn := match src, dst with
    | .q4x, _ => fromQ4x dst r ftz mk d a
    | _, .q4x => toQ4x src r ftz mk d a
    | _, _ => mapStep mk d dst.bytes fun t i => elCvt src dst r ftz (t.elem a src.bytes i)
  vexec mk (s.vmask mk ++ [d, a]) [a] [(pd, vkind dst), (pa, vkind src)] f s

def execVcvt (src dst : EFmt) (r : Rnd) (mk : Bool) (pd pa : PtrOp) (s : State) : Out := finish s (doVcvt src dst r mk pd pa s)

def execVexp2 (f : EFmt) (mk : Bool) (pd pa : PtrOp) (s : State) : Out := finish s (vun f mk (elTrans .exp2 f s.th.ftz) pd pa s)
def execVlog2 (f : EFmt) (mk : Bool) (pd pa : PtrOp) (s : State) : Out := finish s (vun f mk (elTrans .log2 f s.th.ftz) pd pa s)
def execVrcp (f : EFmt) (mk : Bool) (pd pa : PtrOp) (s : State) : Out := finish s (vun f mk (elTrans .rcp f s.th.ftz) pd pa s)
def execVrsqrt (f : EFmt) (mk : Bool) (pd pa : PtrOp) (s : State) : Out := finish s (vun f mk (elTrans .rsqrt f s.th.ftz) pd pa s)
def execVsin2pi (f : EFmt) (mk : Bool) (pd pa : PtrOp) (s : State) : Out := finish s (vun f mk (elTrans .sin2pi f s.th.ftz) pd pa s)
def execVtanh (f : EFmt) (mk : Bool) (pd pa : PtrOp) (s : State) : Out := finish s (vun f mk (elTrans .tanh f s.th.ftz) pd pa s)

/-! ### Between scratchpad and the Fen (R214 to R216) -/

/-- The global base: a multiple of n below 2^56. -/
def baseCheck (b : W64) (n sub : Nat) : M Unit := do
  ensure (b.toNat % n == 0) tAlign b
  if 2 ^ 56 ≤ b.toNat then .error (.trap tXlate sub b) else .ok ()

/-- The unmasked elements. -/
def State.live (s : State) (mk : Bool) : List Nat := (List.range s.vlen).filter fun i => s.unmasked mk i

/-- The keys that an instruction kept: each element's number and physical address. -/
def State.keptKeys (s : State) : List W64 → List (Nat × Key)
  | i :: a :: r => (i.toNat, ⟨a.toNat, s.classify (s.pOf s.me) a.toNat⟩) :: s.keptKeys r
  | _ => []
/-- Keep the keys of the elements for the turns in which a release waits. -/
def State.keepKeys (s : State) (ks : List (Nat × Key)) : State :=
  s.setPhase { s.th.ph with copied := ks.flatMap fun x => [BitVec.ofNat 64 x.1, BitVec.ofNat 64 x.2.pa] }
/-- Translate the keys of the elements in order: the lowest faulting element is reported. -/
def State.keysAt (s : State) (n : Nat) (k : Need) (sub : Nat) : List (Nat × W64) → M (List (Nat × Key) × State)
  | [] => .ok ([], s)
  | (i, va) :: r => do
    let (x, s) ← s.keyAt va n k sub
    let (xs, s) ← State.keysAt s n k sub r
    .ok ((i, x) :: xs, s)

/-- Start a vector load of the elements (R214): `ops` are its scratchpad operands, `beats` what the unit does first. -/
def loadElems (wd : Width) (d : VOp) (vas : List (Nat × W64)) (bs : List (PtrOp × VKind)) (beats : List (List Nat × Nat)) (s : State) : M State := do
  let n := wd.bytes
  let (ks, s) ← s.keysAt n .read subLoad vas
  if s.busyWords s.me (ks.map fun x => wordOf x.2.pa) then hold s
  else
    let (elems, s) := s.loadElemsAt s.me wd (ks.map fun x => (x.2.pa, d.addr + n * x.1))
    let op : LoadOp := { id := s.fresh, ti := s.me, uid := s.th.uid, grp := s.myGrp, reg := none, signed := false, width := wd, acq := none, elems := elems }
    let s := { s with loads := s.loads ++ [op], fresh := s.fresh + 1 }
    let s := (s.modMe fun t => { t with loads := t.loads + 1 }).bumps bs
    .ok (if beats.isEmpty then s else s.holdUnit true 0 beats).fall

def doVld (wd : Width) (mk : Bool) (pd : PtrOp) (rs : Reg) (s : State) : M State := do
  let n := wd.bytes
  let d := s.vop (.el n) pd
  s.vcheck (s.vmask mk ++ [d])
  let base := s.reg rs
  baseCheck base n subLoad
  s.vread mk []
  loadElems wd d ((s.live mk).map fun i => (i, base + BitVec.ofNat 64 (n * i))) [(pd, .el n)] [] s

def execVld (wd : Width) (mk : Bool) (pd : PtrOp) (rs : Reg) (s : State) : Out := finish s (doVld wd mk pd rs s)

/-- The addresses of indexed elements: unsigned 32-bit indices at a pointer. -/
def State.indexed (s : State) (mk : Bool) (ix : VOp) (base : W64) (n : Nat) : List (Nat × W64) :=
  (s.live mk).map fun i => (i, base + BitVec.ofNat 64 (n * s.elem ix 4 i))

def doVgath (wd : Width) (mk : Bool) (pd pa : PtrOp) (rt : Reg) (s : State) : M State := do
  let n := wd.bytes
  let d := s.vop (.el n) pd
  let ix := s.vop (.el 4) pa
  s.vcheck (s.vmask mk ++ [d, ix])
  let base := s.reg rt
  baseCheck base n subLoad
  s.vread mk [ix]
  loadElems wd d (s.indexed mk ix base n) [(pd, .el n), (pa, .el 4)] (beatsOf (s.vmask mk ++ [ix]) (stepSize [d, ix]) s.vlen false) s

def execVgath (wd : Width) (mk : Bool) (pd pa : PtrOp) (rt : Reg) (s : State) : Out := finish s (doVgath wd mk pd pa rt s)

/-- The beats that read the unmasked source elements. -/
def srcBeats (ops : List VOp) (live : List Nat) (e vl : Nat) : List (List Nat × Nat) :=
  (vsteps e vl).zipIdx.flatMap fun x => stepBeats ops e vl x.2 (live.filter fun i => decide (x.1.1 ≤ i) && decide (i < x.1.1 + x.1.2)).length

/-- The keys of a vector update's elements (R215, R216): the mask and the indices are read and each element's key translated once, before
the release; while that waits the keys are kept. -/
def State.updKeys (s : State) (n : Nat) (mk : Bool) (ix : List VOp) (vas : List (Nat × W64)) : M (List (Nat × Key) × State) :=
  if s.th.ph.rel = 0 then do
    s.vread mk ix
    s.keysAt n .write subUpd vas
  else .ok (s.keptKeys s.th.ph.copied, s)
/-- Form one update per element (R215): translation, release, one count, the unit until the source beats are done. `ix` is what is read
besides the mask before it. -/
def updElems (op : KOp) (wd : Width) (bf mk : Bool) (o : Ord) (src : VOp) (ix : List VOp) (vas : List (Nat × W64)) (bs : List (PtrOp × VKind))
    (e : Nat) (pre : List (List Nat × Nat)) (s : State) : M State := do
  let n := wd.bytes
  let (ks, s) ← s.updKeys n mk ix vas
  ensure (ks.all fun x => match x.2.cls with | .steading _ => op == .replace | _ => true) tOp s.pc0
  if s.busyWords s.me (ks.map fun x => wordOf x.2.pa) then hold s
  else
    let o := ks.foldl (fun o x => ordForKey o x.2.cls) o
    let s ← (s.keepKeys ks).ordRelease o
    let uop := s.fresh
    let beats := pre ++ srcBeats (s.vmask mk ++ [src]) (ks.map (·.1)) e s.vlen
    let s := s.formUpdates s.me (ks.map fun x => (x.2.pa, InsSrc.sp s.myGrp (src.addr + n * x.1))) op wd bf
    .ok ((s.bumps bs).holdUnit false uop beats).fall

def doVst (op : KOp) (wd : Width) (bf mk : Bool) (o : Ord) (pd : PtrOp) (rs : Reg) (s : State) : M State := do
  let n := wd.bytes
  let d := s.vop (.el n) pd
  s.vcheck (s.vmask mk ++ [d])
  let base := s.reg rs
  baseCheck base n subUpd
  updElems op wd bf mk o d [] ((s.live mk).map fun i => (i, base + BitVec.ofNat 64 (n * i))) [(pd, .el n)] (stepSize [d]) [] s

def execVst (wd : Width) (mk : Bool) (o : Ord) (pd : PtrOp) (rs : Reg) (s : State) : Out := finish s (doVst .replace wd false mk o pd rs s)

/-- The width of a VUPD's elements. -/
def vupdWidth (f : EFmt) : Width := match f.bytes with | 4 => .w | 2 => .h | _ => .b

def execVupd (op : KOp) (f : EFmt) (mk : Bool) (o : Ord) (pd : PtrOp) (rs : Reg) (s : State) : Out :=
  finish s (do
    ensure (vupdOk op f) tIllegal s.pc0
    doVst op (vupdWidth f) (f == .bf16) mk o pd rs s)

/-- A 2-byte float operator's BF bit (R216). -/
def floatOp (op : KOp) : Bool := match op with | .fsum => true | .fmin => true | .fmax => true | _ => false

def doVscat (wd : Width) (mk : Bool) (o : Ord) (pd pa : PtrOp) (rt : Reg) (s : State) : M State := do
  let n := wd.bytes
  let d := s.vop (.el n) pd
  let ix := s.vop (.el 4) pa
  s.vcheck (s.vmask mk ++ [d, ix])
  let x := s.reg rt
  let base := BitVec.ofNat 64 (fld x 0 56)
  let bf := x.getLsbD 61
  match kopOf (fld x 56 5) with
  | none => trap tOp s.pc0
  | some op =>
    ensure (opWidthOk op wd && (!bf || (wd == .h && floatOp op)) && fld x 62 2 == 0 && !(op == .fadd64 && s.th.det)) tOp s.pc0
    baseCheck base n subUpd
    let e := stepSize [d, ix]
    updElems op wd bf mk o d [ix] (s.indexed mk ix base n) [(pd, .el n), (pa, .el 4)] e (beatsOf (s.vmask mk ++ [ix]) e s.vlen false) s

def execVscat (wd : Width) (mk : Bool) (o : Ord) (pd pa : PtrOp) (rt : Reg) (s : State) : Out := finish s (doVscat wd mk o pd pa rt s)

/-! ### VLOAD_COMPLETE (R214) -/

/-- What an element of a vector load gives now. -/
inductive ElemR where
  | ok (v : Nat) (s : State)
  | wait
  | poison (pa : Nat)
  deriving Repr

/-- One element for thread ti. -/
def State.loadElem (s : State) (ti : SlotId) (n : Nat) (e : LElem) : ElemR :=
  match s.classify (s.pOf ti) e.key with
  | .dram _ =>
    match s.loadKey (pathOf ti) e.key n true with
    | .ok v s' => .ok v s'
    | .held => .wait
    | .poison => .poison e.key
  | .host rc a => if s.hostBusy ti rc then .wait else .ok (s.hostRead a n) s
  | .peer _ _ => (match e.ans with | some v => .ok (v.toNat % 2 ^ (8 * n)) s | none => .wait)
  | .steading o => .ok ((Config.steadingRead s.frees o).toNat % 2 ^ (8 * n)) { s with frees := s.frees + 1 }
  | .none => .ok 0 s

/-- The elements from position u on, up to n of them, each at its own instant (R214): one that waits is passed over. Poison ends the
load. -/
def State.loadElemsOf (s : State) (l : LoadOp) : (u n : Nat) → List LElem → State × List LElem × Option Nat
  | _, _, [] => (s, [], none)
  | u + 1, n, e :: r => let (s, es, x) := State.loadElemsOf s l u n r; (s, e :: es, x)
  | 0, 0, es => (s, es, none)
  | 0, n + 1, e :: r =>
    if e.done then let (s, es, x) := State.loadElemsOf s l 0 n r; (s, e :: es, x)
    else match s.loadElem l.ti l.width.bytes e with
      | .ok v s =>
        let s := if (s.thr l.ti).uid = l.uid then s.spWrite l.grp e.dst (leBytes l.width.bytes v) else s
        let (s, es, x) := State.loadElemsOf s l 0 n r
        (s, { e with done := true } :: es, x)
      | .wait => let (s, es, x) := State.loadElemsOf s l 0 n r; (s, e :: es, x)
      | .poison pa => (s, e :: r, some pa)

/-- The vector load of number ev.q goes on by up to ev.n + 1 of its elements, from element ev.u on; with the last of all it completes (R214,
R217). -/
def execVloadComplete (s : State) : Out :=
  match s.loads.find? fun l => l.id == s.cur.ev.q && l.reg.isNone with
  | none => .next s
  | some l =>
    let drop (s : State) : State := { s with loads := s.loads.filter fun x => x.id != l.id }
    match s.loadElemsOf l s.cur.ev.u (s.cur.ev.n + 1) l.elems with
    | (_, _, some pa) => .next (if (s.thr l.ti).uid = l.uid then (drop s).consume l.ti pa else drop s)
    | (s', es, none) =>
      if es.all (·.done) then .next ((drop s').loadDone l.ti l.uid)
      else .next { s' with loads := s'.loads.map fun x => if x.id = l.id then { x with elems := es } else x }

/-! ### VECTOR_BEAT (R200) -/

/-- Read the next `n` source elements of update `uop` into its waiting updates (R215); `bad` says that one is poisoned: it is
consumed, and no value is received (R364). -/
def readSources (s : State) (uop : Nat) : (n : Nat) → List Ins → (bad : Bool) → List Ins × Bool
  | 0, us, bad => (us, bad)
  | _, [], bad => ([], bad)
  | n + 1, u :: us, bad =>
    if u.uop = uop then
      match u.src with
      | .sp g a =>
        if s.spPoisoned g a u.width.bytes then let (r, b) := readSources s uop n us true; (u :: r, b)
        else
          let (r, b) := readSources s uop n us bad
          ({ u with src := .val (BitVec.ofNat 64 (leNat (s.spRead g a u.width.bytes))) } :: r, b)
      | .val _ => let (r, b) := readSources s uop (n + 1) us bad; (u :: r, b)
    else let (r, b) := readSources s uop (n + 1) us bad; (u :: r, b)

/-- Offer a core's pending beat: granted whole if every bank it names has capacity left. -/
def State.offerBeat (s : State) (k : Nat × Nat × Nat) (room : List Nat) : State × List Nat :=
  match aget? s.vunit k with
  | none => (s, room)
  | some u =>
    match u.beats with
    | [] => ({ s with vunit := adel s.vunit k }, room)
    | (acc, n) :: rest =>
      if (acc.zip room).all fun x => decide (x.1 ≤ x.2) then
        let (us, bad) := readSources s u.uop n (aget [] s.ins k) false
        let bad := bad && us.any fun i => i.uop == u.uop && i.owner.uid == (s.thr u.ti).uid
        let s := { s with ins := aset s.ins k us }
        let s := if rest.isEmpty then { s with vunit := adel s.vunit k } else { s with vunit := aset s.vunit k { u with beats := rest } }
        (if bad then s.consume u.ti sramPa else s, (acc.zip room).map fun x => x.2 - x.1)
      else (s, room)

/-- A core's one scalar scratchpad access of the clk, of a bank: it takes capacity that is left, and else is offered again (R200). -/
def offerScalar (accs : List (Nat × W64)) (core : Nat) (room : List Nat) : List Nat :=
  match accs.find? fun x => x.1 == core with
  | none => room
  | some x => lset room x.2.toNat (room.getD x.2.toNat 0 - 1)

/-- One clk of bank arbitration on cluster (ev.die, ev.clu): the cores in the order of the clk, each with its vector unit's beat
first and then its scalar access; ev.wr says which cores have one in this clk and of which bank. (log 6) -/
def execVectorBeat (s : State) : Out :=
  let e := s.cur.ev
  let order := (List.range 4).map fun i => (s.clk + i) % 4
  .next ((order.foldl (fun (x : State × List Nat) k =>
    let (s, room) := x.1.offerBeat (e.die, e.clu, k) x.2
    (s, offerScalar e.wr k room)) (s, [2, 2, 2])).1)

end Sys2Proof.Machine
end

