-- ==== Sys2Proof/Machine/Matrix.lean ====
section
/-!
DEFINITION. Matrix.lean: operand slots (R222 to R226), the matrix array and its queue (R227 to R234), row handlers (R235 to R237) and
dendritic mode (R239 to R244).
-/
namespace Sys2Proof.Machine
open Sys2Proof

/-! ### Operand slots -/

/-- Group slot i is the group's and claimed (R222). -/
def Group.slotOk (g : Group) (i : Nat) : Bool := decide (i < g.opPhys.length) && g.claimed.contains i
/-- The n slots from i. -/
def Group.slotsOk (g : Group) (i n : Nat) : Bool := (List.range n).all fun k => g.slotOk (i + k)
/-- Physical slots of a run. -/
def Group.physRun (g : Group) (i n : Nat) : List Nat := (List.range n).map fun k => g.opPhys.getD (i + k) 0

/-- The issuing thread's half, and the state with it replaced. -/
def State.myHalf (s : State) : Half := s.half s.me.die s.me.clu s.me.ctx
def State.setMyHalf (s : State) (h : Half) : State := s.setHalf s.me.die s.me.clu s.me.ctx h

/-- A group record, with no slots when there is none (a ferry-slot handler). -/
def State.grpD (s : State) (g : Nat) : Group :=
  (s.grp g).getD { launch := 0, gi := 0, die := 0, clu := 0, ctx := 0, row := 0, n := 0, spBase := 0, spSize := 0, opPhys := [], claimed := [],
                   live := [], ended := true, contained := false, contains := false, barArr := [], barRel := [], barps := [], barpRel := [], wd := 0, issued := false }

/-- The lowest run of n free slots (R223). -/
def Group.freeRun (g : Group) (n : Nat) : Option Nat :=
  (List.range g.opPhys.length).find? fun i => decide (i + n ≤ g.opPhys.length) && (List.range n).all fun k => !g.claimed.contains (i + k)

def doOclaim (rd rs : Reg) (s : State) : M State := do
  s.notHandler
  let n := (s.reg rs).toNat
  ensure (decide (1 ≤ n) && decide (n ≤ 16)) tOp s.pc0
  match (s.grpD s.myGrp).freeRun n with
  | none => .ok (s.setReg rd (BitVec.allOnes 64)).fall
  | some i =>
    let s := s.modGrp s.myGrp fun g => { g with claimed := (List.range n).foldl (fun c k => ninsert (i + k) c) g.claimed }
    .ok (s.setReg rd (BitVec.ofNat 64 i)).fall

def execOclaim (rd rs : Reg) (s : State) : Out := finish s (doOclaim rd rs s)

/-- Release slots: their contents are free from now on (R222). -/
def Half.freeSlots (h : Half) (epoch : Nat) (phys : List Nat) : Half :=
  phys.foldl (fun (h : Half) sl => { h with opm := sforget h.opm (sl * 8192) 8192, opEpoch := aset h.opEpoch sl epoch }) h

def doOrel (rs rt : Reg) (s : State) : M State := do
  s.notHandler
  let g := s.grpD s.myGrp
  let i := (s.reg rs).toNat
  let n := (s.reg rt).toNat
  ensure (n != 0 && decide (i + n ≤ g.opPhys.length) && g.slotsOk i (min n g.opPhys.length)) tOp s.pc0
  let phys := g.physRun i n
  if phys.any s.myHalf.held.contains then hold s
  else
    let s := (s.setMyHalf (s.myHalf.freeSlots s.fresh phys)).newId
    .ok (s.modGrp s.myGrp fun g => { g with claimed := g.claimed.filter fun c => !(decide (i ≤ c) && decide (c < i + n)) }).fall

def execOrel (rs rt : Reg) (s : State) : Out := finish s (doOrel rs rt s)

/-- The beats of OFILL: one scratchpad access a step (R225). -/
def ofillBeats (spa n : Nat) : List (List Nat × Nat) :=
  (List.range (n / 64)).map fun i => ((List.range 3).map fun b => if (spa + 64 * i) / 0x40000 = b then 1 else 0, 0)

def doOfill (rd rs rt : Reg) (s : State) : M State := do
  let d := s.reg rd
  let slot := fld d 0 5
  let off := fld d 8 13
  let n := fld (s.reg rt) 0 16
  let spa ← s.spRun (BitVec.ofNat 64 (lo32 (s.reg rs))) n 64
  let g := s.grpD s.myGrp
  ensure (fld d 5 2 == 0 && fld d 21 43 == 0 && off % 64 == 0 && n % 64 == 0 && decide (64 ≤ n) && decide (n ≤ 32768)) tOp s.pc0
  let first := off / 8192
  let cnt := (off + n - 1) / 8192 + 1 - first
  ensure (g.slotsOk slot (first + cnt)) tOp s.pc0
  if if d.getLsbD 7 then s.myHalf.opPoisoned g slot off n else s.spPoisoned s.myGrp spa n then hold (s.consume s.me sramPa)
  else if d.getLsbD 7 then
    let bs := s.myHalf.opRead g slot off n
    .ok ((s.spWrite s.myGrp spa bs).holdUnit true 0 (ofillBeats spa n)).fall
  else if (g.physRun (slot + first) cnt).any s.myHalf.held.contains then hold s
  else
    let h := s.myHalf.opWrite g slot off (s.spRead s.myGrp spa n)
    .ok ((s.setMyHalf h).holdUnit true 0 (ofillBeats spa n)).fall

def execOfill (rd rs rt : Reg) (s : State) : Out := finish s (doOfill rd rs rt s)

/-! ### Shapes (R221, R227) -/

/-- Clusters 64 to 95 are wide. -/
def isWide (clu : Nat) : Bool := decide (64 ≤ clu)
/-- K and N of a cluster's array. -/
def arrK (clu : Nat) : Nat := if isWide clu then 64 else 128

def weightOk (wide : Bool) (f : EFmt) : Bool :=
  match f with
  | .q4x => !wide | .i8 => !wide | .fe4 => true | .fe5 => true | .bf16 => wide | .f16 => wide | _ => false
def actOk (wide : Bool) (f : EFmt) : Bool :=
  match f with
  | .i8 => !wide | .fe4 => true | .fe5 => true | .bf16 => true | .f16 => true | _ => false

/-- Bytes of a weight tile of the array's shape. -/
def tileBytes (k : Nat) (f : EFmt) : Nat := match f with | .q4x => k * (k / 32) * 18 | f => k * k * f.bytes

/-- The bytes of a range as a number. -/
def bytesAt (bs : List Byte) (o n : Nat) : Nat := leNat ((bs.drop o).take n)

/-- Column n of a weight tile, exactly, and whether a block is malformed. -/
def weightCol (k : Nat) (f : EFmt) (bs : List Byte) (n : Nat) : List Num × Bool :=
  match f with
  | .q4x =>
    (List.range (k / 32)).foldl (fun x b =>
      let (v, bad) := q4xDecode (bytesAt bs ((n * (k / 32) + b) * 18) 18)
      (x.1 ++ v, x.2 || bad)) ([], false)
  | f => ((List.range k).map fun i => elemValue f false (bytesAt bs ((n * k + i) * f.bytes) f.bytes), false)

/-- Row m of an activation tile. -/
def actRow (k : Nat) (f : EFmt) (bs : List Byte) (m : Nat) : List Num :=
  (List.range k).map fun i => elemValue f false (bytesAt bs ((m * k + i) * f.bytes) f.bytes)

/-! ### MatAcc (R74) -/

/-- The lists of 16 consecutive members. -/
def groups16 : (fuel : Nat) → List Num → List (List Num)
  | 0, _ => []
  | _, [] => []
  | n + 1, xs => xs.take 16 :: groups16 n (xs.drop 16)

/-- One output element: FP32 code from a starting code over products in groups of 16. No flag is set. -/
def matAcc (x0 : Nat) (ps : List Num) : Nat :=
  (groups16 (ps.length + 1) ps).foldl (fun c g => (ff32.round .rne false ((ff32.value c).add .rne (groupSum g)).1).1) x0

/-- The products of R74. A zero operand of an integer or Q4X format has no sign in the spec; the product of one with a negative value is a −0 here,
as IEEE multiplication of a +0 would give (DESIGN CHOICE, log 76). -/
def products (a w : List Num) : List Num := (a.zip w).map fun x => (x.1.mul x.2).1

/-! ### Curves (R241, R242) -/

def curveLen : Nat := 528
/-- A curve's doubleword of segment i. -/
def curveSeg (c : List Byte) (i : Nat) : Nat := bytesAt c (16 + 8 * i) 8

/-- A table whose header is as R241 says. -/
def curveOk (c : List Byte) : Bool :=
  (c.drop 6).take 10 == List.replicate 10 0#8 && nfld (bytesAt c 0 4) 23 8 != 255 &&
  decide (-64 ≤ sint 8 (bytesAt c 4 1)) && decide (sint 8 (bytesAt c 4 1) ≤ 63) &&
  decide (-64 ≤ sint 8 (bytesAt c 5 1)) && decide (sint 8 (bytesAt c 5 1) ≤ 63)

/-- CurveEval: the FP32 code and the exact slope. -/
def curveEval (c : List Byte) (code : Nat) : Nat × Num :=
  let x := ff32.value code
  let shift := sint 8 (bytesAt c 4 1)
  let oexp := sint 8 (bytesAt c 5 1)
  let out (i pos : Nat) (flat : Bool) : Nat × Num :=
    let w := curveSeg c i
    let c0 := sint 26 (nfld w 0 26)
    let c1 := sint 22 (nfld w 26 22)
    let c2 := sint 16 (nfld w 48 16)
    let u := c2 * (pos : Int) / 65536
    let v := (c1 + u) * (pos : Int) / 65536
    let y := c0 + v
    let d := if flat then 0 else c1 + 2 * c2 * (pos : Int) / 65536
    ((ff32.round .rne false (Num.ofScaled y (oexp - 24))).1, Num.ofScaled d (oexp - 24 - shift))
  match x with
  | .nan _ => (ff32.nanCode, .nan false)
  | .inf neg => if neg then out 0 0 true else out 63 65536 true
  | .fin _ _ _ =>
    match (x.add .rne (ff32.value (bytesAt c 0 4)).neg).1 with
    | .fin neg m e =>
      let z := floorAt neg m (e - shift) 16
      if neg && m != 0 then out 0 0 true
      else if 64 * 65536 ≤ z then out 63 65536 true
      else out (z.toNat / 65536) (z.toNat % 65536) false
    | .inf neg => if neg then out 0 0 true else out 63 65536 true
    | .nan _ => (ff32.nanCode, .nan false)

/-- Curve i of an array; one that nothing has loaded is the zero curve (R229). -/
def MArray.curve (a : MArray) (i : Nat) : List Byte := (aget? a.curves i).getD (List.replicate curveLen 0#8)

/-! ### Dendritic rows (R239, R240, R244) -/

/-- Branch count, the branch of a contraction index, and a branch's curve, from the configuration bytes. -/
def mdB (cfg : List Byte) : Nat := 2 ^ (bytesAt cfg 0 1 % 4 + 1)
def mdMapped (cfg : List Byte) : Bool := nbit (bytesAt cfg 1 1) 0
def mdTslot (cfg : List Byte) : Nat := bytesAt cfg 2 1 % 32
/-- Does contraction index i belong to branch b? -/
def inBranch (cfg : List Byte) (k b i : Nat) : Bool :=
  if mdMapped cfg then bytesAt cfg (32 + i) 1 == b
  else decide (b * k / mdB cfg ≤ i) && decide (i < (b + 1) * k / mdB cfg)

/-- The configuration is well formed (R239) for K. -/
def mdOk (cfg : List Byte) (k : Nat) : Bool :=
  nfld (bytesAt cfg 0 1) 2 6 == 0 && nfld (bytesAt cfg 1 1) 1 7 == 0 && nfld (bytesAt cfg 2 1) 5 3 == 0 &&
  (cfg.drop 3).take 13 == List.replicate 13 0#8 &&
  ((List.range (mdB cfg)).all fun b => nfld (bytesAt cfg (16 + b) 1) 4 4 == 0) &&
  (!mdMapped cfg || (List.range k).all fun i => decide (bytesAt cfg (32 + i) 1 < mdB cfg))

/-- One column of a dendritic row: the FP32 code, and the tap words of its branches. -/
def mdColumn (cfg bw : List Byte) (curve : Nat → List Byte) (k n : Nat) (ps : List Num) : Nat × List Nat :=
  let rs := (List.range (mdB cfg)).map fun b =>
    let mem := (ps.zipIdx.filter fun x => inBranch cfg k b x.2).map (·.1)
    let sb := matAcc 0 mem
    let (c, d) := curveEval (curve (bytesAt cfg (16 + b) 1 % 16)) sb
    let w := ff32.value (bytesAt bw ((n * 16 + b) * 4) 4)
    ((w.mul (ff32.value c)).1, (ffBf16.round .rne false (ff32.value sb)).1 + (ffBf16.round .rne false d).1 * 65536)
  ((ff32.round .rne false (groupSum (rs.map (·.1)))).1, rs.map (·.2))

/-! ### The queue -/

/-- Slots an operation holds until its operands are consumed (R226). -/
def MOp.slots (o : MOp) (g : Group) (clu : Nat) : List Nat :=
  match o.kind with
  | 0 => g.physRun (fld o.s 0 5) ((tileBytes (arrK clu) o.fmt + 8191) / 8192)
  | 1 => g.physRun (fld o.s 0 5) 1
  | 2 => g.physRun (fld o.s 0 5) 1 ++ g.physRun (fld o.s 40 5) 2
  | _ => []

def MOp.new (kind : Nat) (s : State) (fmt : EFmt) (a b h : W64) : MOp :=
  { kind := kind, ti := s.me, uid := s.th.uid, grp := s.myGrp, fmt := fmt, s := a, t := b, hentry := h, begun := false, rows := [], out := []
    ready := [], drained := 0, bufUse := [], inFlight := none, consumed := false, cfg := [], bw := [], tile := (0, 0) }

/-- Join the array's queue (R229): the registers are handed over and the slots held. -/
def State.joinQueue (s : State) (o : MOp) : State :=
  let h := s.myHalf
  let h := { h with held := h.held ++ o.slots (s.grpD o.grp) o.ti.clu, arr := { h.arr with queue := h.arr.queue ++ [o] } }
  (s.setMyHalf h).waitMe .engine

/-- The latch a stream will find: its owner after every MLATCH and tile ahead of it (R229). -/
def MArray.latchAhead (a : MArray) : Option Nat :=
  a.queue.foldl (fun l o => if o.consumed then l else match o.kind with | 0 => some o.grp | 4 => none | _ => l)
    (if a.fmt.isSome then some a.owner else none)

def doMlatch (f : EFmt) (rs : Reg) (s : State) : M State := do
  ensure (match f with | .f32 => false | .i32 => false | _ => true) tIllegal s.pc0
  s.notHandler
  let x := s.reg rs
  let wide := isWide s.me.clu
  ensure (fld x 5 59 == 0 && weightOk wide f) tOp s.pc0
  ensure ((s.grpD s.myGrp).slotsOk (fld x 0 5) ((tileBytes (arrK s.me.clu) f + 8191) / 8192)) tOp s.pc0
  .ok (s.joinQueue (MOp.new 0 s f x 0#64 0#64))

def execMlatch (f : EFmt) (rs : Reg) (s : State) : Out := finish s (doMlatch f rs s)

/-- OFMT of Reg(t) (R230). The reserved code 3 ends in IllegalOperation, but the range check comes first and needs an element size,
which R230 does not give: 2 bytes. DESIGN CHOICE, log 69. -/
def ofmt (t : W64) : EFmt := match fld t 20 2 with | 0 => .f32 | 1 => .f16 | _ => .bf16
def rowBytes (clu : Nat) (t : W64) : Nat := arrK clu * (ofmt t).bytes
/-- Drain buffers of handler mode. -/
def drainBufs (t : W64) : Nat := fld t 22 2 + 1

/-- Does slot 15 of the issuing core hold a group thread of the context (R230)? -/
def State.slot15Busy (s : State) : Bool :=
  let t := s.thr { s.me with slot := 15 }
  t.live && t.kind == .group

/-- MSTREAM and MDEND at issue (R230, R239). -/
def doStream (md : Bool) (f : EFmt) (rd rs rt : Reg) (s : State) : M State := do
  ensure (match f with | .i8 => true | .fe4 => true | .fe5 => true | .f16 => true | .bf16 => true | _ => false) tIllegal s.pc0
  s.notHandler
  let x := s.reg rs
  let h := s.reg rd
  let drain := x.getLsbD 6
  let t := if drain then s.reg rt else 0#64
  let clu := s.me.clu
  let g := s.grpD s.myGrp
  let rb := rowBytes clu t
  let out := BitVec.ofNat 64 (fld t 0 20)
  let _ ← if drain then s.spRun out (if h = 0#64 then 32 * rb else drainBufs t * rb) 64 else .ok 0
  ensure (!x.getLsbD 7 && (if md then fld x 46 2 == 0 else fld x 40 8 == 0) && fld t 24 40 == 0 && fld t 20 2 != 3) tOp s.pc0
  ensure (!h.getLsbD 0 && decide (h.toNat < 2 ^ 56) && actOk (isWide clu) f && g.slotOk (fld x 0 5)) tOp s.pc0
  ensure (s.myHalf.arr.latchAhead == some s.myGrp) tOp s.pc0
  ensure (h == 0#64 || !s.slot15Busy) tOp s.pc0
  ensure (!md || (!x.getLsbD 5 && drain && (!x.getLsbD 45 || h != 0#64) && g.slotsOk (fld x 40 5) 2)) tOp s.pc0
  let s := s.modMe fun t => { t with tiles := t.tiles + 1 }
  .ok (s.joinQueue (MOp.new (if md then 2 else 1) s f x t h))

def execMstream (f : EFmt) (rd rs rt : Reg) (s : State) : Out := finish s (doStream false f rd rs rt s)
def execMdend (f : EFmt) (rd rs rt : Reg) (s : State) : Out := finish s (doStream true f rd rs rt s)

def doMcurve (rs rt : Reg) (s : State) : M State := do
  s.notHandler
  let a ← s.spRun (s.reg rt) curveLen 16
  ensure (fld (s.reg rs) 4 60 == 0) tOp s.pc0
  .ok (s.joinQueue (MOp.new 3 s .f32 (s.reg rs) (BitVec.ofNat 64 a) 0#64))

def execMcurve (rs rt : Reg) (s : State) : Out := finish s (doMcurve rs rt s)

/-! ### The array at work -/

/-- Which array an event concerns: die, cluster, context. -/
abbrev AKey := Nat × Nat × Nat
def State.halfK (s : State) (k : AKey) : Half := s.half k.1 k.2.1 k.2.2
def State.modHalfK (s : State) (k : AKey) (f : Half → Half) : State := s.setHalf k.1 k.2.1 k.2.2 (f (s.halfK k))
def State.modArr (s : State) (k : AKey) (f : MArray → MArray) : State := s.modHalfK k fun h => { h with arr := f h.arr }

/-- Split the queue at its acting entry, the first whose operands are not consumed. -/
def splitAct : List MOp → List MOp × Option MOp × List MOp
  | [] => ([], none, [])
  | o :: r => if o.consumed then let (a, x, b) := splitAct r; (o :: a, x, b) else ([], some o, r)

/-- Put a changed acting entry back, or take it out. -/
def MArray.setAct (a : MArray) (o : Option MOp) : MArray :=
  let (x, _, y) := splitAct a.queue
  { a with queue := x ++ o.toList ++ y }

/-- The slots of an operation cease to be held. -/
def State.unhold (s : State) (k : AKey) (o : MOp) : State :=
  s.modHalfK k fun h => { h with held := (o.slots (s.grpD o.grp) k.2.1).foldl List.erase h.held }

/-- The issuing thread gets its registers back and goes on. -/
def State.giveBack (s : State) (o : MOp) : State := if (s.thr o.ti).uid = o.uid then s.fallOf o.ti else s

/-- OR flags into the status of the thread that issued the operation. -/
def State.flagsTo (s : State) (o : MOp) (f : Flags) : State :=
  if (s.thr o.ti).uid = o.uid then s.modThr o.ti fun t => { t with flags := t.flags ||| f } else s

/-- Is everything of a stream done (R231)? -/
def MOp.finished (o : MOp) : Bool := o.consumed && o.out.isEmpty && o.ready.isEmpty && o.inFlight.isNone

/-- Take complete streams out of the queue, TILES falling for each (R231). -/
def State.sweep (s : State) (k : AKey) : State :=
  let done := (s.halfK k).arr.queue.filter MOp.finished
  let s := s.modArr k fun a => { a with queue := a.queue.filter fun o => !o.finished }
  done.foldl (fun s o => if o.kind = 4 then s else s.tileDone o.ti o.uid .thread) s

/-- Raise IllegalOperation precisely on the operation's thread (R239, R243). -/
def State.opTrap (s : State) (k : AKey) (o : MOp) (undo : Bool) : State :=
  let s := (s.unhold k o).modArr k fun a => a.setAct none
  if (s.thr o.ti).uid = o.uid then
    let s := if undo then s.modThr o.ti fun t => { t with tiles := t.tiles - 1 } else s
    s.threadTrap o.ti tOp 0 (s.thr o.ti).pc (s.thr o.ti).pc (s.thr o.ti).pc
  else s

/-- The operation consumes poison (R364): it leaves the queue without effect, and its group is contained. -/
def State.opPoison (s : State) (k : AKey) (o : MOp) : State :=
  let s := (s.unhold k o).modArr k fun a => a.setAct none
  if (s.thr o.ti).uid = o.uid then s.consume o.ti sramPa else s

/-- The array's SRAM words that row m of an operation reads (R364): the latch, its accumulators, the curves of its branches. -/
def MOp.reads (o : MOp) (m : Nat) : List (Nat × Nat) :=
  if o.kind = 2 then (0, 0) :: (List.range (mdB o.cfg)).map fun b => (1, bytesAt o.cfg (16 + b) 1 % 16)
  else if o.s.getLsbD 5 then [(0, 0), (2, m)] else [(0, 0)]

/-- A piece of the array's SRAM is written whole: it is poisoned no more (R364; log 46). -/
def MArray.clean (a : MArray) (x : Nat × Nat) : MArray := { a with bad := a.bad.filter fun y => !(y == x) }

/-- The rows of a mask. -/
def maskRows (x : W64) : List Nat := (List.range 32).filter fun m => nbit (fld x 8 32) m

/-- A stream's operands are consumed: slots free, thread ready. -/
def State.consumed (s : State) (k : AKey) (o : MOp) : State :=
  (((s.unhold k o).modArr k fun a => a.setAct (some { o with consumed := true })).giveBack o).sweep k

/-- The operation at the head of the array queue (ev.die, ev.clu, ev.ctx) acts (R228, R229, R239, R243). -/
def execArrayQueueHead (s : State) : Out :=
  let e := s.cur.ev
  let k : AKey := (e.die, e.clu, e.ctx)
  let h := s.halfK k
  match (splitAct h.arr.queue).2.1 with
  | none => .next s
  | some o =>
    if o.begun then .next s
    else
      let g := s.grpD o.grp
      match o.kind with
      | 0 =>
        let kk := arrK k.2.1
        let bs := h.opRead g (fld o.s 0 5) 0 (tileBytes kk o.fmt)
        if h.opPoisoned g (fld o.s 0 5) 0 (tileBytes kk o.fmt) then .next (s.opPoison k o) else
        let bad := match o.fmt with | .q4x => (List.range kk).any fun n => (weightCol kk o.fmt bs n).2 | _ => false
        let s := (s.unhold k o).modArr k fun a => { (a.setAct none).clean (0, 0) with tile := bs, fmt := some o.fmt, owner := o.grp }
        .next ((s.flagsTo o (Flags.when bad Flags.FORMAT)).giveBack o)
      | 3 =>
        let bs := s.spRead o.grp o.t.toNat curveLen
        if s.spPoisoned o.grp o.t.toNat curveLen then .next (s.opPoison k o)
        else if curveOk bs then
          .next ((s.modArr k fun a => { (a.setAct none).clean (1, fld o.s 0 4) with curves := aset a.curves (fld o.s 0 4) bs }).giveBack o)
        else .next (s.opTrap k o false)
      | 1 =>
        let o := { o with begun := true, rows := maskRows o.s }
        let s := s.modArr k fun a => a.setAct (some o)
        .next (if o.rows.isEmpty then s.consumed k o else s)
      | 2 =>
        let cfg := h.opRead g (fld o.s 40 5) 0 160
        let bw := h.opRead g (fld o.s 40 5 + 1) 0 8192
        if h.opPoisoned g (fld o.s 40 5) 0 160 || h.opPoisoned g (fld o.s 40 5 + 1) 0 8192 then .next (s.opPoison k o)
        else if mdOk cfg (arrK k.2.1) && (!o.s.getLsbD 45 || g.slotOk (mdTslot cfg)) then
          let o := { o with begun := true, rows := maskRows o.s, cfg := cfg, bw := bw }
          let s := s.modArr k fun a => a.setAct (some o)
          .next (if o.rows.isEmpty then s.consumed k o else s)
        else .next (s.opTrap k o true)
      | _ => .next (s.modArr k fun a => { (a.setAct (some { o with begun := true })).clean (0, 0) with tile := [], fmt := none, owner := 0 })

/-- What one row computes: its FP32 codes, and the tap words in the order of R244. -/
def rowCodes (a : MArray) (o : MOp) (kk : Nat) (acts : List Num) (m : Nat) : List Nat × List Nat :=
  let wf := a.fmt.getD .f32
  let old := (aget? a.acc m).getD (List.replicate kk 0)
  let cols := (List.range kk).map fun n =>
    let ps := products acts (weightCol kk wf a.tile n).1
    if o.kind = 2 then mdColumn o.cfg o.bw a.curve kk n ps
    else (matAcc (if o.s.getLsbD 5 then old.getD n 0 else 0) ps, [])
  (cols.map (·.1), cols.flatMap (·.2))

/-- The next unmasked row enters the array of (ev.die, ev.clu, ev.ctx), whose context rotates (R48, R231). -/
def execRowEntry (s : State) : Out :=
  let e := s.cur.ev
  let k : AKey := (e.die, e.clu, e.ctx)
  let h := s.halfK k
  match (splitAct h.arr.queue).2.1 with
  | none => .next s
  | some o =>
    match o.rows with
    | [] => .next s
    | m :: rest =>
      if !o.begun || !s.rotating ⟨e.die, e.clu, e.ctx, 0, 0⟩ || (s.cx ⟨e.die, e.clu, e.ctx, 0, 0⟩).halted then .next s
      else
        let kk := arrK k.2.1
        if h.opPoisoned (s.grpD o.grp) (fld o.s 0 5) (m * kk * o.fmt.bytes) (kk * o.fmt.bytes) || (o.reads m).any h.arr.bad.contains then
          .next (s.opPoison k o)
        else
        let acts := actRow kk o.fmt (h.opRead (s.grpD o.grp) (fld o.s 0 5) 0 (32 * kk * o.fmt.bytes)) m
        let (codes, taps) := rowCodes h.arr o kk acts m
        let o := { o with rows := rest, out := o.out ++ [(m, codes, taps)] }
        let s := s.modArr k fun a => { if o.kind = 1 then (a.setAct (some o)).clean (2, m) else a.setAct (some o) with acc := if o.kind = 1 then aset a.acc m codes else a.acc }
        .next (if rest.isEmpty then s.consumed k o else s)

/-- A row converted for scratchpad, with its flags (R234). (log 21) -/
def drainRow (f : EFmt) (codes : List Nat) : List Byte × Flags :=
  codes.foldl (fun x c =>
    let (v, fl) := match f with | .f32 => (c, Flags.no) | f => f.ff.round .rne false (ff32.value c)
    (x.1 ++ leBytes f.bytes v, x.2 ||| fl)) ([], Flags.no)

/-- Replace the first entry that meets a condition. -/
def setFirst (p : MOp → Bool) (o : MOp) : List MOp → List MOp
  | [] => []
  | x :: r => if p x then o :: r else x :: setFirst p o r

/-- The oldest entered row of (ev.die, ev.clu, ev.ctx) is ready: it is drained, if its stream drains (R231, R233, R235). -/
def execRowReady (s : State) : Out :=
  let e := s.cur.ev
  let k : AKey := (e.die, e.clu, e.ctx)
  match (s.halfK k).arr.queue.find? fun o => !o.out.isEmpty with
  | none => .next s
  | some o =>
    match o.out with
    | [] => .next s
    | (m, codes, taps) :: rest =>
      let put (o : MOp) (s : State) : State := (s.modArr k fun a => { a with queue := setFirst (fun x => !x.out.isEmpty) o a.queue }).sweep k
      if !o.s.getLsbD 6 then .next (put { o with out := rest } s)
      else
        let (bs, fl) := drainRow (ofmt o.t) codes
        let out := fld o.t 0 20
        if o.hentry = 0#64 then
          .next (put { o with out := rest } ((s.spWrite o.grp (out + m * bs.length) bs).flagsTo o fl))
        else
          let j := o.drained % drainBufs o.t
          if o.bufUse.contains j then .next s
          else
            let o' := { o with out := rest, drained := o.drained + 1, bufUse := j :: o.bufUse, ready := o.ready ++ [(m, j, taps)] }
            .next (put o' ((s.spWrite o.grp (out + j * bs.length) bs).flagsTo o fl))

/-- A row handler at its first instruction (R235). -/
def handlerThread (o : MOp) (uid tidx : Nat) (det : Bool) (buf row : Nat) : Thread :=
  let t := { Thread.zero with live := true, kind := .rowH, grp := o.grp, tidx := tidx, uid := uid, pc := o.hentry, det := det }
  (((t.setReg 0#5 (BitVec.ofNat 64 buf)).setReg 1#5 (BitVec.ofNat 64 row)).setReg 2#5 (BitVec.ofNat 64 tidx)).setReg 3#5 (BitVec.ofNat 64 (fld o.s 48 16))

/-- The queue entries of a core's streams. -/
def ofCore (core : Nat) (o : MOp) : Bool := o.ti.core == core

/-- Is no row tapped before this one still to reach its ROWDONE (R244)? They are of this stream or of one ahead of it in the queue. -/
def tapFree (core : Nat) : List MOp → Bool
  | [] => true
  | o :: r =>
    if ofCore core o && !o.ready.isEmpty then o.inFlight.isNone
    else (!o.s.getLsbD 45 || o.kind != 2 || (o.ready.isEmpty && o.inFlight.isNone)) && tapFree core r

/-- Slot 15 of core (ev.die, ev.clu, ev.ctx, ev.core) takes the next drained row (R235; log 72). A tap is written first, once the
row tapped before it is done with (R244). -/
def execRowHandlerDispatch (s : State) : Out :=
  let e := s.cur.ev
  let k : AKey := (e.die, e.clu, e.ctx)
  let hs : SlotId := ⟨e.die, e.clu, e.ctx, e.core, 15⟩
  let q := (s.halfK k).arr.queue
  match q.find? fun o => ofCore e.core o && !o.ready.isEmpty with
  | none => .next s
  | some o =>
    match o.ready with
    | [] => .next s
    | (m, j, taps) :: rest =>
      let g := s.grpD o.grp
      let tap := g.physRun (mdTslot o.cfg) 1
      if (s.thr hs).live || (o.s.getLsbD 45 && !tapFree e.core q) || q.any (fun x => ofCore e.core x && x.inFlight.isSome) || !s.rotating hs || (s.cx hs).halted ||
         (!taps.isEmpty && o.s.getLsbD 45 && tap.any (s.halfK k).held.contains) then .next s
      else
        let s := if o.s.getLsbD 45 then s.modHalfK k fun h => h.opWrite g (mdTslot o.cfg) 0 (taps.flatMap (leBytes 4)) else s
        let o' := { o with ready := rest, inFlight := some j }
        let s := s.modArr k fun a => { a with queue := setFirst (fun x => ofCore e.core x && !x.ready.isEmpty) o' a.queue }
        let buf := fld o.t 0 20 + j * rowBytes e.clu o.t
        .next (s.setThr hs (handlerThread o s.fresh (s.thr o.ti).tidx (s.thr o.ti).det buf m)).newId

/-- ROWDONE (R236). -/
def doRowdone (s : State) : M State := do
  ensure (s.th.kind == .rowH) tOp s.pc0
  if s.th.loads + s.th.updates + s.th.copies + s.th.tiles ≠ 0 then hold s
  else
    let ti := s.me
    let k : AKey := (ti.die, ti.clu, ti.ctx)
    let fl := s.th.flags
    let s := s.modMe fun t => { t with live := false, ph := Phase.zero, wait := .no }
    match (s.halfK k).arr.queue.find? fun o => ofCore ti.core o && o.inFlight.isSome with
    | none => .ok s
    | some o =>
      let o' := { o with inFlight := none, bufUse := o.bufUse.filter fun b => some b != o.inFlight }
      let s := (s.flagsTo o fl).modArr k fun a => { a with queue := setFirst (fun x => ofCore ti.core x && x.inFlight.isSome) o' a.queue }
      .ok (s.sweep k)

def execRowdone (s : State) : Out := finish s (doRowdone s)

end Sys2Proof.Machine
end

