-- ==== Sys2Proof/Machine/Gleaner.lean ====
section
/-!
DEFINITION. Gleaner.lean: GSTART and the Gleaner's own instructions (R245 to R250).
-/
namespace Sys2Proof.Machine
open Sys2Proof

/-! ### GSTART (R245, R246) -/

def blockLen : Nat := 160

/-- The doubleword at offset o of a block. -/
def blkWord (b : List Byte) (o : Nat) : W64 := BitVec.ofNat 64 (bytesAt b o 8)

/-- The job a block describes, before its program is read. -/
def jobOf (s : State) (rd : Reg) (a : Nat) (b : List Byte) : GJob :=
  let p := blkWord b 0x80
  let c := blkWord b 0x88
  { id := s.fresh, ti := s.me, uid := s.th.uid, grp := s.myGrp, rd := rd.toNat, block := a, first := s.pc0, store := []
    j := Vector.ofFn fun i => blkWord b (8 * i.val), pc := fld p 0 8, plen := fld p 16 9, outslot := fld c 0 5, nslot := fld c 5 6
    off := fld c 12 18, rows := blkWord b 0x90 }

/-- The bounds of R245 on a block. -/
def blockOk (g : Group) (b : List Byte) (x : GJob) : Bool :=
  let p := blkWord b 0x80
  let c := blkWord b 0x88
  decide (1 ≤ x.plen) && decide (x.plen ≤ 256) && decide (x.pc < x.plen) && fld p 8 8 == 0 && fld p 25 39 == 0 &&
  !c.getLsbD 11 && fld c 30 34 == 0 && fld (blkWord b 0x98) 8 56 == 0 && x.nslot != 0 &&
  decide (x.outslot + x.nslot ≤ g.opPhys.length) && decide (x.off ≤ x.nslot * 8192) && g.slotsOk x.outslot x.nslot

def doGstart (rd rs rt : Reg) (s : State) : M State := do
  s.notHandler
  ensure ((s.reg rs).toNat % 4 == 0) tAlign (s.reg rs)
  let a ← s.spRun (s.reg rt) blockLen 8
  let b := s.spRead s.myGrp a blockLen
  let x := jobOf s rd a b
  let pa ← s.spRun (s.reg rs) (4 * x.plen) 4
  ensure (blockOk (s.grpD s.myGrp) b x) tOp s.pc0
  if s.spPoisoned s.myGrp a blockLen || s.spPoisoned s.myGrp pa (4 * x.plen) then hold (s.consume s.me sramPa) else
  let prog := s.spRead s.myGrp pa (4 * x.plen)
  let x := { x with store := (List.range x.plen).map fun i => bytesAt prog (4 * i) 4 }
  let ti := s.me
  let c := s.cluster ti.die ti.clu
  .ok ((s.setCluster ti.die ti.clu { c with gleaner := c.gleaner ++ [x] }).waitMe .engine).newId

def execGstart (rd rs rt : Reg) (s : State) : Out := finish s (doGstart rd rs rt s)

/-! ### The running job -/

/-- The cluster whose Gleaner moves. -/
def State.gAt (s : State) : Nat × Nat := match s.cur.who with | .gleaner d c => (d, c) | _ => (0, 0)
/-- The job at the head of its cluster's queue. -/
def State.gJob (s : State) : Option GJob := ((s.cluster s.gAt.1 s.gAt.2).gleaner).head?
def State.setGJob (s : State) (x : Option GJob) : State :=
  let c := s.cluster s.gAt.1 s.gAt.2
  s.setCluster s.gAt.1 s.gAt.2 { c with gleaner := x.toList ++ c.gleaner.drop 1 }

def GJob.reg (x : GJob) (r : JReg) : W64 := vget x.j r.toNat
def GJob.setReg (x : GJob) (r : JReg) (v : W64) : GJob := { x with j := vset x.j r.toNat v }

/-- The bytes of the block at +0x80 and after: PC with PLEN, the cursor, ROWS. -/
def GJob.tail (x : GJob) : List W64 :=
  [BitVec.ofNat 64 (x.pc % 256 + x.plen % 512 * 2 ^ 16), BitVec.ofNat 64 (x.outslot % 32 + x.nslot % 64 * 2 ^ 5 + x.off % 2 ^ 18 * 2 ^ 12), x.rows]

/-- Write the block back; STATUS only when the program stops by itself (R246, R248). -/
def State.writeBlock (s : State) (x : GJob) (status : Option Nat) : State :=
  let ws := x.j.toList ++ x.tail ++ (match status with | some v => [BitVec.ofNat 64 v] | none => [])
  s.spWrite x.grp x.block (wordsBytes ws)

/-- The program stops with a status (R245). -/
def gStop (x : GJob) (status : Nat) (s : State) : Out :=
  let s := (s.setGJob none).writeBlock x (some status)
  if (s.thr x.ti).uid = x.uid then
    .next ((s.modThr x.ti fun t => t.setReg (BitVec.ofNat 5 x.rd) (BitVec.ofNat 64 status)).fallOf x.ti)
  else .next s

/-- The program stops at a fault, raised precisely on its GSTART (R248, R250). -/
def gTrap (x : GJob) (code sub : Nat) (faddr : W64) (s : State) : Out :=
  let s := (s.setGJob none).writeBlock x none
  if (s.thr x.ti).uid = x.uid then .next (s.threadTrap x.ti code sub faddr x.first x.first) else .next s

def stEnd : Nat := 0
def stOverflow : Nat := 2
def stBadinsn : Nat := 3

/-- One instruction: its next PC must lie in the program, or it stops there with no effect (R248). -/
def gGo (next : Int) (s : State) (f : GJob → Out) : Out :=
  match s.gJob with
  | none => .next s
  | some x => if 0 ≤ next ∧ next < (x.plen : Int) then f x else gStop x stBadinsn s

/-- The PC of the job, and one beyond it. -/
def State.gPc (s : State) : Int := match s.gJob with | some x => (x.pc : Int) | none => 0

/-- The job goes on at its next instruction. -/
def gNext (x : GJob) (next : Int) (s : State) : Out := .next (s.setGJob (some { x with pc := next.toNat }))

/-- An instruction that writes a register from the job's registers and falls through. -/
def gSet (jd : JReg) (f : GJob → W64) (s : State) : Out :=
  gGo (s.gPc + 1) s fun x => gNext (x.setReg jd (f x)) (s.gPc + 1) s

/-- A signed immediate of 18 bits. -/
def immI (imm : BitVec 18) : W64 := imm.signExtend 64

def execGnop (s : State) : Out := gGo (s.gPc + 1) s fun x => gNext x (s.gPc + 1) s
def execGadd (jd ja jb : JReg) (s : State) : Out := gSet jd (fun x => x.reg ja + x.reg jb) s
def execGsub (jd ja jb : JReg) (s : State) : Out := gSet jd (fun x => x.reg ja - x.reg jb) s
def execGmul (jd ja jb : JReg) (s : State) : Out := gSet jd (fun x => x.reg ja * x.reg jb) s
def execGand (jd ja jb : JReg) (s : State) : Out := gSet jd (fun x => x.reg ja &&& x.reg jb) s
def execGor (jd ja jb : JReg) (s : State) : Out := gSet jd (fun x => x.reg ja ||| x.reg jb) s
def execGxor (jd ja jb : JReg) (s : State) : Out := gSet jd (fun x => x.reg ja ^^^ x.reg jb) s
def execGaddi (jd ja : JReg) (imm : BitVec 18) (s : State) : Out := gSet jd (fun x => x.reg ja + immI imm) s
def execGli (jd : JReg) (imm : BitVec 18) (s : State) : Out := gSet jd (fun _ => immI imm) s

/-- A shift by an immediate, which must be 0 to 63. -/
def gShift (jd : JReg) (imm : BitVec 18) (f : GJob → Nat → W64) (s : State) : Out :=
  if 64 ≤ imm.toNat then (match s.gJob with | some x => gStop x stBadinsn s | none => .next s)
  else gSet jd (fun x => f x imm.toNat) s

def execGshli (jd ja : JReg) (imm : BitVec 18) (s : State) : Out := gShift jd imm (fun x n => x.reg ja <<< n) s
def execGshri (jd ja : JReg) (imm : BitVec 18) (s : State) : Out := gShift jd imm (fun x n => x.reg ja >>> n) s

/-- GHASH's width must be 1 to 63. -/
def execGhash (jd ja jb : JReg) (s : State) : Out :=
  gGo (s.gPc + 1) s fun x =>
    let w := fld (x.reg jb) 0 6
    if w = 0 then gStop x stBadinsn s
    else gNext (x.setReg jd ((x.reg ja * 0x9E3779B97F4A7C15#64) >>> (64 - w))) (s.gPc + 1) s

/-! ### Loads -/

/-- What a read of the Gleaner gives. -/
inductive GRead where
  | ok (v : Nat) (s : State)
  | wait (s : State)
  | fault (code sub : Nat) (faddr : W64)
  | poison (pa : Nat)
  deriving Repr

/-- n ≤ 8 bytes of global memory for the job's thread: R175's checks, the thread's lookup (R355), R109's wait, then a fold by R98. A peer's key
is a Translation fault (R125). -/
def State.gLoad (s : State) (x : GJob) (va : W64) (n : Nat) : GRead :=
  let ti := x.ti
  if va.toNat % n ≠ 0 then .fault tAlign 0 va
  else
  let (look, s) := s.lookThread ti.die ti.clu ti.ctx va.toNat
  match s.xlateFrom x.id look ti.die ti.ctx va.toNat .read (s.thr ti).sup with
    | .fault _ => .fault tXlate subLoad va
    | .wait s => .wait s
    | .poison pa _ => .poison pa
    | .ok pa s =>
      if s.busyWords ti [wordOf pa] then .wait s
      else match s.classify (s.pOf ti) pa with
      | .dram _ =>
        (match s.loadKey (pathOf ti) pa n true with
          | .ok v s => .ok v s
          | .held => .wait s
          | .poison => .poison pa)
      | .host rc a => if s.hostBusy ti rc then .wait s else .ok (s.hostRead a n) s
      | .peer _ _ => .fault tXlate subLoad va
      | .steading o => if 0x10000000 ≤ o then .fault tPhys 0 va else .ok ((Config.steadingRead s.frees o).toNat % 2 ^ (8 * n)) { s with frees := s.frees + 1 }
      | .none => .fault tPhys 0 va

/-- Words of eight bytes, in order. -/
def State.gLoads (s : State) (x : GJob) (va : W64) : (n : Nat) → List W64 → GRead × List W64
  | 0, acc => (.ok 0 s, acc)
  | n + 1, acc =>
    match s.gLoad x va 8 with
    | .ok v s => State.gLoads s x (va + 8#64) n (acc ++ [BitVec.ofNat 64 v])
    | r => (r, acc)

/-- The job consumes poison: its thread's group is contained (R364). -/
def gPoison (x : GJob) (pa : Nat) (s : State) : Out := .next ((s.setGJob none).consume x.ti pa)

/-- GLDW and GLDD. -/
def gLd (n : Nat) (jd ja : JReg) (imm : BitVec 18) (s : State) : Out :=
  gGo (s.gPc + 1) s fun x =>
    match s.gLoad x (x.reg ja + immI imm) n with
    | .ok v t => gNext (x.setReg jd (BitVec.ofNat 64 v)) (s.gPc + 1) t
    | .wait t => .next t
    | .fault c sub fa => gTrap x c sub fa s
    | .poison pa => gPoison x pa s

def execGldw (jd ja : JReg) (imm : BitVec 18) (s : State) : Out := gLd 4 jd ja imm s
def execGldd (jd ja : JReg) (imm : BitVec 18) (s : State) : Out := gLd 8 jd ja imm s

/-- The lowest invalid of the n scratchpad bytes from a, for the job's group. -/
def State.gSpBad (s : State) (x : GJob) (a : W64) (n : Nat) : Option W64 :=
  if 2 ^ 32 ≤ a.toNat then some a else (s.spBad x.grp a.toNat n).map (BitVec.ofNat 64)

def execGlds (jd ja : JReg) (imm : BitVec 18) (s : State) : Out :=
  gGo (s.gPc + 1) s fun x =>
    let a := x.reg ja + immI imm
    if a.toNat % 8 ≠ 0 then gTrap x tAlign 0 a s
    else match s.gSpBad x a 8 with
      | some b => gTrap x tSp 0 b s
      | none =>
        if s.spPoisoned x.grp a.toNat 8 then gPoison x sramPa s
        else gNext (x.setReg jd (BitVec.ofNat 64 (leNat (s.spRead x.grp a.toNat 8)))) (s.gPc + 1) s

/-! ### Branches -/

/-- A conditional branch by words. -/
def gBranch (c : GJob → Bool) (off : Int) (s : State) : Out :=
  match s.gJob with
  | none => .next s
  | some x =>
    let next := if c x then s.gPc + off else s.gPc + 1
    gGo next s fun x => gNext x next s

def execGbeq (ja jb : JReg) (off : BitVec 14) (s : State) : Out := gBranch (fun x => x.reg ja == x.reg jb) off.toInt s
def execGbne (ja jb : JReg) (off : BitVec 14) (s : State) : Out := gBranch (fun x => x.reg ja != x.reg jb) off.toInt s
def execGbltu (ja jb : JReg) (off : BitVec 14) (s : State) : Out := gBranch (fun x => (x.reg ja).ult (x.reg jb)) off.toInt s
def execGjmp (imm : BitVec 18) (s : State) : Out := gBranch (fun _ => true) imm.toInt s

def execGdjnz (jd : JReg) (imm : BitVec 18) (s : State) : Out :=
  match s.gJob with
  | none => .next s
  | some x =>
    let v := x.reg jd - 1#64
    let next := if v != 0#64 then s.gPc + imm.toInt else s.gPc + 1
    gGo next s fun x => gNext (x.setReg jd v) next s

/-! ### Appends (R249) -/

/-- Room for n more bytes, and the slots they go to free of holds (R226): then the bytes are written. (log 63) -/
def gAppend (n : Nat) (bounds : GJob → Bool) (read : GJob → GRead × List W64) (s : State) : Out :=
  gGo (s.gPc + 1) s fun x =>
    if !bounds x then gStop x stBadinsn s
    else if x.nslot * 8192 < x.off + n then gStop x stOverflow s
    else
      let g := s.grpD x.grp
      let first := x.off / 8192
      let cnt := (x.off + n - 1) / 8192 + 1 - first
      if (g.physRun (x.outslot + first) cnt).any (s.half x.ti.die x.ti.clu x.ti.ctx).held.contains then .next s
      else match read x with
        | (.ok _ t, ws) =>
          let h := (t.half x.ti.die x.ti.clu x.ti.ctx).opWrite g x.outslot x.off ((wordsBytes ws).take n)
          gNext { x with off := x.off + n, rows := x.rows + 1#64 } (s.gPc + 1) (t.setHalf x.ti.die x.ti.clu x.ti.ctx h)
        | (.wait t, _) => .next (s.keepWalks t)
        | (.fault c sub fa, _) => gTrap x c sub fa s
        | (.poison pa, _) => gPoison x pa s

/-- An append's size: a multiple of 8 from 8 to 8,192. -/
def appendOk (n : Nat) : Bool := decide (8 ≤ n) && decide (n ≤ 8192) && n % 8 == 0

def execGappg (ja : JReg) (n : BitVec 18) (s : State) : Out :=
  gAppend n.toNat (fun x => appendOk n.toNat && (x.reg ja).toNat % 8 == 0) (fun x => s.gLoads x (x.reg ja) (n.toNat / 8) []) s

def execGapps (ja : JReg) (n : BitVec 18) (s : State) : Out :=
  gAppend n.toNat (fun x => appendOk n.toNat && (x.reg ja).toNat % 8 == 0) (fun x =>
    match s.gSpBad x (x.reg ja) n.toNat with
    | some b => (.fault tSp 0 b, [])
    | none => if s.spPoisoned x.grp (x.reg ja).toNat n.toNat then (.poison sramPa, []) else (.ok 0 s, leWords (n.toNat / 8) (s.spRead x.grp (x.reg ja).toNat n.toNat))) s

def execGappz (n : BitVec 18) (s : State) : Out :=
  gAppend n.toNat (fun _ => appendOk n.toNat) (fun _ => (.ok 0 s, List.replicate (n.toNat / 8) 0#64)) s

def execGappj (ja : JReg) (s : State) : Out := gAppend 8 (fun _ => true) (fun x => (.ok 0 s, [x.reg ja])) s

/-- GEND: the block takes PC at the GEND itself (R246 does not say which). DESIGN CHOICE, log 70. -/
def execGend (s : State) : Out := match s.gJob with | some x => gStop x stEnd s | none => .next s

/-- A word that is no instruction stops the program (R247). -/
def gBad (s : State) : Out := match s.gJob with | some x => gStop x stBadinsn s | none => .next s

end Sys2Proof.Machine
end

