-- ==== Sys2Proof/Machine/Copy.lean ====
section
/-!
DEFINITION. Copy.lean: the copy engines (R254 to R257) and the Winnow engine (R258 to R262).
-/
namespace Sys2Proof.Machine
open Sys2Proof

/-! ### An engine's reads and writes (R126) -/

/-- What an access of an engine gives. -/
inductive EAcc where
  | ok (v : Nat) (s : State)
  | wait (s : State)
  | fault (va : W64)
  | poison (pa : Nat)
  deriving Repr

/-- n bytes within one word, folded from the die's rick run outward (R126); u is the operation's number among those that wait for walks. -/
def State.eRead (s : State) (u d ctx : Nat) (sup : Bool) (va : W64) (n : Nat) : EAcc :=
  match s.xlateEngine u d ctx va.toNat .read sup with
  | .fault _ => .fault va
  | .wait s => .wait s
  | .poison pa _ => .poison pa
  | .ok pa s =>
    match s.classify (s.partOf d) pa with
    | .dram _ =>
      match s.loadKey ⟨d, none⟩ pa n false with
      | .ok v s => .ok v s
      | .held => .wait s
      | .poison => .poison pa
    | .host _ a => .ok (s.hostRead a n) s
    | .steading o => if 0x10000000 ≤ o then .fault va else .ok ((Config.steadingRead s.frees o).toNat % 2 ^ (8 * n)) { s with frees := s.frees + 1 }
    | _ => .fault va

/-- REPLACE of n bytes of one word. -/
def replaceEntry (pa n v ctx : Nat) (owner : Owner) (clk : Nat) : Entry :=
  { mkEntry pa .replace .b false ctx 0 0#64 [owner] clk with
    be := BitVec.ofNat 8 ((2 ^ n - 1) * 2 ^ (pa % 8)), val := BitVec.ofNat 64 (v % 2 ^ (8 * n) * 2 ^ (8 * (pa % 8))) }

/-- Single bytes of a value, with their offsets. -/
def valBytes (n v : Nat) : List (Nat × W64) := (List.range n).map fun i => (i, BitVec.ofNat 64 (v / 2 ^ (8 * i) % 256))

/-- A peer's stream takes a REPLACE of n bytes of one word (R125). -/
def State.peerReplace (s : State) (dev o n v : Nat) (owner : Owner) : State :=
  { s with peerq := s.peerq ++ [⟨s.fresh, dev, .replace (o / 8 * 8) (BitVec.ofNat 8 ((2 ^ n - 1) * 2 ^ (o % 8))) (BitVec.ofNat 64 (v % 2 ^ (8 * n) * 2 ^ (8 * (o % 8)))), owner, none, 0#64, true⟩]
           fresh := s.fresh + 1 }

/-- A root complex's stream takes a posted write of n bytes (R370). -/
def State.hostReplace (s : State) (rc a n v : Nat) (owner : Owner) : State :=
  { s with hostq := aset s.hostq rc (aget [] s.hostq rc ++ (valBytes n v).map fun b => ⟨s.fresh, a + b.1, .replace, .b, false, b.2, owner, true, none⟩), fresh := s.fresh + 1 }

/-- REPLACE of n bytes within one word, into the die's rick run; to host memory and to a peer they enter its stream (R125, R370). -/
def State.eWrite (s : State) (u d ctx : Nat) (sup : Bool) (owner : Owner) (va : W64) (n v : Nat) : EAcc :=
  match s.xlateEngine u d ctx va.toNat .write sup with
  | .fault _ => .fault va
  | .wait s => .wait s
  | .poison pa _ => .poison pa
  | .ok pa s =>
    match s.classify (s.partOf d) pa with
    | .dram _ =>
      match s.insertRick d (replaceEntry pa n v ctx owner s.clk) with
      | .ok s => .ok 0 s
      | .error s => .wait s
    | .host rc a => .ok 0 (s.hostReplace rc a n v owner)
    | .peer dev o => if s.reaches (s.partOf d) dev then .ok 0 (s.peerReplace dev o n v owner) else .fault va
    | .steading o => if 0x10000000 ≤ o then .fault va else .ok 0 s
    | .none => .fault va

/-- The peer that answers an engine's access of this address, and the key there (R125). -/
def State.ePeer (s : State) (u d ctx : Nat) (k : Need) (sup : Bool) (va : W64) : Option (Nat × Nat) :=
  match s.xlateEngine u d ctx va.toNat k sup with
  | .ok pa s => (match s.classify (s.partOf d) pa with | .peer dev o => if s.reaches (s.partOf d) dev then some (dev, o) else none | _ => none)
  | _ => none

/-- An entry of a queue has completed (R342). -/
def State.entDone (s : State) (p q i : Nat) : State :=
  match aget? s.queues (p, q) with
  | some x => { s with queues := aset s.queues (p, q) { x with ents := x.ents.map fun e => if e.idx == i then { e with done := true } else e } }
  | none => s

/-! ### COPY and COPYM (R254, R255, R257) -/

def cpLen (d : W64) : Nat := fld d 0 24
def cpRows (d : W64) : Nat := fld d 24 12
def cpKind (d : W64) : Nat := fld d 36 2
def cpSStr (d1 : W64) : Nat := fld d1 0 32
def cpDStr (d1 : W64) : Nat := fld d1 32 32

/-- The lowest invalid address of a scratchpad side (R255). -/
def State.sideBad (s : State) (grp : Nat) (base : W64) (stride len rows : Nat) : List Nat :=
  (List.range (rows + 1)).filterMap fun i => s.spBad grp ((base.toNat + i * stride) % 2 ^ 32) len

/-- A global side's first and last byte lie below 2^56. -/
def globalSide (base : W64) (stride len rows : Nat) : M Unit := do
  let last := base + BitVec.ofNat 64 (rows * stride + len - 1)
  if 2 ^ 56 ≤ base.toNat then .error (.trap tXlate subEng base)
  else if 2 ^ 56 ≤ last.toNat then .error (.trap tXlate subEng last)
  else .ok ()

/-- What reading a multicast group gives (R257, R377). -/
inductive GroupR where
  | ok (mem : List (Nat × Nat))
  | invalid
  /-- a member is not in REACH (R376) -/
  | unreach
  /-- a word of the table is held, or poisoned (R106, R364) -/
  | held
  | poison (pa : Nat)
  deriving DecidableEq, Repr

/-- A word of the multicast table or of a member list, at a physical address of the partition. A table outside device and host memory is
no valid one (log 44). -/
def State.tabWord (s : State) (p pa : Nat) : Except GroupR Nat :=
  match s.classify p pa with
  | .dram _ => (match s.hvRead pa 8 with | .ok v _ => .ok v | .held => .error .held | .poison => .error (.poison pa))
  | .host _ a => .ok (s.hostRead a 8)
  | _ => .error .invalid

/-- The members of a multicast group whose offset range ends at `top`. -/
def State.groupOf (s : State) (p grp top : Nat) : GroupR :=
  let tab := fld (s.part p).mctab 12 40 * 4096
  let own := fld (s.part p).devid 0 8
  let r : Except GroupR (List (Nat × Nat)) := do
    let w0 ← s.tabWord p (tab + 16 * grp)
    let w1 ← s.tabWord p (tab + 16 * grp + 8)
    let n := nfld w0 1 8
    if !(nbit w0 0 && nfld w0 9 55 == 0 && nfld w1 52 12 == 0 && w1 % 64 == 0 && decide (1 ≤ n) && decide (n ≤ 192)) then .error .invalid
    else
      let ms ← (List.range n).mapM fun i => do
        let a ← s.tabWord p (w1 + 16 * i)
        let b ← s.tabWord p (w1 + 16 * i + 8)
        pure (a, b)
      if !(ms.all fun m => nfld m.1 48 16 == 0 && nfld m.2 40 24 == 0 && nfld m.1 0 40 % 64 == 0 &&
          decide (nfld m.1 0 40 + nfld m.2 0 40 ≤ 0xA000000000) && decide (top ≤ nfld m.2 0 40)) then .error .invalid
      else if !(ms.all fun m => nfld m.1 40 8 == own || s.reaches p (nfld m.1 40 8)) then .error .unreach
      else pure (ms.map fun m => (nfld m.1 40 8, nfld m.1 0 40))
  match r with | .ok m => .ok m | .error e => e

/-- The members of the group a thread's COPYM names (R257). -/
def State.members (s : State) (grp top : Nat) (va : W64) : M (List (Nat × Nat)) :=
  match s.groupOf (s.pOf s.me) grp top with
  | .ok m => .ok m
  | .invalid => trap tOp s.pc0
  | .unreach => trap tPhys va
  | .held => hold s
  | .poison pa => hold (s.consume s.me pa)

/-- The engine of a die with the shorter queue (R255). -/
def State.pickEngine (s : State) (d : Nat) : Nat :=
  let n (e : Nat) := (s.copies.filter fun c => c.die == d && c.eng == e).length
  if n 0 ≤ n 1 then 0 else 1

def doCopy (multi : Bool) (rd rs rt : Reg) (s : State) : M State := do
  ensure (rd.toNat % 2 == 0 && decide (rd.toNat ≤ 22)) tIllegal s.pc0
  let d := s.reg rd
  let d1 := s.reg (rd + 1#5)
  let src := s.reg rs
  let dst := s.reg rt
  let len := cpLen d
  let rows := cpRows d
  let kind := cpKind d
  ensure (fld d 46 18 == 0 && (multi || fld d 38 8 == 0) && (!multi || kind % 2 == 0)) tOp s.pc0
  let srcSp := decide (2 ≤ kind)
  let dstSp := !multi && kind % 2 == 1
  let bad := (if srcSp then s.sideBad s.myGrp src (cpSStr d1) len rows else []) ++ (if dstSp then s.sideBad s.myGrp dst (cpDStr d1) len rows else [])
  let _ ← match minNat bad with | some a => trap tSp (BitVec.ofNat 64 a) | none => (.ok () : M Unit)
  let _ ← if len = 0 || srcSp then (.ok () : M Unit) else globalSide src (cpSStr d1) len rows
  let _ ← if len = 0 || dstSp || multi then (.ok () : M Unit) else globalSide dst (cpDStr d1) len rows
  let mem ← if multi then s.members (fld d 38 8) (dst.toNat + rows * cpDStr d1 + len) dst else .ok []
  let s ← s.release .die false
  let ti := s.me
  if len = 0 then .ok (s.modMe fun t => { t with doneOps := t.doneOps ++ [if multi then .sys else .die] }).fall
  else
    let op : CopyOp := { id := s.fresh, die := ti.die, eng := s.pickEngine ti.die, ti := some ti, uid := s.th.uid, grp := s.myGrp, clu := ti.clu, ctx := ti.ctx, qent := none
                         sup := s.th.sup, first := s.pc0, multi := multi, d0 := d, d1 := d1, s := src, t := dst, row := 0, byte := 0, mem := mem, await := mem.map (·.1), lost := []
                         stop := none, buf := [], want := 0#64, sys := multi }
    let s := { s with copies := s.copies ++ [op], fresh := s.fresh + 1 }
    .ok (s.modMe fun t => { t with copies := t.copies + 1 }).fall

def execCopy (rd rs rt : Reg) (s : State) : Out := finish s (doCopy false rd rs rt s)
def execCopym (rd rs rt : Reg) (s : State) : Out := finish s (doCopy true rd rs rt s)

/-! ### The copy engine at work (R256) -/

/-- The owner an engine's writes carry: its launch, and the operation's own number. -/
def CopyOp.owner (o : CopyOp) (s : State) : Owner := ⟨(s.grpD o.grp).launch, o.id⟩

/-- Source and destination addresses of the next byte, and how many bytes lie in one word on each side. -/
def CopyOp.srcSp (o : CopyOp) : Bool := decide (2 ≤ cpKind o.d0)
def CopyOp.dstSp (o : CopyOp) : Bool := !o.multi && cpKind o.d0 % 2 == 1
def CopyOp.sAddr (o : CopyOp) : W64 :=
  let a := o.s + BitVec.ofNat 64 (o.row * cpSStr o.d1 + o.byte)
  if o.srcSp then BitVec.ofNat 64 (lo32 a) else a
def CopyOp.dAddr (o : CopyOp) : W64 :=
  let a := o.t + BitVec.ofNat 64 (o.row * cpDStr o.d1 + o.byte)
  if o.dstSp then BitVec.ofNat 64 (lo32 a) else a
/-- The bytes of the row that lie in the destination word being written: one entry each (R256). -/
def CopyOp.room (o : CopyOp) : Nat := min (cpLen o.d0 - o.byte) (8 - o.dAddr.toNat % 8)
/-- Has every byte been visited, or has a fault stopped the visits? -/
def CopyOp.visited (o : CopyOp) : Bool := decide (cpRows o.d0 < o.row) || o.stop.isSome
def CopyOp.advance (o : CopyOp) (n : Nat) : CopyOp :=
  if o.byte + n < cpLen o.d0 then { o with byte := o.byte + n } else { o with row := o.row + 1, byte := 0 }
/-- Keep a source word that has been read. -/
def CopyOp.keep (o : CopyOp) (a w : W64) : CopyOp := { o with buf := ((a, w) :: o.buf).take 2 }

/-- Send an entry with a zero stamp (R123, R257). -/
def State.sendZero (s : State) (d : Nat) (e : Entry) : State :=
  let x := s.die d
  (s.setDie d { x with hseq := x.hseq + 1, sent := x.sent ++ [⟨e, d, homeOf e.word, x.hseq + 1, List.replicate 8 0⟩] }).dropLine d e.word

/-- Send n bytes to every member of a multicast group. -/
def State.multicast (s : State) (o : CopyOp) (off n v : Nat) : State :=
  o.mem.foldl (fun s m =>
    let pa := m.2 + off
    if m.1 = fld (s.part (s.partOf o.die)).devid 0 8 then s.sendZero o.die (replaceEntry pa n v o.ctx (o.owner s) s.clk)
    else s.peerReplace m.1 pa n v (o.owner s)) s

/-- What a step of a copy gives: the state and the copy after it. -/
inductive CStep where
  | ok (w : W64) (s : State) (o : CopyOp)
  | wait (s : State) (o : CopyOp)
  | fault (va : W64)
  | poison (pa : Nat)
  deriving Repr

/-- A source word, read whole once (R256): one kept from the visit before, or scratchpad, or the fold of R126, or a peer's answer to a
load that has its place in the stream (R123, R125). -/
def CopyOp.srcWord (o : CopyOp) (s : State) (a : W64) : CStep :=
  match o.buf.find? fun x => x.1 == a with
  | some (_, w) => .ok w s o
  | none =>
    if o.srcSp then
      if s.spPoisoned o.grp a.toNat 8 then .poison sramPa
      else let w := BitVec.ofNat 64 (leNat (s.spRead o.grp a.toNat 8)); .ok w s (o.keep a w)
    else match s.ePeer o.id o.die o.ctx .read o.sup a with
      | some (dev, x) =>
        if s.peerq.any fun r => r.owner.uid == o.id && decide (r.req = .load x .d) then .wait s o
        else .wait { s with peerq := s.peerq ++ [⟨s.fresh, dev, .load x .d, o.owner s, none, 0#64, true⟩], fresh := s.fresh + 1 } { o with want := a }
      | none => match s.eRead o.id o.die o.ctx o.sup a 8 with
        | .ok v s => .ok (BitVec.ofNat 64 v) s (o.keep a (BitVec.ofNat 64 v))
        | .wait s => .wait s o
        | .fault va => .fault va
        | .poison pa => .poison pa

/-- Write n bytes at the destination, and go on behind them. -/
def CopyOp.put (o : CopyOp) (s : State) (n v : Nat) : CStep :=
  if o.multi then .ok 0#64 (s.multicast o o.dAddr.toNat n v) (o.advance n)
  else if o.dstSp then .ok 0#64 (s.spWrite o.grp o.dAddr.toNat (leBytes n v)) (o.advance n)
  else
    let o' := if (s.ePeer o.id o.die o.ctx .write o.sup o.dAddr).isSome then { o with sys := true } else o
    match s.eWrite o.id o.die o.ctx o.sup (o.owner s) o.dAddr n v with
    | .ok _ s => .ok 0#64 s (o'.advance n)
    | .wait s => .wait s o
    | .fault va => .fault va
    | .poison pa => .poison pa

/-- The visits of one destination word (R256; log 47). Where the source goes on to a page that faults, the bytes before it are written. -/
def CopyOp.step (o : CopyOp) (s : State) : CStep :=
  let sh := o.sAddr.toNat % 8
  let a := o.sAddr - BitVec.ofNat 64 sh
  let n1 := min o.room (8 - sh)
  match o.srcWord s a with
  | .ok w s o =>
    let v1 := w.toNat / 2 ^ (8 * sh) % 2 ^ (8 * n1)
    if n1 = o.room then o.put s n1 v1
    else
      let a2 := if o.srcSp then BitVec.ofNat 64 (lo32 (a + 8#64)) else a + 8#64
      match o.srcWord s a2 with
      | .ok w2 s o => o.put s o.room (v1 + w2.toNat % 2 ^ (8 * (o.room - n1)) * 2 ^ (8 * n1))
      | .fault _ => o.put s n1 v1
      | x => x
  | x => x

def State.setCopy (s : State) (o : CopyOp) : State := { s with copies := s.copies.map fun c => if c.id == o.id then o else c }
def State.dropCopy (s : State) (o : CopyOp) : State := { s with copies := s.copies.filter fun c => c.id != o.id }

/-- The opcode of a page-5 operation as a record's WHAT gives it (R328): major · 4 + f. -/
def CopyOp.what (o : CopyOp) : Nat := b2n o.multi

/-- A copy ends: its thread or its queue entry learns of it; `fault` is the cause with its resume point and address. -/
def State.copyEnd (s : State) (o : CopyOp) (sc : Scope) (fault : Option (Nat × W64 × W64 × W64)) : State :=
  let s := s.dropCopy o
  match o.ti, o.qent with
  | some ti, _ =>
    let s := s.copyDone ti o.uid sc
    (match fault with
     | some (c, r, fa, x) => if (s.thr ti).uid = o.uid then s.engineFaultTo ti o.uid c o.what o.first r fa x else s
     | none => s)
  | none, some (p, q, i) => (match fault with | some (c, _) => s.queueFault p q (if c = 5 then 5 else 6) i 0 0 | none => s.entDone p q i)
  | none, none => s

/-- Has every write of the copy to a peer been acknowledged (R125)? -/
def State.copyAcked (s : State) (o : CopyOp) : Bool := s.peerq.all fun r => r.owner.uid != o.id

/-- Visit up to n destination words of a copy. What a stopped copy has written completes before it ends (R253). (log 11) -/
def State.copyRun : (n : Nat) → State → CopyOp → State
  | 0, s, o => s.setCopy o
  | n + 1, s, o =>
    if o.visited then
      if o.multi || !s.copyAcked o then s.setCopy o
      else s.copyEnd o (if o.sys then .sys else .die) (o.stop.map fun x => (x.1, x.2.1, x.2.2, 0#64))
    else match o.step s with
      | .ok _ s' o' => State.copyRun n s' o'
      | .wait s' o' => s'.setCopy o'
      | .fault va => State.copyRun n s { o with stop := some (5, BitVec.ofNat 64 (o.row * 2 ^ 32 + o.byte), va) }
      | .poison pa => (match o.ti with
        | some ti => (s.dropCopy o).consume ti pa
        | none => State.copyRun n s { o with stop := some (5, BitVec.ofNat 64 (o.row * 2 ^ 32 + o.byte), BitVec.ofNat 64 pa) })

/-- May the copy go on: it has visited every byte, or it is the one its engine works on, the first still to visit. -/
def State.copyTurn (s : State) (o : CopyOp) : Bool :=
  o.visited || match s.copies.find? fun c => c.die == o.die && c.eng == o.eng && !c.visited with
  | some c => c.id == o.id
  | none => true

/-- Copy ev.q goes on by up to ev.n destination words and completes when every write stands (R256). -/
def execCopyComplete (s : State) : Out :=
  match s.copies.find? fun c => c.id == s.cur.ev.q with
  | some o => .next (if s.copyTurn o then State.copyRun (s.cur.ev.n + 1) s o else s)
  | none => .next s

/-- Do the bytes of a multicast stand at device scope on this device? -/
def State.ownStood (s : State) (o : CopyOp) : Bool := (s.die o.die).sent.all fun x => x.e.owners.all fun w => w.uid != o.id

/-- Member ev.u of COPYM ev.q answers, or (ev.flag) is lost; the last answer completes it (R257). -/
def execCopymMemberAnswer (s : State) : Out :=
  let dev := s.cur.ev.u
  match s.copies.find? fun c => c.id == s.cur.ev.q && c.multi with
  | none => .next s
  | some o =>
    let own := dev == fld (s.part (s.partOf o.die)).devid 0 8
    if !o.visited || !o.await.contains dev || (own && (s.cur.ev.flag || !s.ownStood o)) then .next s
    else
      let s := { s with peerq := s.peerq.filter fun r => !(r.owner.uid == o.id && r.dev == dev) }
      let o := { o with await := o.await.filter (· != dev), lost := if s.cur.ev.flag then o.lost ++ [dev] else o.lost }
      if !o.await.isEmpty then .next (s.setCopy o)
      else match o.stop, o.lost with
        | some x, _ => .next (s.copyEnd o .sys (some (x.1, x.2.1, x.2.2, 0#64)))
        | none, [] => .next (s.copyEnd o .sys none)
        | none, v :: _ => .next (s.copyEnd o .sys (some (7, 0#64, 0#64, BitVec.ofNat 64 v)))

/-! ### Winnow at issue (R259 to R261) -/

def startWin (kind : Nat) (d x t : W64) (empty : Bool) (s : State) : M State := do
  let s ← s.release .die false
  if empty then .ok (s.modMe fun t => { t with doneOps := t.doneOps ++ [.die] }).fall
  else
    let ti := s.me
    let op : WinOp := { id := s.fresh, kind := kind, die := ti.die, ti := ti, uid := s.th.uid, grp := s.myGrp, clu := ti.clu, ctx := ti.ctx, sup := s.th.sup, det := s.th.det
                        first := s.pc0, d := d, s := x, t := t, pos := 0, hdr := none, staged := none, own := 0 }
    let s := { s with winnow := s.winnow ++ [op], fresh := s.fresh + 1 }
    .ok (s.modMe fun t => { t with copies := t.copies + 1 }).fall

/-- An address of a Winnow operation that no page can map raises Translation at issue (R278). -/
def winAddr (va : W64) : M Unit := if 2 ^ 56 ≤ va.toNat then .error (.trap tXlate subEng va) else .ok ()

def doWbin (rd rs rt : Reg) (s : State) : M State := do
  let d := s.reg rd
  ensure ((s.reg rs).toNat % 16 == 0) tAlign (s.reg rs)
  ensure ((s.reg rt).toNat % 64 == 0) tAlign (s.reg rt)
  ensure (fld d 13 51 == 0 && decide (fld d 0 13 ≤ 4096)) tOp s.pc0
  let a ← s.spRun (s.reg rs) (16 * fld d 0 13) 16
  winAddr (s.reg rt)
  startWin 0 d (BitVec.ofNat 64 a) (s.reg rt) false s

def execWbin (rd rs rt : Reg) (s : State) : Out := finish s (doWbin rd rs rt s)

def doWreplay (rd rs rt : Reg) (s : State) : M State := do
  ensure ((s.reg rt).toNat % 64 == 0) tAlign (s.reg rt)
  ensure (fld (s.reg rd) 32 32 == 0 && fld (s.reg rs) 32 32 == 0) tOp s.pc0
  winAddr (s.reg rt)
  startWin 1 (s.reg rd) (s.reg rs) (s.reg rt) (s.reg rd == 0#64) s

def execWreplay (rd rs rt : Reg) (s : State) : Out := finish s (doWreplay rd rs rt s)

def doWclass (rd rs rt : Reg) (s : State) : M State := do
  ensure ((s.reg rs).toNat % 4 == 0) tAlign (s.reg rs)
  ensure ((s.reg rt).toNat % 32 == 0) tAlign (s.reg rt)
  winAddr (s.reg rs)
  winAddr (s.reg rt)
  startWin 2 (s.reg rd) (s.reg rs) (s.reg rt) false s

def execWclass (rd rs rt : Reg) (s : State) : Out := finish s (doWclass rd rs rt s)

/-! ### The Winnow engine at work (R258 to R262) -/

def EAcc.andThen (x : EAcc) (f : Nat → State → EAcc) : EAcc := match x with | .ok v s => f v s | y => y

/-- For whom an engine accesses memory: its number among those that wait for walks, die, context, level, and the owner its writes carry. -/
structure Eng where
  unit  : Nat
  die   : Nat
  ctx   : Nat
  sup   : Bool
  owner : Owner
  deriving DecidableEq, Repr

def WinOp.eng (o : WinOp) (s : State) : Eng := ⟨o.id, o.die, o.ctx, o.sup, ⟨(s.grpD o.grp).launch, o.own⟩⟩

/-- Winnow works on keys of this device alone (R125). -/
def State.wOwn (s : State) (o : Eng) (va : W64) (k : Need) : Bool :=
  match s.xlateEngine o.unit o.die o.ctx va.toNat k o.sup with
  | .ok pa s => (match s.classify (s.partOf o.die) pa with | .dram _ => true | _ => false)
  | _ => true

/-- n bytes at a virtual address, piece by piece within words; `k` bounds the pieces. -/
def State.wRead (s : State) (o : Eng) : (k : Nat) → (va : W64) → (n : Nat) → EAcc
  | 0, _, _ => .ok 0 s
  | k + 1, va, n =>
    if n = 0 then .ok 0 s
    else if !s.wOwn o va .read then .fault va
    else
      let m := min n (8 - va.toNat % 8)
      (s.eRead o.unit o.die o.ctx o.sup va m).andThen fun lo s =>
        (State.wRead s o k (va + BitVec.ofNat 64 m) (n - m)).andThen fun hi s => .ok (lo + hi * 2 ^ (8 * m)) s

/-- REPLACE of n bytes, piece by piece. -/
def State.wWrite (s : State) (o : Eng) : (k : Nat) → (va : W64) → (n v : Nat) → EAcc
  | 0, _, _, _ => .ok 0 s
  | k + 1, va, n, v =>
    if n = 0 then .ok 0 s
    else if !s.wOwn o va .write then .fault va
    else
      let m := min n (8 - va.toNat % 8)
      (s.eWrite o.unit o.die o.ctx o.sup o.owner va m v).andThen fun _ s => State.wWrite s o k (va + BitVec.ofNat 64 m) (n - m) (v / 2 ^ (8 * m))

/-- An indivisible change of one table word at its barn (R181): `f` gives the new word, or none to leave it. The old word. -/
def State.wBarn (s : State) (o : Eng) (va : W64) (f : Nat → Option Nat) : EAcc :=
  match s.xlateEngine o.unit o.die o.ctx va.toNat .write o.sup with
  | .fault _ => .fault va
  | .wait s => .wait s
  | .poison pa _ => .poison pa
  | .ok pa s =>
    match s.classify (s.partOf o.die) pa with
    | .dram lin =>
      if !(s.heldOn ⟨o.die, none⟩ (wordOf pa)).isEmpty then .wait s
      else if s.isPoison lin then .poison pa
      else
        let old := s.dramRead lin 8
        match f old with
        | some v => .ok old ((s.dramWrite lin (leBytes 8 v)).afterBarn o.die (wordOf pa))
        | none => .ok old s
    | _ => .fault va

/-- The position that a raised COUNT has reserved holds undefined bytes when its record cannot be written (R259): free values (log 16), in
the words of it that a page maps. -/
def State.undefAt (s : State) (o : Eng) : (k : Nat) → (va : W64) → (n : Nat) → State
  | 0, _, _ => s
  | k + 1, va, n =>
    if n = 0 then s
    else
      let m := min n (8 - va.toNat % 8)
      let s' := match s.xlateEngine o.unit o.die o.ctx va.toNat .read true with
        | .ok pa s =>
          (match s.classify (s.partOf o.die) pa with
           | .dram _ => (match s.insertRick o.die (replaceEntry pa m (Config.freeWord s.frees).toNat o.ctx o.owner s.clk) with | .ok t => { t with frees := t.frees + 1 } | .error t => t)
           | _ => s)
        | _ => s
      State.undefAt s' o k (va + BitVec.ofNat 64 m) (n - m)

/-- What handling one record, region or row gives. -/
inductive WStep where
  | go (s : State)
  | wait (s : State)
  | stop (s : State) (cause region : Nat) (faddr : W64)
  | poison (s : State) (pa : Nat)
  deriving Repr

/-- A region or class that the manual does not state is a free value (log 20). -/
def State.freeRegion (s : State) : Nat := (Config.freeWord s.frees).toNat % 2 ^ 32

/-- The end of a step that only accesses memory: a fault is cause XLATE on the state before it, to which a wait adds the walk it waits for. -/
def EAcc.wstep (x : EAcc) (s0 : State) : WStep :=
  match x with
  | .ok _ s => .go s
  | .wait t => .wait (s0.keepWalks t)
  | .fault va => .stop s0 5 s0.freeRegion va
  | .poison pa => .poison s0 pa

/-- A header is in order (R259): reserved fields, RSHIFT and WIDTH, NREG. -/
def headerOk (h : List W64) : Bool :=
  let w0 := h.getD 0 0#64
  let w1 := h.getD 1 0#64
  fld w0 56 8 == 0 && fld w1 5 3 == 0 && fld w1 11 21 == 0 && decide (2 ^ (fld w1 0 5 + fld w1 8 2) ≤ 2 ^ 21) && fld w1 32 32 != 0 &&
  fld (h.getD 2 0#64) 40 24 == 0 && fld (h.getD 3 0#64) 32 32 == 0 && (h.drop 4).all (· == 0#64)

def hTarget (h : List W64) : Nat := fld (h.getD 0 0#64) 0 56
def hShift (h : List W64) : Nat := fld (h.getD 1 0#64) 0 5
def hWidth (h : List W64) : Width := Width.ofCode (fld (h.getD 1 0#64) 8 2)
def hBf (h : List W64) : Bool := (h.getD 1 0#64).getLsbD 10
def hNreg (h : List W64) : Nat := fld (h.getD 1 0#64) 32 32

/-- Is a bin record valid for the table (R259)? -/
def recOk (h : List W64) (det : Bool) (r0 : Nat) : Bool :=
  nfld r0 45 19 == 0 &&
  (match kopOf (nfld r0 40 5) with
   | some op => opWidthOk op (hWidth h) && (!hBf h || (hWidth h == .h && floatOp op)) && !(op == .fadd64 && det)
   | none => false)

/-- Append one record (R259). (log 16) -/
def WinOp.binRec (o : WinOp) (s : State) (h : List W64) (r0 r1 : Nat) : WStep :=
  let r := nfld r0 0 40 / 2 ^ hShift h
  if !recOk h o.det r0 || decide (hNreg h ≤ r) then .stop s 2 s.freeRegion 0#64
  else
    let at0 := o.t + BitVec.ofNat 64 (0x40 + 16 * r)
    match s.wRead (o.eng s) 2 at0 8 with
    | .ok base s1 =>
      match s1.wBarn (o.eng s) (at0 + 8#64) fun w => if w % 2 ^ 32 = w / 2 ^ 32 then none else some (w / 2 ^ 32 * 2 ^ 32 + (w % 2 ^ 32 + 1)) with
      | .ok w s2 =>
        let c := w % 2 ^ 32
        if c = w / 2 ^ 32 then .stop s1 1 r 0#64
        else
          match s2.wWrite (o.eng s) 3 (BitVec.ofNat 64 (base + 16 * c)) 16 (r0 + r1 * 2 ^ 64) with
          | .fault va => .stop (s2.undefAt (o.eng s) 3 (BitVec.ofNat 64 (base + 16 * c)) 16) 5 s.freeRegion va
          | x => x.wstep s
      | x => x.wstep s
    | x => x.wstep s

/-- One record of a WBIN, read from scratchpad at this moment. -/
def WinOp.bin (o : WinOp) (s : State) (h : List W64) : WStep :=
  if s.spPoisoned o.grp (o.s.toNat + 16 * o.pos) 16 then .poison s sramPa
  else o.binRec s h (leNat (s.spRead o.grp (o.s.toNat + 16 * o.pos) 8)) (leNat (s.spRead o.grp (o.s.toNat + 16 * o.pos + 8) 8))

/-- The elements a replay has touched, each with the view that its records build. -/
abbrev Touched := List (Nat × View)

/-- Apply the records of a region from k on (R260): an operator fault stops with OPFAULT. R260 names no cause for a record that is not valid for
the table or that belongs to another region: it stops with BADREC, as a WBIN of it would (DESIGN CHOICE, log 16). -/
def WinOp.replayRecs (o : WinOp) (h : List W64) (r base elems : Nat) : (n : Nat) → (k : Nat) → State → Touched → Except WStep (State × Touched)
  | 0, _, s, m => .ok (s, m)
  | n + 1, k, s, m =>
    match s.wRead (o.eng s) 3 (BitVec.ofNat 64 (base + 16 * k)) 16 with
    | .ok rec s =>
      let r0 := rec % 2 ^ 64
      let ix := nfld r0 0 40
      if !recOk h false r0 || ix / 2 ^ hShift h != r then .error (.stop s 2 s.freeRegion 0#64)
      else
        let wd := hWidth h
        let e := mkEntry 0 ((kopOf (nfld r0 40 5)).getD .replace) wd (hBf h) o.ctx 0 (BitVec.ofNat 64 (rec / 2 ^ 64)) [] 0
        let v := (aget? m ix).getD ⟨nfld elems (8 * wd.bytes * (ix % 2 ^ hShift h)) (8 * wd.bytes), []⟩
        match v.applyLane e 0 with
        | .ok v => WinOp.replayRecs o h r base elems n (k + 1) s (aset m ix v)
        | .error _ => .error (.stop s 4 r 0#64)
    | x => .error (x.wstep s)

/-- Write the touched elements back, in increasing index. -/
def WinOp.writeTouched (o : WinOp) (h : List W64) (m : Touched) : List Nat → State → EAcc
  | [], s => .ok 0 s
  | ix :: r, s =>
    let wd := hWidth h
    (s.wWrite (o.eng s) 8 (BitVec.ofNat 64 (hTarget h + ix * wd.bytes)) wd.bytes (laneGet ((aget ⟨0, []⟩ m ix).settle).val 0 wd.bytes)).andThen fun _ s =>
      WinOp.writeTouched o h m r s

/-- Replace the first operation equal to `o`. -/
def State.setWin (s : State) (o o' : WinOp) : State := { s with winnow := s.winnow.replace o o' }
def State.dropWin (s : State) (o : WinOp) : State := { s with winnow := s.winnow.erase o }

/-- Words of a run of bytes. -/
def bytesWords (n v : Nat) : List W64 := (List.range ((n + 7) / 8)).map fun i => BitVec.ofNat 64 (v / 2 ^ (64 * i))

/-- One region of a WREPLAY (R260): its COUNT and its elements are read as R126 folds them, the elements into the loft. -/
def WinOp.stage (o : WinOp) (s : State) (h : List W64) (r : Nat) : WStep :=
  let at0 := o.t + BitVec.ofNat 64 (0x40 + 16 * r)
  match s.wRead (o.eng s) 2 (at0 + 8#64) 4 with
  | .ok w s1 =>
    if w = 0 then .go (s1.setWin o { o with pos := o.pos + 1 })
    else
      let bytes := 2 ^ hShift h * (hWidth h).bytes
      match s1.wRead (o.eng s) (bytes + 1) (BitVec.ofNat 64 (hTarget h + r * bytes)) bytes with
      | .ok elems s1 => .go ((s1.setDie o.die { s1.die o.die with loft := bytesWords bytes elems, loftBad := [] }).setWin o { o with staged := some w })
      | x => x.wstep s
  | x => x.wstep s

/-- The records of the staged region are applied, the touched elements written, and COUNT becomes 0 at the barn (R260). -/
def WinOp.replay (o : WinOp) (s : State) (h : List W64) : WStep :=
  let r := lo32 o.s + o.pos
  if hNreg h ≤ r then .stop s 3 s.freeRegion 0#64
  else match o.staged with
    | none => o.stage s h r
    | some w =>
      let at0 := o.t + BitVec.ofNat 64 (0x40 + 16 * r)
      if !(s.die o.die).loftBad.isEmpty then .poison s sramPa
      else
        match s.wRead (o.eng s) 2 at0 8 with
        | .ok base s1 =>
          match o.replayRecs h r base (wordsNat (s.die o.die).loft) w 0 s1 [] with
          | .error (.stop _ c g fa) => .stop s c g fa
          | .error (.wait t) => .wait (s.keepWalks t)
          | .error x => x
          | .ok (s1, m) =>
            match o.writeTouched h m ((m.map (·.1)).foldl (fun a i => ninsert i a) []) s1 with
            | .ok _ s2 =>
              let s2 := s2.setWin o { o with pos := o.pos + 1, staged := none }
              (s2.wBarn (o.eng s) (at0 + 8#64) fun w => some (w / 2 ^ 32 * 2 ^ 32)).wstep s
            | x => x.wstep s
        | x => x.wstep s

/-- A whole region in one step, as a tile runs it (R281): staged, then replayed. -/
def WinOp.replayTile (o : WinOp) (s : State) (h : List W64) : WStep :=
  match o.replay s h with
  | .go s1 =>
    let r := lo32 o.s + o.pos
    match s.wRead (o.eng s) 2 (o.t + BitVec.ofNat 64 (0x48 + 16 * r)) 4 with
    | .ok w _ => if w = 0 then .go s1 else { o with staged := some w }.replay s1 h
    | x => x.wstep s
  | x => x

/-- The class of a row's length (R261). -/
def rowClass (l : Nat) : Nat := if l ≤ 2 then 0 else if l ≤ 8 then 1 else if l ≤ 32 then 2 else if l ≤ 128 then 3 else 4

/-- One row of a WCLASS (R261). -/
def WinOp.sort (o : WinOp) (s : State) : WStep :=
  match s.wRead (o.eng s) 2 (o.s + BitVec.ofNat 64 (4 * o.pos)) 4 with
  | .ok a s1 =>
    match s1.wRead (o.eng s) 2 (o.s + BitVec.ofNat 64 (4 * o.pos + 4)) 4 with
    | .ok b s1 =>
      if b < a then .stop s 6 s.freeRegion 0#64
      else if a = b then (s1.wBarn (o.eng s) o.t fun w => some ((w + 1) % 2 ^ 64)).wstep s
      else
        let c := rowClass (b - a)
        let at0 := o.t + BitVec.ofNat 64 (0x10 + 16 * c)
        match s1.wRead (o.eng s) 2 at0 8 with
        | .ok base s1 =>
          match s1.wBarn (o.eng s) (at0 + 8#64) fun w => if w % 2 ^ 32 = w / 2 ^ 32 then none else some (w / 2 ^ 32 * 2 ^ 32 + (w % 2 ^ 32 + 1)) with
          | .ok w s2 =>
            if w % 2 ^ 32 = w / 2 ^ 32 then .stop s1 1 c 0#64
            else
              match s2.wWrite (o.eng s) 4 (BitVec.ofNat 64 (base + 4 * (w % 2 ^ 32))) 4 ((fld o.d 32 32 + o.pos) % 2 ^ 32) with
              | .fault va => .stop (s2.undefAt (o.eng s) 2 (BitVec.ofNat 64 (base + 4 * (w % 2 ^ 32))) 4) 5 s.freeRegion va
              | x => x.wstep s
          | x => x.wstep s
        | x => x.wstep s
    | x => x.wstep s
  | x => x.wstep s

/-- How many records, regions or rows the operation has. -/
def WinOp.total (o : WinOp) : Nat := match o.kind with | 0 => fld o.d 0 13 | _ => lo32 o.d

/-- The table's words that say how the operation ended (R258, R261): NEXT with CAUSE, and REGION or CLASS. The table's code of BADROW is 2. -/
def WinOp.report (o : WinOp) (s : State) (next cause : Nat) (region : Option Nat) : EAcc :=
  if o.kind = 2 then
    match region with
    | some c => s.wWrite (o.eng s) 2 (o.t + 8#64) 8 (next + (if cause = 6 then 2 else cause) * 2 ^ 32 + c % 8 * 2 ^ 40)
    | none => s.wWrite (o.eng s) 2 (o.t + 8#64) 5 (next + cause * 2 ^ 32)
  else
    (s.wWrite (o.eng s) 2 (o.t + 0x10#64) 8 (next + cause * 2 ^ 32)).andThen fun _ s =>
      match region with
      | some r => s.wWrite (o.eng s) 2 (o.t + 0x18#64) 8 (r % 2 ^ 32)
      | none => .ok 0 s

/-- The page-5 opcode a Winnow record names (R328). -/
def WinOp.what (o : WinOp) : Nat := 4 + o.kind

/-- The operation ends: completion, or an engine fault with its cause. -/
def State.winEnd (s : State) (o : WinOp) (fault : Option (Nat × W64)) : State :=
  let s := (s.dropWin o).copyDone o.ti o.uid .die
  match fault with
  | some (c, fa) => if (s.thr o.ti).uid = o.uid then s.engineFaultTo o.ti o.uid c o.what o.first (BitVec.ofNat 64 o.pos) fa o.t else s
  | none => s

/-- Stop with a cause: the table is written, then the fault is raised (R259, R261). A table that cannot be written leaves XLATE; one that has
to wait keeps the operation at its stop. -/
def State.winStop (s : State) (o : WinOp) (cause region : Nat) (faddr : W64) : State :=
  match o.report s o.pos cause (some region) with
  | .ok _ s' => ({ s' with frees := s'.frees + 1 }).winEnd o (some (cause, faddr))
  | .wait t => ((s.keepWalks t).setWin o { o with halt := some (cause, region, faddr) }).wantMerge (.rick o.die)
  | .fault va => s.winEnd o (some (5, va))
  | .poison pa => (s.dropWin o).consume o.ti pa

/-- Read the header once (R259): its eight words. -/
def WinOp.readHeader (o : WinOp) (s : State) : WStep :=
  match s.wRead (o.eng s) 9 o.t 64 with
  | .ok v s' => .go (s'.setWin o { o with hdr := some ((List.range 8).map fun i => BitVec.ofNat 64 (v / 2 ^ (64 * i))) })
  | x => x.wstep s

/-- One record or row. -/
def WinOp.step (o : WinOp) (s : State) (h : List W64) : WStep := match o.kind with | 0 => o.bin s h | _ => o.sort s

/-- The operation at the head of a die's Winnow queue. -/
def State.winHead (s : State) (d : Nat) : Option WinOp := s.winnow.find? fun o => o.die == d

/-- Up to n steps of the operation at the head. -/
def State.winRun : (n : Nat) → State → (d : Nat) → State
  | 0, s, _ => s
  | n + 1, s, d =>
    match s.winHead d with
    | none => s
    | some o =>
      let r : WStep := match o.halt, o.hdr with
        | some (c, g, fa), _ => .stop s c g fa
        | none, none => if o.kind = 2 then .go (s.setWin o { o with hdr := some [] }) else o.readHeader s
        | none, some h =>
          if o.kind != 2 && !headerOk h then .stop s 3 s.freeRegion 0#64
          else if o.total ≤ o.pos then
            match o.report s o.pos 0 none with
            | .ok _ s' => .go (s'.winEnd o none)
            | x => x.wstep s
          else if o.kind = 1 then o.replay s h
          else match o.step s h with
            | .go s' => .go (s'.setWin o { o with pos := o.pos + 1 })
            | x => x
      match r with
      | .go s' => State.winRun n s' d
      | .wait s' => s'.wantMerge (.rick d)
      | .stop s' c g fa => s'.winStop o c g fa
      | .poison s' pa => (s'.dropWin o).consume o.ti pa

/-- The Winnow engine of die ev.die goes on by up to ev.n records, regions or rows; its operation completes or stops (R259 to R261). -/
def execWinnowComplete (s : State) : Out := .next (State.winRun (s.cur.ev.n + 1) s s.cur.ev.die)

end Sys2Proof.Machine
end

