-- ==== Sys2Proof/Machine/Ferry.lean ====
section
/-!
DEFINITION. Ferry.lean: FERRY and its calls (R263 to R266), RSEND and the reply (R267), IXRED at issue (R271), SLCTL (R277), and the
events that carry calls and messages.
-/
namespace Sys2Proof

/-- A peer's FERRY call. -/
def PeerReq.isFerry : PeerReq → Bool | .ferryReed .. => true | .ferryClu .. => true | _ => false

end Sys2Proof

namespace Sys2Proof.Machine
open Sys2Proof

/-! ### The unit nearest an address (R263) -/

/-- A unit of this device by its key, or of a peer. -/
inductive Near where
  | own (pa : Nat)
  | peer (dev key : Nat)
  deriving DecidableEq, Repr

/-- Does a physical address lie in a retired pseudo-channel, whose units refuse work (R361)? -/
def State.inRetired (s : State) (p pa : Nat) : Bool :=
  match linOf pa with
  | some lin => (s.reed (lin / 2 ^ 31)).retired && nbit (s.part p).pdies.toNat (lin / 2 ^ 37) && decide (lin % 2 ^ 31 < s.lim (lin / 2 ^ 31))
  | none => false

/-- Translate the address that names a unit; host memory and device registers name none (R252). A retired pseudo-channel still names
its units, which refuse the work (R361). -/
def State.nearest (s : State) (va : W64) : M (Near × State) := do
  let (pa, s') ← s.xlate va .read subEng
  match s.classify (s.pOf s.me) pa with
  | .dram _ => .ok (.own pa, s')
  | .peer d o => if s.reaches (s.pOf s.me) d then .ok (.peer d o, s') else trap tPhys va
  | .host _ _ => trap tOp s.pc0
  | .steading o => if 0x10000000 ≤ o then trap tPhys va else trap tOp s.pc0
  | .none => if s.inRetired (s.pOf s.me) pa then .ok (.own pa, s') else trap tPhys va

/-- A unit that can refuse nothing: its pseudo-channel must be populated. -/
def State.nearOk (s : State) (nr : Near) (va : W64) : M Unit :=
  match nr with | .own pa => ensure (!s.inRetired (s.pOf s.me) pa) tPhys va | .peer _ _ => .ok ()

/-- The start release of a Reed or Sluice operation (R126); toward a peer at system scope (R124), and the peer applies what still
stands short of the barn when the request arrives there. -/
def State.nearRelease (s : State) : Near → M State
  | .own pa => s.barnRelease (chanOf pa)
  | .peer _ _ => s.release .sys false

/-- w16 to w23. -/
def Thread.high8 (t : Thread) : List W64 := (List.range 8).map fun i => t.reg (BitVec.ofNat 5 (16 + i))

/-! ### FERRY -/

/-- FERRY at issue (R264, R265; log 51). Toward a cluster its release covers every earlier update, a peer's keys at system scope
(R126). -/
def doFerry (cl tt : Bool) (rd rs rt : Reg) (s : State) : M State := do
  ensure (!(decide (16 ≤ rd.toNat) && decide (rd.toNat < 24))) tIllegal s.pc0
  s.notHandler
  let entry := (s.reg rt).toNat
  let (nr, s) ← s.nearest (s.reg rs)
  ensure (entry % 2 == 0 && decide (entry < (if cl then 2 ^ 56 else 0x2000))) tOp s.pc0
  let _ ← if cl then s.nearOk nr (s.reg rs) else .ok ()
  let s ← if cl then s.release .sys false else s.nearRelease nr
  let ti := s.me
  let id := s.th.callCtr.toNat
  let c : Call := { ti := ti, uid := s.th.uid, rd := rd.toNat, tt := tt, id := id, cl := cl
                    tgt := match nr with | .own pa => (if cl then homeDie pa * 96 + chanOf pa % 64 else chanOf pa) | .peer _ o => o
                    peer := match nr with | .own _ => none | .peer d _ => some d
                    entry := entry, pay := s.th.high8, src := s.srcOf ti, ctx := ti.ctx, sends := 1
                    inFly := match nr with | .own _ => [false] | .peer _ _ => [], reply := none, ended := false }
  let s := match nr with
    | .own _ => s
    | .peer d o => s.toStream ti d (if cl then .ferryClu o entry id false c.src c.pay else .ferryReed o entry id false c.src c.pay) true
  let s := { s with calls := s.calls ++ [c] }
  .ok ((s.modMe fun t => { t with callCtr := t.callCtr + 1 }).waitMe .engine)

def execFerry (cl tt : Bool) (rd rs rt : Reg) (s : State) : Out := finish s (doFerry cl tt rd rs rt s)

/-- The call a thread waits for. -/
def State.callOf (s : State) (ti : SlotId) : Option Call := s.calls.find? fun c => c.ti == ti && !c.ended && c.uid == (s.thr ti).uid
def State.setCall (s : State) (c c' : Call) : State := { s with calls := s.calls.replace c c' }

/-- Write eight words from a register on. -/
def Thread.setRegs (t : Thread) (r : Nat) : List W64 → Thread
  | [] => t
  | v :: vs => (t.setReg (BitVec.ofNat 5 r) v).setRegs (r + 1) vs

/-- FERRY returns (R264): the acquire, the registers, or IllegalOperation under `.t`. -/
def State.callEnd (s : State) (c : Call) (status : Nat) (pay : List W64) : State :=
  let s := { s with calls := if c.inFly.isEmpty then s.calls.erase c else s.calls.replace c { c with ended := true }
                    peerq := s.peerq.filter fun r => !(r.req.isFerry && r.ti == some c.ti && r.owner.uid == c.uid) }
  let ti := c.ti
  if (s.thr ti).uid != c.uid || !(s.thr ti).live then s
  else
    let s := s.acqAt ti .dev
    if c.tt && status % 256 != 0 then s.threadTrap ti tOp 0 (s.thr ti).pc (s.thr ti).pc (s.thr ti).pc
    else
      let s := match status % 256 with
        | 0 => s.modThr ti fun t => t.setRegs 16 pay
        | 1 => s.modThr ti fun t => t.setRegs 16 (pay.take 2)
        | _ => s
      (s.modThr ti fun t => t.setReg (BitVec.ofNat 5 c.rd) (BitVec.ofNat 64 (status % 2 ^ 16))).fallOf ti

/-- The 20 us timer of thread ev.ti's call runs out (R265): the call is sent again, or returns UNKNOWN after 16 sends. -/
def execFerryRetransmit (s : State) : Out :=
  match s.callOf s.cur.ev.ti with
  | none => .next s
  | some c =>
    if 16 ≤ c.sends then .next (s.callEnd c 2 [])
    else match c.peer with
      | none => .next (s.setCall c { c with sends := c.sends + 1, inFly := c.inFly ++ [true] })
      | some d =>
        let s := s.setCall c { c with sends := c.sends + 1 }
        .next (s.toStream c.ti d (if c.cl then .ferryClu c.tgt c.entry c.id true c.src c.pay else .ferryReed c.tgt c.entry c.id true c.src c.pay) true)

/-- A reply reaches thread ev.ti, or (ev.flag) is lost on the way. A peer's reply is ev.ws: the status and p0 to p7. -/
def execFerryReply (s : State) : Out :=
  match s.callOf s.cur.ev.ti with
  | none => .next s
  | some c =>
    let reply := match c.peer with
      | none => c.reply
      | some _ => (match s.cur.ev.ws with | st :: pay => if pay.length = 8 then some (st.toNat % 2 ^ 16, pay) else none | [] => none)
    match reply with
    | none => .next s
    | some (st, pay) => .next (if s.cur.ev.flag then s.setCall c { c with reply := none } else s.callEnd c st pay)

/-! ### At the target (R265, R266) -/

def zero8 : List W64 := List.replicate 8 0#64

/-- A call arrives at a Reed core from its sender `snd`, who is none where a peer sent it: none when it waits in the fabric
for room in channel 15's queue (R269). -/
def State.arriveReed (s : State) (q src ctx id entry : Nat) (pay : List W64) (retr : Bool) (snd : Option (SlotId × Nat)) : Option State :=
  let r := s.reed q
  let k := srcKey src ctx
  match idState r.ids k id with
  | some (.finished st p) => some (s.sendReply src ctx id st p)
  | some .active => some s
  | x =>
    if x.isNone && retr then some (s.sendReply src ctx id 2 zero8)
    else if r.retired || !nbit (r.table.getD 15 0) 17 || (if entry < 4096 then r.ov0.isNone else r.ov1.isNone) then
      some ((s.setReedId q k id (.finished 3 zero8)).sendReply src ctx id 3 zero8)
    else if 8 ≤ (r.queue.filter fun m => m.chan == 15).length then none
    else
      let s := s.setReedId q k id .active
      let m : Msg := { kind := 0, q := q, chan := 15, src := src, ctx := ctx, id := id, entry := entry, pay := pay, ti := snd.map Prod.fst, uid := (snd.map Prod.snd).getD 0, qent := none, first := 0#64, tile := none }
      some (s.setReed q { s.reed q with queue := (s.reed q).queue ++ [m] })

/-- A call arrives at a cluster's queue for slot 14. -/
def State.arriveClu (s : State) (d cl src ctx id entry : Nat) (pay : List W64) (retr : Bool) : State :=
  let h := s.half d cl ctx
  let k := srcKey src ctx
  match idState h.ids k id with
  | some (.finished st p) => s.sendReply src ctx id st p
  | some .active => s
  | x =>
    if x.isNone && retr then s.sendReply src ctx id 2 zero8
    else if (s.cluster d cl).reserved then
      (s.setHalf d cl ctx { h with ids := setIdState h.ids k id (.finished 3 zero8) }).sendReply src ctx id 3 zero8
    else if h.calls.length < 16 then
      s.setHalf d cl ctx { h with ids := setIdState h.ids k id .active, calls := h.calls ++ [⟨src, id, ctx, entry, pay⟩] }
    else s.setHalf d cl ctx { h with ids := setIdState h.ids k id .dropped }

/-- The first copy under way of thread ev.ti's call arrives at its target. -/
def execFerryCallArrive (s : State) : Out :=
  match s.calls.find? fun c => c.ti == s.cur.ev.ti && !c.inFly.isEmpty with
  | none => .next s
  | some c =>
    let c' := { c with inFly := c.inFly.drop 1 }
    let s' := { s with calls := if c'.ended && c'.inFly.isEmpty then s.calls.erase c else s.calls.replace c c' }
    let retr := c.inFly.headD false
    if c.cl then .next (s'.arriveClu (c.tgt / 96) (c.tgt % 96) c.src c.ctx c.id c.entry c.pay retr)
    else match s'.arriveReed c.tgt c.src c.ctx c.id c.entry c.pay retr (some (c.ti, c.uid)) with
      | some s'' => .next s''
      | none => .next s

/-- The first waiting call of context ev.ctx on cluster (ev.die, ev.clu) takes slot 14 of the lowest core where it is empty (R266; log 72).
The handler runs with DET = 0: it belongs to no group, and a call carries no DET (R58, R264,
R266). DESIGN CHOICE, log 73. -/
def execFerrySlotDispatch (s : State) : Out :=
  let e := s.cur.ev
  let h := s.half e.die e.clu e.ctx
  let slot (k : Nat) : SlotId := ⟨e.die, e.clu, e.ctx, k, 14⟩
  match h.calls, (List.range 4).find? fun k => !(s.thr (slot k)).live with
  | c :: rest, some k =>
    let ti := slot k
    if !s.rotating ti || (s.cx ti).halted || (s.cx ti).saved then .next s
    else
      let s := s.setHalf e.die e.clu e.ctx { h with calls := rest }
      let t := { Thread.zero with live := true, kind := .ferryH, uid := s.fresh, pc := BitVec.ofNat 64 c.entry, call := some (c.src, c.id) }
      .next ((s.setThr ti ((t.setRegs 0 c.pay).setReg 8#5 (BitVec.ofNat 64 c.src))).newId)
  | _, _ => .next s

/-! ### RSEND, IXRED, SLCTL of a thread -/

/-- Send a message to a Reed channel (R267, R271): a Reed start, counted in COPIES. -/
def State.startMsg (s : State) (nr : Near) (kind chan : Nat) (pay : List W64) : M State := do
  let s ← s.nearRelease nr
  let ti := s.me
  let s := match nr with
    | .peer d o => s.toStream ti d (.message o chan (s.srcOf ti) pay) true
    | .own pa =>
      let m : Msg := { kind := kind, q := chanOf pa, chan := chan, src := s.srcOf ti, ctx := ti.ctx, id := s.fresh, entry := 0, pay := pay, ti := some ti, uid := s.th.uid
                       qent := none, first := s.pc0, tile := none }
      { s with msgs := s.msgs ++ [m], fresh := s.fresh + 1 }
  .ok (s.modMe fun t => { t with copies := t.copies + 1 }).fall

def doRsend (rs rt : Reg) (s : State) : M State := do
  ensure (s.th.kind != .ferryH) tOp s.pc0
  let ch := (s.reg rt).toNat
  let (nr, s) ← s.nearest (s.reg rs)
  ensure (decide (ch < 14)) tOp s.pc0
  s.startMsg nr 1 ch s.th.high8

def execRsend (rs rt : Reg) (s : State) : Out := finish s (doRsend rs rt s)

/-- RSEND in a ferry-slot handler: the reply (R267). -/
def doRsendReply (s : State) : M State := do
  ensure (s.th.kind == .ferryH) tOp s.pc0
  if s.th.loads + s.th.updates + s.th.copies + s.th.tiles ≠ 0 then hold s
  else
    let s ← s.release .dev false
    .ok (s.endFerryH s.me 0 ((List.range 8).map fun i => s.th.reg (BitVec.ofNat 5 i)))

def execRsendReply (s : State) : Out := finish s (doRsendReply s)

/-! ### IXRED's command (R271) -/

def ixIdx (c : Nat) (i : Nat) : Nat := nfld c (24 * i) 24
def ixBase (c : Nat) : Nat := nfld c 384 32
def ixN (c : Nat) : Nat := nfld c 416 5
def ixLen (c : Nat) : Nat := nfld c 424 5
def ixOut (c : Nat) : Nat := nfld c 448 32
def ixDone (c : Nat) : Nat := nfld c 480 32

/-- Every field within its bound, and the reserved ones 0. -/
def ixOk (c : Nat) : Bool :=
  ixBase c % 64 == 0 && decide (1 ≤ ixN c) && decide (ixN c ≤ 16) && nfld c 421 3 == 0 && decide (1 ≤ ixLen c) && decide (ixLen c ≤ 16) &&
  nfld c 429 19 == 0 && ixOut c % 8 == 0 && ixDone c % 8 == 0

def doIxred (rs rt : Reg) (s : State) : M State := do
  let a ← s.spAt (s.reg rs) 64 64
  if s.spPoisoned s.myGrp a 64 then hold (s.consume s.me sramPa) else
  let c := leNat (s.spRead s.myGrp a 64)
  ensure (ixOk c) tOp s.pc0
  let (nr, s) ← s.nearest (s.reg rt)
  s.startMsg nr 2 14 (leWords 8 (leBytes 64 c))

def execIxred (rs rt : Reg) (s : State) : Out := finish s (doIxred rs rt s)

/-! ### SLCTL (R277, R311) -/

/-- The status word of a unit (R276, R310). -/
def Sluice.status (u : Sluice) : W64 :=
  BitVec.ofNat 64 (b2n u.busy + b2n u.susp * 2 + u.endc % 4 * 4 + u.upc % 16 * 16 + b2n u.nv * 2 ^ 8 + b2n u.of * 2 ^ 9 + b2n u.uf * 2 ^ 10 + b2n u.nx * 2 ^ 11 +
    u.iter % 65536 * 2 ^ 16)

/-- 256 words whose contents are not kept: free values (log 20). -/
def freeWords (n : Nat) : List Nat := (List.range 256).map fun i => (Config.freeWord (n + i)).toNat

/-- ABORT: a busy unit stops between two micro-ops with its accumulators discarded; an idle one is left unchanged. -/
def State.sluAbort (s : State) (q g : Nat) : State :=
  let u := s.sluice q g
  if u.busy then
    let s := s.setSluice q g { u with busy := false, susp := false, win := false, endc := 3, a0 := freeWords s.frees, a1 := freeWords (s.frees + 256) }
    { s with frees := s.frees + 512 }
  else s

def doSlctl (abort : Bool) (rd rs rt : Reg) (s : State) : M State := do
  let (nr, s) ← s.nearest (s.reg rs)
  let _ ← s.nearOk nr (s.reg rs)
  ensure (fld (s.reg rt) 0 2 == b2n abort) tOp s.pc0
  let s ← s.nearRelease nr
  match nr with
  | .own pa =>
    let q := chanOf pa
    let g := (linOf pa).getD 0 / 2048 % 4
    let s := if abort then s.sluAbort q g else s
    .ok ((s.acqAt s.me .dev).setReg rd (s.sluice q g).status).fall
  | .peer d o =>
    let (ws, s) ← s.askPeer d (.slctl o abort) false
    .ok ((s.acqAt s.me .dev).setReg rd (ws.headD 0#64)).fall

def execSlctlStatus (rd rs rt : Reg) (s : State) : Out := finish s (doSlctl false rd rs rt s)
def execSlctlAbort (rd rs rt : Reg) (s : State) : Out := finish s (doSlctl true rd rs rt s)

end Sys2Proof.Machine
end

