-- ==== Sys2Proof/Machine/Reed.lean ====
section
/-!
DEFINITION. Reed.lean: Reed tasks and their channels (R268 to R270), IXRED's execution (R272), the Sluice instructions (R276) and
the Sluice units' micro-ops (R273 to R275, R309, R310).
-/
namespace Sys2Proof.Machine
open Sys2Proof

/-- The pseudo-channel of the Reed core that issues. -/
def State.rq (s : State) : Nat := match s.cur.who with | .reed q => q | _ => 0

/-! ### The task table (R269) -/

def tabEntry (e : Nat) : Nat := nfld e 0 13
def tabPrio (e : Nat) : Nat := nfld e 14 2
def tabBlocked (e : Nat) : Bool := nbit e 16
def tabEnabled (e : Nat) : Bool := nbit e 17

def Reed.chan (r : Reed) (c : Nat) : Nat := r.table.getD c 0

/-- Message number ev.n of those on their way to pseudo-channel ev.q arrives. One sender's messages keep their order (R123, R269). -/
def execReedMessageArrive (s : State) : Out :=
  let q := s.cur.ev.q
  let ms := s.msgs.filter fun m => m.q == q
  match ms[s.cur.ev.n]? with
  | none => .next s
  | some m =>
    let r := s.reed q
    if (ms.take s.cur.ev.n).any fun x => x.src == m.src && x.ti == m.ti && x.qent.isSome == m.qent.isSome then .next s
    else if r.retired || !tabEnabled (r.chan m.chan) then .next ({ s with msgs := s.msgs.erase m }.msgEnd m true)
    else if 8 ≤ (r.queue.filter fun x => x.chan == m.chan).length then .next s
    else .next ({ s with msgs := s.msgs.erase m }.setReed q { r with queue := r.queue ++ [m] })

/-- The channel that is dispatched next: the highest PRIO, then the lowest number. -/
def Reed.nextChan (r : Reed) : Option Nat :=
  (List.range 16).foldl (fun best c =>
    let e := r.chan c
    if tabEnabled e && !tabBlocked e && r.queue.any (fun m => m.chan == c) then
      match best with
      | none => some c
      | some b => if tabPrio (r.chan b) < tabPrio e then some c else best
    else best) none

/-- Reed core ev.q dispatches a message (R269). -/
def execReedDispatch (s : State) : Out :=
  let q := s.cur.ev.q
  let r := s.reed q
  match r.task, r.nextChan with
  | none, some c =>
    match r.queue.find? fun m => m.chan == c with
    | none => .next s
    | some m =>
      let e := (m.pay.zipIdx).foldl (fun e x => vset e x.2 x.1) r.e
      let e := vset e 8 (BitVec.ofNat 64 (m.src % 2 ^ 24 + c * 2 ^ 24))
      let r := { r with queue := r.queue.erase m, task := some m, wait := Phase.zero
                        pc := BitVec.ofNat 64 (if c = 15 then m.entry else tabEntry (r.chan c)), e := if c = 14 then r.e else e }
      .next (s.setReed q r)
  | _, _ => .next s

/-! ### Page-7 task instructions (R270) -/

/-- Set BLOCKED of the channel a register names. -/
def setBlocked (b : Bool) (rs : Reg) (s : State) : M State := do
  let c := (s.reg rs).toNat
  ensure (decide (c < 16)) tOp s.pc0
  let r := s.reed s.rq
  let e := r.chan c
  let e' := if b then e ||| 2 ^ 16 else e - b2n (nbit e 16) * 2 ^ 16
  .ok (s.setReed s.rq { r with table := lset r.table c e' }).fall

def execTkset (rs : Reg) (s : State) : Out := finish s (setBlocked true rs s)
def execTkclr (rs : Reg) (s : State) : Out := finish s (setBlocked false rs s)

/-- TKEND: a FERRY task replies OK with e0 to e7, any other completes its sender. -/
def execTkend (s : State) : Out :=
  let q := s.rq
  let r := s.reed q
  match r.task with
  | none => .next s.fall
  | some m =>
    let s := s.setReed q { r with task := none, wait := Phase.zero }
    if m.kind = 0 then
      .next ((s.setReedId q (srcKey m.src m.ctx) m.id (.finished 0 r.low8)).sendReply m.src m.ctx m.id 0 r.low8)
    else .next (s.msgEnd m false)

/-- Bytes of the core's own pseudo-channel: Alignment, PhysicalAddress, poison (R268, R364). -/
def State.reedBytes (s : State) (q : Nat) (o : W64) (n : Nat) : M (List Byte) := do
  ensure (o.toNat % n == 0) tAlign o
  ensure (decide (o.toNat + n ≤ s.lim q) && !(s.reed q).retired) tPhys o
  let lin := q * 2 ^ 31 + o.toNat
  match (List.range (n / 8)).find? fun i => s.isPoison (lin + 8 * i) with
  | some i => hold (s.reedConsume q (bankBase + lin + 8 * i))
  | none => .ok (s.mem.readN lin n)

/-- OVSWAP (R270). The slot that holds the running instruction is that of its first byte, also where it straddles both (DESIGN CHOICE, log 13). -/
def doOvswap (rs rt : Reg) (s : State) : M State := do
  let q := s.rq
  let bs ← s.reedBytes q (s.reg rt) 4096
  let n := (s.reg rs).toNat
  ensure (decide (n < 2) && s.pc0.toNat / 4096 != n) tOp s.pc0
  let s := s.class0s (q * 2 ^ 31 + (s.reg rt).toNat) 4096
  let r := s.reed q
  .ok (s.setReed q (if n = 0 then { r with ov0 := some bs } else { r with ov1 := some bs })).fall

def execOvswap (rs rt : Reg) (s : State) : Out := finish s (doOvswap rs rt s)

/-! ### IXRED_EXECUTE (R272) -/

/-- The sum of the indexed rows' element j as a code of FP32. -/
def State.ixSum (s : State) (q c j : Nat) : Nat :=
  let rb := 32 * ixLen c
  let cell := (List.range (ixN c)).foldl (fun x i =>
    (x.add (cellOf ff16 (s.dramRead (q * 2 ^ 31 + ixBase c + ixIdx c i * rb + 2 * j) 2))).1) Cell.zero
  cell.round ff32

/-- The DRAM words a command reads. -/
def ixWords (q c : Nat) : List Nat :=
  (List.range (ixN c)).flatMap fun i => (List.range (4 * ixLen c)).map fun k => q * 2 ^ 31 + ixBase c + ixIdx c i * (32 * ixLen c) + 8 * k

/-- End the Reed core's running command. -/
def State.ixEnd (s : State) (q : Nat) (m : Msg) (fault : Bool) : State :=
  (s.setReed q { s.reed q with task := none, wait := Phase.zero }).msgEnd m fault

/-- The command's bytes as a number. -/
def Msg.command (m : Msg) : Nat := leNat (wordsBytes m.pay)

/-- Write the result row as barn states, or report status 2; then wait to fill DONE. -/
def State.ixWork (s : State) (q c : Nat) : State :=
  let rb := 32 * ixLen c
  let lim := s.lim q
  let bad := (List.range (ixN c)).any (fun i => decide (lim < ixBase c + ixIdx c i * rb + rb)) || decide (lim < ixOut c + 2 * rb)
  let s := if bad then s
    else s.dramWrite (q * 2 ^ 31 + ixOut c) ((List.range (16 * ixLen c)).flatMap fun j => leBytes 4 (s.ixSum q c j))
  let s := if bad then s
    else { s with poison := s.poison.filter fun w => decide (w < (q * 2 ^ 31 + ixOut c) / 8) || decide ((q * 2 ^ 31 + ixOut c + 2 * rb) / 8 ≤ w) }
  let s := if bad then s else ((ixWords q c) ++ [q * 2 ^ 31 + ixOut c]).foldl State.class0 s
  let r := s.reed q
  s.setReed q { r with wait := { r.wait with stage := 1, aux := if bad then 2 else 0 } }

/-- The IXRED command that runs on Reed core ev.q goes on: its row, then the FILL of DONE, which waits for the word to be empty. -/
def execIxredExecute (s : State) : Out :=
  let q := s.cur.ev.q
  let r := s.reed q
  match r.task with
  | none => .next s
  | some m =>
    if m.chan ≠ 14 then .next s
    else
      let c := m.command
      let lim := s.lim q
      if lim < ixDone c + 8 then .next (s.ixEnd q m true)
      else
        let bad := (List.range (ixN c)).any (fun i => decide (lim < ixBase c + ixIdx c i * (32 * ixLen c) + 32 * ixLen c)) || decide (lim < ixOut c + 64 * ixLen c)
        match (if r.wait.stage = 0 && !bad then (ixWords q c).find? s.isPoison else none) with
        | some lin =>
          .next ((s.senderConsume m (bankBase + lin)).ixEnd q m true)
        | none =>
          let s := if r.wait.stage = 0 then s.ixWork q c else s
          let lin := q * 2 ^ 31 + ixDone c
          if s.isFull lin then .next s
          else .next (((s.barnFill lin (BitVec.ofNat 64 ((s.reed q).wait.aux + ixN c * 256))).wakeWord lin).ixEnd q m false)

/-! ### Sluice instructions (R276) -/

/-- A register that names a unit, with its other bits 0. -/
def unitOf (x : W64) : M Nat := if x.toNat < 4 then .ok x.toNat else .error (.trap tOp 0 0#64)

/-- Trap IllegalOperation at the instruction. -/
def opHere {α : Type} (s : State) (m : M α) : M α := match m with | .error (.trap c n _) => .error (.trap c n s.pc0) | x => x

def doSluld (rs rt : Reg) (s : State) : M State := do
  let q := s.rq
  let bs ← s.reedBytes q (s.reg rt) 32
  let g ← opHere s (unitOf (s.reg rs))
  let u := s.sluice q g
  ensure (!u.busy) tOp s.pc0
  let s := s.class0 (q * 2 ^ 31 + (s.reg rt).toNat)
  .ok (s.setSluice q g { u with prog := (List.range 16).map fun i => leNat ((bs.drop (2 * i)).take 2) }).fall

def execSluld (rs rt : Reg) (s : State) : Out := finish s (doSluld rs rt s)

def doSlugo (rs rt : Reg) (s : State) : M State := do
  let q := s.rq
  let x := s.reg rs
  let bs ← s.reedBytes q (s.reg rt) 32
  ensure (fld x 2 14 == 0 && fld x 32 32 == 0) tOp s.pc0
  let g := fld x 0 2
  let u := s.sluice q g
  ensure (!u.busy) tOp s.pc0
  let w (i : Nat) : BitVec 32 := BitVec.ofNat 32 (leNat ((bs.drop (4 * i)).take 4))
  let u := { u with p := (List.range 4).map w, sc := (List.range 4).map fun i => w (4 + i), count := fld x 16 16, iter := 0, upc := 0
                    busy := fld x 16 16 != 0, susp := false, endc := 0, nv := false, of := false, uf := false, nx := false, win := false }
  let s := s.class0 (q * 2 ^ 31 + (s.reg rt).toNat)
  .ok (s.setSluice q g u).fall

def execSlugo (rs rt : Reg) (s : State) : Out := finish s (doSlugo rs rt s)

def doSluwt (rs : Reg) (s : State) : M State := do
  let g ← opHere s (unitOf (s.reg rs))
  if (s.sluice s.rq g).busy then hold s else .ok s.fall

def execSluwt (rs : Reg) (s : State) : Out := finish s (doSluwt rs s)

def doSlurd (rd rs : Reg) (s : State) : M State := do
  let g ← opHere s (unitOf (s.reg rs))
  .ok (s.setReg rd (s.sluice s.rq g).status).fall

def execSlurd (rd rs : Reg) (s : State) : Out := finish s (doSlurd rd rs s)

/-! ### Micro-ops (R273) -/

/-- The unit that executes. -/
def State.slu (s : State) : Nat × Nat := match s.cur.who with | .sluice q g => (q, g) | _ => (0, 0)
def State.setSlu (s : State) (u : Sluice) : State := s.setSluice s.slu.1 s.slu.2 u
def State.unit (s : State) : Sluice := s.sluice s.slu.1 s.slu.2

/-- Stop with an END code; UPC names the micro-op that stopped it (R310). -/
def Sluice.stop (u : Sluice) (e : Nat) : Sluice := { u with busy := false, susp := false, win := false, endc := e }
/-- The micro-PC advances; micro-op 15 has no successor. -/
def Sluice.advance (u : Sluice) : Sluice := if u.upc = 15 then u.stop 1 else { u with upc := u.upc + 1 }

def sluFmt (f : BitVec 2) : EFmt := match f.toNat with | 0 => .f32 | 1 => .f16 | 2 => .bf16 | _ => .i32

def Sluice.acc (u : Sluice) (a : BitVec 1) : List Nat := (List.range 256).map fun i => (if a = 0#1 then u.a0 else u.a1).getD i 0
def Sluice.setAcc (u : Sluice) (a : BitVec 1) (v : List Nat) : Sluice := if a = 0#1 then { u with a0 := v } else { u with a1 := v }

/-- Every lane of n bytes of two words. -/
def lanes2 (n : Nat) (f : Nat → Nat → Nat × Flags) (x y : Nat) : Nat × Flags :=
  (List.range (8 / n)).foldl (fun r i =>
    let (v, fl) := f (laneGet x (n * i) n) (laneGet y (n * i) n)
    (laneSet r.1 (n * i) n v, r.2 ||| fl)) (0, Flags.no)

/-- Replace accumulator a by an elementwise result, flags ORed into the status. -/
def Sluice.elementwise (u : Sluice) (f : EFmt) (a b : BitVec 1) (op : Nat → Nat → Nat × Flags) : Sluice :=
  let rs := ((u.acc a).zip (u.acc b)).map fun x => lanes2 f.bytes op x.1 x.2
  let fl := if f.isInt then Flags.no else rs.foldl (fun w r => w ||| r.2) Flags.no
  { u.setAcc a (rs.map (·.1)) with
    nv := u.nv || fl &&& Flags.NV != Flags.no, of := u.of || fl &&& Flags.OF != Flags.no
    uf := u.uf || fl &&& Flags.UF != Flags.no, nx := u.nx || fl &&& Flags.NX != Flags.no }

/-- a · S with S a code of FP32; INT32 reads its 32 bits. -/
def sluMul (f : EFmt) (sc a : Nat) : Nat × Flags :=
  if f.isInt then elMul f .rne false a sc else floatResult f .rne false ((f.ff.value a).mul (ff32.value sc))
/-- a + b · S, one rounding. -/
def sluFma (f : EFmt) (sc a b : Nat) : Nat × Flags :=
  if f.isInt then elFma f .rne false b sc a
  else
    let p := (f.ff.value b).mul (ff32.value sc)
    let r := p.1.add .rne (f.ff.value a)
    floatResult f .rne false (r.1, p.2 ||| r.2)

def Sluice.scalar (u : Sluice) (n : BitVec 2) : Nat := (u.sc.getD n.toNat 0#32).toNat
def Sluice.row (u : Sluice) (n : BitVec 2) : Nat := (u.p.getD n.toNat 0#32).toNat

/-- The DRAM byte of a row of the unit's bank group, none when R273 calls it out of range. -/
def State.sluRow (s : State) (q g r : Nat) : Option Nat :=
  if r < 163840 ∧ r * 8192 + g * 2048 + 2048 ≤ s.lim q ∧ (s.reed q).retired = false then some (q * 2 ^ 31 + r * 8192 + g * 2048) else none

def execSluNop (_ : SluF) (s : State) : Out := .next (s.setSlu s.unit.advance)

/-- RLD; a poisoned word stops the unit, and the running task's sender consumes it (R364; log 28). -/
def execRld (x : SluF) (s : State) : Out :=
  let u := s.unit
  let (q, g) := s.slu
  match s.sluRow q g (u.row x.n) with
  | none => .next (s.setSlu (u.stop 2))
  | some lin =>
    match (List.range 256).find? fun i => s.isPoison (lin + 8 * i) with
    | some i =>
      let s := s.setSlu (u.stop 3)
      .next (match (s.reed q).task with
        | some m => s.senderConsume m (bankBase + lin + 8 * i)
        | none => s)
    | none =>
      let u := (u.setAcc x.a ((List.range 256).map fun i => s.dramRead (lin + 8 * i) 8)).advance
      .next (s.setSlu { u with win := u.busy })

/-- RST: the row's words become the accumulator's, whole; their barn cells go (R275). -/
def execRst (x : SluF) (s : State) : Out :=
  let u := s.unit
  let (q, g) := s.slu
  match s.sluRow q g (u.row x.n) with
  | none => .next (s.setSlu (u.stop 2))
  | some lin =>
    let s := s.dramWrite lin ((u.acc x.a).flatMap fun w => leBytes 8 w)
    let s := { s with poison := s.poison.filter fun w => decide (w < lin / 8) || decide (lin / 8 + 256 ≤ w) }
    .next (s.setSlu { u.advance with win := u.advance.busy })

def execSluVadd (x : SluF) (s : State) : Out :=
  .next (s.setSlu (s.unit.elementwise (sluFmt x.fmt) x.a x.b (elAdd (sluFmt x.fmt) .rne false)).advance)
def execVmuls (x : SluF) (s : State) : Out :=
  let u := s.unit
  .next (s.setSlu (u.elementwise (sluFmt x.fmt) x.a x.a (fun a _ => sluMul (sluFmt x.fmt) (u.scalar x.n) a)).advance)
def execVfmas (x : SluF) (s : State) : Out :=
  let u := s.unit
  .next (s.setSlu (u.elementwise (sluFmt x.fmt) x.a x.b (sluFma (sluFmt x.fmt) (u.scalar x.n))).advance)
def execPinc (x : SluF) (s : State) : Out :=
  let u := s.unit
  .next (s.setSlu { u with p := lset u.p x.n.toNat (u.p.getD x.n.toNat 0#32 + x.imm.signExtend 32) }.advance)
def execSluLoop (_ : SluF) (s : State) : Out :=
  let u := s.unit
  let u := { u with iter := u.iter + 1 }
  .next (s.setSlu (if u.iter < u.count then { u with upc := 0 } else u.stop 0))
def execSluEnd (_ : SluF) (s : State) : Out := .next (s.setSlu (s.unit.stop 0))

/-- Is the next micro-op a row step: RLD or RST as they decode, and no undefined word? -/
def Sluice.rowStep (u : Sluice) : Bool := match decodeSluice (u.prog.getD u.upc 0) with | some (.rld _) => true | some (.rst _) => true | _ => false

/-- The unit looks for class-0 requests to its bank group and suspends where it finds one (R309). -/
def State.findAsked (s : State) (q g : Nat) : State :=
  let s := s.setSluice q g { s.sluice q g with win := false, susp := s.asked.contains (q, g) }
  { s with asked := s.asked.filter fun k => k != (q, g) }
/-- The two occasions on which a unit that runs finds a request: at the end of the window after a row step, or before a row step begins
(R274, R309). -/
def State.looksNow (s : State) (q g : Nat) : Bool :=
  let u := s.sluice q g
  u.busy && !u.susp && (u.win || (u.rowStep && s.asked.contains (q, g)))

/-- The window of the unit (ev.q, ev.u) ends, or a row step of it is about to begin. -/
def execSluiceWindow (s : State) : Out :=
  let e := s.cur.ev
  .next (if s.looksNow e.q e.u then s.findAsked e.q e.u else s)

/-- A suspended unit goes on at its next micro-op once the bank group's queue has been empty for 32 ns, which is not yet so with
ev.flag (R274, R309; log 6). -/
def execSluiceResume (s : State) : Out :=
  let e := s.cur.ev
  if e.flag then .next s
  else .next (s.setSluice e.q e.u { s.sluice e.q e.u with susp := false })

end Sys2Proof.Machine
end

