-- ==== Sys2Proof/Machine/Tilth.lean ====
section
/-!
DEFINITION. Tilth.lean: records (R279 to R284), TISSUE and its status block (R285 to R287), tiles and tickets (R288 to R293), what a
tile computes (R281, R282), and how faults roll up (R294 to R298).
-/
namespace Sys2Proof.Machine
open Sys2Proof

/-! ### A record's fields (R279): `r` is the record as a 256-bit number -/

def tlOp (r : Nat) : Nat := nfld r 0 4
def fmtOf (n : Nat) : EFmt := match n with | 0 => .f32 | 1 => .f16 | 2 => .bf16 | 3 => .fe4 | 4 => .fe5 | 5 => .q4x | 6 => .i8 | _ => .i32
def tlA (r : Nat) : EFmt := fmtOf (nfld r 4 3)
def tlB (r : Nat) : EFmt := fmtOf (nfld r 7 3)
def tlC (r : Nat) : EFmt := fmtOf (nfld r 10 3)
def tlAcc (r : Nat) : Bool := nbit r 13
def tlFwd (r : Nat) : Bool := nbit r 14
def tlDev (r : Nat) : Nat := nfld r 15 8
def tlXop (r : Nat) : Nat := nfld r 23 5
def tlM (r : Nat) : Nat := nfld r 32 24
def tlN (r : Nat) : Nat := nfld r 56 20
def tlK (r : Nat) : Nat := nfld r 76 20
def tlAa (r : Nat) : Nat := nfld r 96 50 * 64
def tlBa (r : Nat) : Nat := nfld r 146 50 * 64
def tlCa (r : Nat) : Nat := nfld r 196 50 * 64
def tlVal (r : Nat) : Nat := nfld r 146 32

/-- A record that runs tiles on clusters. -/
def tlCluster (op : Nat) : Bool := (decide (1 ≤ op) && decide (op ≤ 4)) || (decide (7 ≤ op) && decide (op ≤ 11))
def tlMatrix (op : Nat) : Bool := op == 1 || op == 2

/-- May clusters of a kind claim the record's tiles (R281, R221)? -/
def kindOk (r : Nat) (wide : Bool) : Bool :=
  if tlMatrix (tlOp r) then weightOk wide (tlB r) && actOk wide (tlA r) && (tlOp r != 2 || decide (tlK r ≤ (if wide then 64 else 128)))
  else true

def isQ4x (f : EFmt) : Bool := match f with | .q4x => true | _ => false
/-- Is a row length whole blocks, if the format is .q4x (R280)? -/
def rowLenOk (f : EFmt) (l : Nat) : Bool := !isQ4x f || l % 32 == 0

/-- What the Tilth reservation must hold for the record: slots, and bytes per bank (R292). -/
def tlNeed (r : Nat) : Nat × Nat :=
  if !tlCluster (tlOp r) then (0, 0)
  else if tlMatrix (tlOp r) then
    let narrow := kindOk r false
    (if tlOp r = 1 then (if narrow then 3 else 2) else if narrow then 5 else 4, 0x10000)
  else (0, 0x10000)

/-- The record's own checks (R281, R282, R284; log 48). The Causeway table of R284 is taken to number devices 0 to 191: a higher DEV is BADREC
(DESIGN CHOICE, log 62). -/
def recordOk (r : Nat) : Bool :=
  let op := tlOp r
  let m := tlM r
  let n := tlN r
  let k := tlK r
  let fmt0 := nfld r 4 9 == 0
  let one3 := m != 0 && n != 0 && k != 0
  let one2 := m != 0 && n != 0
  nfld r 28 4 == 0 && nfld r 246 10 == 0 && (!tlAcc r || op == 1) && !(tlFwd r && op == 13) && !(tlFwd r && decide (191 < tlDev r)) &&
  (match op with
   | 0 => fmt0 && tlXop r == 0 && nfld r 32 64 == 0 && nfld r 96 150 == 0
   | 1 => one3 && tlXop r == 0 && (kindOk r false || kindOk r true) && rowLenOk (tlB r) k && (match tlC r with | .f32 => true | .f16 => true | .bf16 => true | _ => false)
   | 2 => one3 && tlXop r == 0 && (kindOk r false || kindOk r true) && rowLenOk (tlB r) k && (match tlC r with | .f32 => true | .f16 => true | .bf16 => true | _ => false)
   | 3 => one3 && tlXop r == 0 && !isQ4x (tlA r) && tlC r == tlA r
   | 4 => one3 && tlC r == tlA r && (match kopOf (tlXop r) with | some o => vupdOk o (tlA r) | none => false)
   | 5 => fmt0 && tlXop r == 0 && m != 0 && n == 0 && k == 0 && nfld r 146 50 == 0
   | 6 => fmt0 && tlXop r == 0 && n != 0 && k == 0 && nfld r 96 100 == 0
   | 7 => one2 && k == 0 && nfld r 146 50 == 0 && tlC r == tlA r && tlXop r != 0 && (match kopOf (tlXop r) with | some o => vupdOk o (tlA r) | none => false)
   | 8 => one2 && k == 0 && decide (tlXop r ≤ 5) && tlA r == tlB r && tlB r == tlC r &&
      (match tlA r with | .f32 => true | .f16 => true | .bf16 => true | .i8 => true | .i32 => true | _ => false)
   | 9 => fmt0 && tlXop r == 0 && one2 && (k == 0 || decide (n ≤ k)) && nfld r 146 50 == 0
   | 10 => one2 && k == 0 && decide (tlXop r ≤ 4) && tlA r != tlC r && rowLenOk (tlA r) n && rowLenOk (tlC r) n && nfld r 146 50 == 0
   | 11 => one2 && k == 0 && tlXop r == 0 && !isQ4x (tlC r) && nfld r 96 50 == 0
   | 12 => fmt0 && tlXop r == 0 && m != 0 && decide (16 ≤ n) && decide (n ≤ 256) && n % 16 == 0 && decide (1 ≤ k) && decide (k ≤ 16)
   | 13 => fmt0 && tlXop r == 0 && nfld r 32 64 == 0 && nfld r 96 150 == 0
   | 14 => fmt0 && tlXop r == 0 && nfld r 32 64 == 0 && nfld r 96 50 == 0
   | _ => false)

/-! ### How a record is cut (R289) -/

/-- Columns of a tile. -/
def tlW (r : Nat) : Nat :=
  match tlOp r with
  | 1 => (match tlB r with | .bf16 => 64 | .f16 => 64 | _ => 128)
  | 2 => (match tlB r with | .bf16 => 64 | .f16 => 64 | _ => 128)
  | 3 => tlN r
  | 4 => tlN r
  | 9 => tlN r
  | _ => 256

/-- Column blocks. -/
def tlTC (r : Nat) : Nat := (tlN r + tlW r - 1) / tlW r

/-- Tiles of a record. -/
def tlTiles (r : Nat) : Nat :=
  match tlOp r with
  | 0 => 0
  | 5 => (tlM r + 4095) / 4096
  | 6 => tlN r
  | 12 => tlM r
  | 13 => 0
  | 14 => 0
  | _ => (tlM r + 31) / 32 * tlTC r

/-- Rows and columns of tile t: first and count of each. -/
def tileRows (r t : Nat) : Nat × Nat := let i := t / tlTC r * 32; (i, min 32 (tlM r - i))
def tileCols (r t : Nat) : Nat × Nat := let j := t % tlTC r * tlW r; (j, min (tlW r) (tlN r - j))

/-! ### A tile's work -/

/-- How a tile stops; a wait leaves only the walks of its state. -/
inductive TStop where
  | wait (s : State)
  | fault (cause faddr part : Nat)
  | poison (pa : Nat)
  /-- a Winnow stop that keeps what it has done -/
  | winnow (s : State) (part faddr : Nat)
  deriving Repr

abbrev TM := StateT State (Except TStop)

def tstop {α : Type} (x : TStop) : TM α := fun _ => .error x

/-- An engine access inside a tile: a fault is XLATE (R294). -/
def liftE (f : State → EAcc) : TM Nat := fun s =>
  match f s with
  | .ok v s => .ok (v, s)
  | .wait s => .error (.wait s)
  | .fault va => .error (.fault 2 va.toNat 0)
  | .poison pa => .error (.poison pa)

def tRead (e : Eng) (va n : Nat) : TM Nat := liftE fun s => s.wRead e (n + 1) (BitVec.ofNat 64 va) n

/-- An update of a tile enters the executing die's rick run, or waits for room behind the tile's earlier ones (R287). -/
def tInsert (e : Eng) (x : Entry) : TM Unit := fun s =>
  if s.late.any fun y => y.1 == e.unit then .ok ((), { s with late := s.late ++ [(e.unit, x)] })
  else match s.insertRick e.die x with
    | .ok s => .ok ((), s)
    | .error s => .ok ((), { s with late := s.late ++ [(e.unit, x)] })

/-- Where a tile's update of one word goes: a key of this device, or XLATE (R125, R294). -/
def tKey (e : Eng) (va : Nat) : TM Nat := fun s =>
  match s.xlateEngine e.unit e.die e.ctx va .write e.sup with
  | .fault _ => .error (.fault 2 va 0)
  | .wait s => .error (.wait s)
  | .poison pa _ => .error (.poison pa)
  | .ok pa s => (match s.classify (s.partOf e.die) pa with | .dram _ => .ok (pa, s) | _ => .error (.fault 2 va 0))

/-- REPLACE of n bytes, piece by piece within words. -/
def tWriteGo (e : Eng) : (k : Nat) → (va n v : Nat) → TM Unit
  | 0, _, _, _ => pure ()
  | k + 1, va, n, v => do
    if n = 0 then pure ()
    else
      let pa ← tKey e va
      let m := min n (8 - va % 8)
      tInsert e (replaceEntry pa m v e.ctx e.owner (← get).clk)
      tWriteGo e k (va + m) (n - m) (v / 2 ^ (8 * m))
def tWrite (e : Eng) (va n v : Nat) : TM Unit := tWriteGo e (n + 1) va n v

/-- A keyed update of one element into the executing die's rick run (R287). `cell` replaces an FSUM entry's cell. -/
def tUpdate (e : Eng) (va : Nat) (op : KOp) (wd : Width) (bf : Bool) (v : Nat) (cell : Option Cell) : TM Unit := do
  let pa ← tKey e va
  let x := mkEntry pa op wd bf e.ctx 0 (BitVec.ofNat 64 v) [e.owner] (← get).clk
  tInsert e (match cell with | some c => { x with cell := c } | none => x)

/-- The element codes of a segment of a row: row i, columns j to j + n − 1, of a tensor with rows of l elements. -/
def tRow (e : Eng) (base l : Nat) (f : EFmt) (i j n : Nat) : TM (List Nat) := do
  let v ← tRead e (base + (i * l + j) * f.bytes) (n * f.bytes)
  pure ((List.range n).map fun c => nfld v (8 * f.bytes * c) (8 * f.bytes))

/-- The Q4X blocks of a segment. -/
def tBlocks (e : Eng) (base l i j n : Nat) : TM (List Nat) := do
  let v ← tRead e (base + (i * (l / 32) + j / 32) * 18) (n / 32 * 18)
  pure ((List.range (n / 32)).map fun b => nfld v (144 * b) 144)

/-- A segment's exact values, and FORMAT if a block is malformed. -/
def tValues (e : Eng) (base l : Nat) (f : EFmt) (ftz : Bool) (i j n : Nat) : TM (List Num × Bool) :=
  match f with
  | .q4x => do
    let bs ← tBlocks e base l i j n
    pure (bs.flatMap (fun b => (q4xDecode b).1), bs.any fun b => (q4xDecode b).2)
  | f => do
    let cs ← tRow e base l f i j n
    pure (cs.map (elemValue f ftz), false)

/-- Write element codes. -/
def tPut (e : Eng) (base l : Nat) (f : EFmt) (i j : Nat) (codes : List Nat) : TM Unit :=
  tWrite e (base + (i * l + j) * f.bytes) (codes.length * f.bytes) (leNat (codes.flatMap (leBytes f.bytes)))

/-- Do something for every row of a list, gathering flags. -/
def tEach (is : List Nat) (f : Nat → TM Flags) : TM Flags :=
  is.foldlM (fun fl i => do let x ← f i; pure (fl ||| x)) Flags.no

/-- Read every one of a list. -/
def tAll {α : Type} (f : Nat → TM α) : List Nat → TM (List α)
  | [] => pure []
  | i :: r => do
    let x ← f i
    let xs ← tAll f r
    pure (x :: xs)

def rangeFrom (i n : Nat) : List Nat := (List.range n).map (i + ·)

/-- An output row of FP32 codes, converted by R234. -/
def outCodes (f : EFmt) (codes : List Nat) : List Nat × Flags :=
  codes.foldl (fun x c =>
    let (v, fl) := match f with | .f32 => (c, Flags.no) | f => f.ff.round .rne false (ff32.value c)
    (x.1 ++ [v], x.2 ||| fl)) ([], Flags.no)

/-- TGEMM (R281): every element by MatAcc over the whole of K. -/
def tileGemm (e : Eng) (r t : Nat) : TM Flags := do
  let (i0, ni) := tileRows r t
  let (j0, nj) := tileCols r t
  let k := tlK r
  let ws ← tAll (fun n => tValues e (tlBa r) k (tlB r) false n 0 k) (rangeFrom j0 nj)
  let fl ← tEach (rangeFrom i0 ni) fun m => do
    let (a, _) ← tValues e (tlAa r) k (tlA r) false m 0 k
    let xs ← if tlAcc r then tRow e (tlCa r) (tlN r) (tlC r) m j0 nj else pure (List.replicate nj 0)
    let codes := (ws.zip xs).map fun w =>
      matAcc (if tlAcc r then (ff32.round .rne false ((tlC r).ff.value w.2)).1 else 0) (products a w.1.1)
    let (out, fl) := outCodes (tlC r) codes
    tPut e (tlCa r) (tlN r) (tlC r) m j0 out
    pure fl
  pure (fl ||| Flags.when (ws.any (·.2)) Flags.FORMAT)

/-- The bytes of a number. -/
def numBytes (n v : Nat) : List Byte := leBytes n v

/-- A dendritic bundle as it was read; R283 gives its addresses no alignment, and none is asked for (DESIGN CHOICE, log 48): WADDR, CADDR, BWADDR, the configuration, and the curve tables that it names. -/
def tBundle (e : Eng) (r : Nat) : TM (Nat × Nat × Nat × List Byte × List (Nat × List Byte)) := do
  let v ← tRead e (tlBa r) 224
  let cfg := numBytes 160 (nfld v 512 1280)
  let used := if mdOk cfg (tlK r) then ((List.range (mdB cfg)).map fun b => bytesAt cfg (16 + b) 1 % 16).eraseDups else []
  let cs ← tAll (fun c => do let x ← tRead e (nfld v 64 56 + curveLen * c) curveLen; pure (c, numBytes curveLen x)) used
  pure (nfld v 0 56, nfld v 64 56, nfld v 128 56, if nfld v 56 8 == 0 && nfld v 120 8 == 0 && nfld v 184 328 == 0 then cfg else [], cs)

/-- Is the bundle as R283 requires? -/
def bundleOk (r : Nat) (cfg : List Byte) (cs : List (Nat × List Byte)) : Bool :=
  !cfg.isEmpty && mdOk cfg (tlK r) && cs.all fun c => curveOk c.2

/-- TDEND (R240, R281). -/
def tileDend (e : Eng) (r t : Nat) : TM Flags := do
  let (i0, ni) := tileRows r t
  let (j0, nj) := tileCols r t
  let k := tlK r
  let (wa, _, ba, cfg, cs) ← tBundle e r
  let curve (c : Nat) : List Byte := aget (List.replicate curveLen 0#8) cs c
  let ws ← tAll (fun n => do
    let w ← tValues e wa k (tlB r) false n 0 k
    let b ← tRead e (ba + 64 * n) 64
    pure (w, numBytes 64 b)) (rangeFrom j0 nj)
  let fl ← tEach (rangeFrom i0 ni) fun m => do
    let (a, _) ← tValues e (tlAa r) k (tlA r) false m 0 k
    let codes := ws.map fun w => (mdColumn cfg w.2 curve k 0 (products a w.1.1)).1
    let (out, fl) := outCodes (tlC r) codes
    tPut e (tlCa r) (tlN r) (tlC r) m j0 out
    pure fl
  pure (fl ||| Flags.when (ws.any (·.1.2)) Flags.FORMAT)

/-- The UINT32 index of row m, below a bound (R282). -/
def tIndex (e : Eng) (base bound m : Nat) : TM Nat := do
  let x ← tRead e (base + 4 * m) 4
  if x < bound then pure x else tstop (.fault 3 0 0)

def tileGather (e : Eng) (r t : Nat) : TM Flags := do
  let (i0, ni) := tileRows r t
  let n := tlN r
  let f := tlA r
  let ix ← tAll (tIndex e (tlBa r) (tlK r)) (rangeFrom i0 ni)
  tEach (List.range ni) fun i => do
    let v ← tRead e (tlAa r + ix.getD i 0 * n * f.bytes) (n * f.bytes)
    tWrite e (tlCa r + (i0 + i) * n * f.bytes) (n * f.bytes) v
    pure Flags.no

/-- TSCATTER (R282; log 18). -/
def tileScatter (e : Eng) (r t : Nat) : TM Flags := do
  let (i0, ni) := tileRows r t
  let n := tlN r
  let f := tlA r
  let op := (kopOf (tlXop r)).getD .replace
  let ix ← tAll (tIndex e (tlBa r) (tlK r)) (rangeFrom i0 ni)
  tEach (List.range ni) fun i => do
    let cs ← tRow e (tlAa r) n f (i0 + i) 0 n
    let _ ← tEach (List.range n) fun j => do
      tUpdate e (tlCa r + (ix.getD i 0 * n + j) * f.bytes) op (vupdWidth f) (f == .bf16) (cs.getD j 0) none
      pure Flags.no
    pure Flags.no

/-- The partial of a row under an operator (R282): its value, or an FSUM's cell. -/
def rowPartial (op : KOp) (f : EFmt) (cs : List Nat) : Nat × Option Cell :=
  let wd := vupdWidth f
  let bf := f == .bf16
  match op with
  | .fsum => (0, some (cs.foldl (fun c x => (c.add (cellOf (laneFF wd bf) x)).1) Cell.zero))
  | _ =>
    let snan := match op with | .fmin => cs.find? fun x => ((laneFF wd bf).value x).sig | .fmax => cs.find? fun x => ((laneFF wd bf).value x).sig | _ => none
    match snan, cs with
    | some x, _ => (x, none)
    | none, [] => (0, none)
    | none, c :: r => (r.foldl (fun a x => match laneOp op wd bf a x with | .ok v => v | .error _ => a) c, none)

def tileReduce (e : Eng) (r t : Nat) : TM Flags := do
  let (i0, ni) := tileRows r t
  let (j0, nj) := tileCols r t
  let f := tlA r
  let op := (kopOf (tlXop r)).getD .iadd
  tEach (rangeFrom i0 ni) fun m => do
    let cs ← tRow e (tlAa r) (tlN r) f m j0 nj
    let (v, c) := rowPartial op f cs
    tUpdate e (tlCa r + m * f.bytes) op (vupdWidth f) (f == .bf16) v c
    pure Flags.no

/-- One element of TEWISE. -/
def ewise (x : Nat) (f : EFmt) (ftz : Bool) (a b c : Nat) : Nat × Flags :=
  match x with
  | 0 => elAdd f .rne ftz a b
  | 1 => elSub f .rne ftz a b
  | 2 => elMul f .rne ftz a b
  | 3 => elMinMax false f ftz a b
  | 4 => elMinMax true f ftz a b
  | _ => elFma f .rne ftz a b c

def tileEwise (e : Eng) (ftz : Bool) (r t : Nat) : TM Flags := do
  let (i0, ni) := tileRows r t
  let (j0, nj) := tileCols r t
  let f := tlA r
  tEach (rangeFrom i0 ni) fun m => do
    let as ← tRow e (tlAa r) (tlN r) f m j0 nj
    let bs ← tRow e (tlBa r) (tlN r) f m j0 nj
    let cs ← if tlXop r = 5 then tRow e (tlCa r) (tlN r) f m j0 nj else pure (List.replicate nj 0)
    let out := (List.range nj).map fun j => ewise (tlXop r) f ftz (as.getD j 0) (bs.getD j 0) (cs.getD j 0)
    tPut e (tlCa r) (tlN r) f m j0 (out.map (·.1))
    pure (out.foldl (fun x o => x ||| o.2) Flags.no)

def tileCopy (e : Eng) (r t : Nat) : TM Flags := do
  let (i0, ni) := tileRows r t
  let n := tlN r
  let k := if tlK r = 0 then n else tlK r
  tEach (rangeFrom i0 ni) fun i => do
    let v ← tRead e (tlAa r + i * n) n
    tWrite e (tlCa r + i * k) n v
    pure Flags.no

def rndOf (n : Nat) : Rnd := match n with | 0 => .rne | 1 => .rtz | 2 => .rup | 3 => .rdn | _ => .sat

def tileCvt (e : Eng) (ftz : Bool) (r t : Nat) : TM Flags := do
  let (i0, ni) := tileRows r t
  let (j0, nj) := tileCols r t
  let rnd := rndOf (tlXop r)
  tEach (rangeFrom i0 ni) fun m => do
    let (vs, bad) ← tValues e (tlAa r) (tlN r) (tlA r) ftz m j0 nj
    let bf := Flags.when bad Flags.FORMAT
    match tlC r with
    | .q4x =>
      let bs := (List.range (nj / 32)).map fun b => q4xEncode ((vs.drop (32 * b)).take 32) rnd
      tWrite e (tlCa r + (m * (tlN r / 32) + j0 / 32) * 18) (nj / 32 * 18) (leNat (bs.flatMap fun b => leBytes 18 b.1))
      pure (bs.foldl (fun x b => x ||| b.2) bf)
    | f =>
      let out := vs.map fun v => let (c, fl) := cvtTo f rnd ftz v; (c, if tlA r == EFmt.fe4 && v.isNan then Flags.no else fl)
      tPut e (tlCa r) (tlN r) f m j0 (out.map (·.1))
      pure (out.foldl (fun x o => x ||| o.2) bf)

def tileFill (e : Eng) (r t : Nat) : TM Flags := do
  let (i0, ni) := tileRows r t
  let (j0, nj) := tileCols r t
  let f := tlC r
  tEach (rangeFrom i0 ni) fun m => do
    tPut e (tlCa r) (tlN r) f m j0 (List.replicate nj (tlVal r % 2 ^ (8 * f.bytes)))
    pure Flags.no

/-- The physical address of a tile's access; a fault is XLATE (R294). -/
def tPa (e : Eng) (k : Need) (va : Nat) : TM Nat :=
  liftE fun s => match s.xlateEngine e.unit e.die e.ctx va k e.sup with
    | .ok pa s => .ok pa s | .fault _ => .fault (BitVec.ofNat 64 va) | .wait s => .wait s | .poison p _ => .poison p

/-- TPOOL: one bag, summed by the Reed core of B's pseudo-channel (R272, R281); every word of the output row is translated before any
is written (R294). -/
def tilePool (e : Eng) (r t : Nat) : TM Flags := do
  let n := tlN r
  let ix ← tAll (fun i => tIndex e (tlAa r + 4 * t * tlK r) (2 ^ 24) i) (List.range (tlK r))
  let b ← tPa e .read (tlBa r)
  let cs ← tAll (tPa e .write) ((List.range (n / 2)).map fun j => tlCa r + 4 * n * t + 8 * j)
  fun s =>
    let q := chanOf b
    let cmd := ((ix.zipIdx).foldl (fun x i => x + i.1 * 2 ^ (24 * i.2)) 0) + (b - bankBase) % 2 ^ 31 * 2 ^ 384 + tlK r * 2 ^ 416 + n / 16 * 2 ^ 424
    let lim := s.lim q
    if (List.range (ixN cmd)).any (fun i => decide (lim < ixBase cmd + ixIdx cmd i * (2 * n) + 2 * n)) then .error (.fault 5 0 0)
    else match (ixWords q cmd).find? s.isPoison with
      | some lin => .error (.poison (bankBase + lin))
      | none =>
        .ok (Flags.no, (cs.zipIdx).foldl (fun (t : State) c =>
          let lin := (linOf c.1).getD 0
          (t.dramWrite lin (leBytes 4 (s.ixSum q cmd (2 * c.2)) ++ leBytes 4 (s.ixSum q cmd (2 * c.2 + 1)))).setPoison lin false) ((ixWords q cmd).foldl State.class0 s))

/-- A Winnow tile as an operation of the engine (R259, R260). -/
def tileWin (e : Eng) (u : Tissue) (r t part : Nat) : WinOp :=
  { id := e.unit, kind := if tlOp r = 5 then 0 else 1, die := e.die, ti := u.ti, uid := u.uid, grp := u.grp, clu := 0, ctx := u.ctx, sup := u.sup, det := u.det, first := u.first
    d := BitVec.ofNat 64 (if tlOp r = 5 then min 4096 (tlM r - 4096 * t) else 1), s := BitVec.ofNat 64 (if tlOp r = 5 then 0 else tlM r + t)
    t := BitVec.ofNat 64 (tlCa r), pos := part, hdr := none, staged := none, own := u.id }

/-- Records of a TBIN tile from number k on. -/
def tileBinFrom (e : Eng) (o : WinOp) (h : List W64) (src : Nat) : (n : Nat) → (k : Nat) → State → WStep × Nat
  | 0, k, s => (.go s, k)
  | n + 1, k, s =>
    match s.wRead e 3 (BitVec.ofNat 64 (src + 16 * k)) 16 with
    | .ok v s' =>
      match o.binRec s' h (v % 2 ^ 64) (v / 2 ^ 64) with
      | .go s'' => tileBinFrom e o h src n (k + 1) s''
      | x => (x, k)
    | x => (x.wstep s, k)

/-- A Winnow tile: all of it in one step; a stop writes the table and reports WINNOW with PART (R294). -/
def tileWinnow (e : Eng) (u : Tissue) (r t part : Nat) : TM Flags := fun s =>
  let o := tileWin e u r t part
  match s.wRead (o.eng s) 9 o.t 64 with
  | .wait t => .error (.wait t)
  | .poison pa => .error (.poison pa)
  | .fault va => .error (.fault 4 va.toNat part)
  | .ok v s =>
    let h := (List.range 8).map fun i => BitVec.ofNat 64 (v / 2 ^ (64 * i))
    let (x, k) : WStep × Nat :=
      if !headerOk h then (.stop s 3 s.freeRegion 0#64, part)
      else if tlOp r = 5 then tileBinFrom e o h (tlAa r + 16 * 4096 * t) (fld o.d 0 13 - part) part s
      else (o.replayTile s h, 0)
    match x with
    | .wait t => .error (.wait t)
    | .poison _ pa => .error (.poison pa)
    | .stop s' c g fa =>
      (match o.report s' k c (some g) with
       | .ok _ s'' => .error (.winnow { s'' with frees := s''.frees + 1 } k fa.toNat)
       | .wait t => .error (.wait t)
       | .fault va => .error (.winnow s' k va.toNat)
       | .poison pa => .error (.poison pa))
    | .go s' =>
      (match o.report s' (if tlOp r = 5 then k else 1) 0 none with
       | .ok _ s'' => .ok (Flags.no, s'')
       | .wait t => .error (.wait t)
       | .fault va => .error (.winnow s' k va.toNat)
       | .poison pa => .error (.poison pa))

/-- One tile of a record, at the executing die. -/
def tileRun (e : Eng) (u : Tissue) (r t part : Nat) : TM Flags :=
  match tlOp r with
  | 1 => tileGemm e r t
  | 2 => tileDend e r t
  | 3 => tileGather e r t
  | 4 => tileScatter e r t
  | 5 => tileWinnow e u r t part
  | 6 => tileWinnow e u r t part
  | 7 => tileReduce e r t
  | 8 => tileEwise e u.ftz r t
  | 9 => tileCopy e r t
  | 10 => tileCvt e u.ftz r t
  | 11 => tileFill e r t
  | 12 => tilePool e r t
  | _ => pure Flags.no

/-! ### TISSUE (R285) -/

/-- The record as a number. -/
def recNum (ws : List W64) : Nat := leNat (wordsBytes ws)

/-- The words of a list of bytes. -/
def State.ownDev (s : State) (p : Nat) : Nat := fld (s.part p).devid 0 8

/-- The lowest invalid address of two scratchpad operands, each named by a register. -/
def State.badOf (s : State) (a : W64) (n : Nat) : List Nat :=
  if n = 0 then [] else if 2 ^ 32 ≤ a.toNat then [a.toNat] else (s.spBad s.myGrp a.toNat n).toList

/-- TISSUE (R285): the records, and the status block that a RESUME reads, are copied first, then its release is made. -/
def doTissue (rd rs rt : Reg) (s : State) : M State := do
  s.notHandler
  let src := s.reg rs
  let dst := s.reg rd
  let x := s.reg rt
  let n := fld x 0 7
  ensure (src.toNat % 32 == 0) tAlign src
  ensure (dst.toNat % 64 == 0) tAlign dst
  let _ ← match minNat (s.badOf src (32 * n) ++ s.badOf dst 160) with | some a => trap tSp (BitVec.ofNat 64 a) | none => (.ok () : M Unit)
  ensure (decide (1 ≤ n) && decide (n ≤ 64) && fld x 8 56 == 0) tOp s.pc0
  let g := s.myGrp
  let res := x.getLsbD 7
  if s.th.ph.copied.isEmpty && (s.spPoisoned g src.toNat (32 * n) || (res && s.spPoisoned g dst.toNat 160)) then hold (s.consume s.me sramPa) else
  let words := if s.th.ph.copied.isEmpty then leWords 20 (s.spRead g dst.toNat 160) ++ leWords (4 * n) (s.spRead g src.toNat (32 * n)) else s.th.ph.copied
  let w (i : Nat) : W64 := words.getD i 0#64
  ensure (!res || ((w 0).getLsbD 7 && decide (fld (w 0) 0 7 < n))) tOp s.pc0
  let s := s.setPhase { s.th.ph with copied := words }
  let recs := (List.range n).map fun i => (words.drop (20 + 4 * i)).take 4
  let ti := s.me
  let dev := s.ownDev (s.pOf ti)
  let sys := recs.any fun r => tlFwd (recNum r) && tlDev (recNum r) != dev
  let s ← s.release (if sys then .sys else .dev) false
  let u : Tissue := { id := s.fresh, p := s.pOf ti, ctx := ti.ctx, ti := ti, uid := s.th.uid, grp := g, sup := s.th.sup, ftz := s.th.ftz, det := s.th.det, first := s.pc0
                      status := dst.toNat, recs := recs, idx := 0, st := 0, stop := false, dies := [], tcount := 0, flags := 0, cause := 0, level := 0, dev := dev
                      fdie := 0, fclu := 0, ftile := 0, faddr := 0, part := 0, sys := sys
                      resume := if res then some (fld (w 0) 0 7, (List.range 8).map (fun e => (fld (w (4 + 2 * e)) 0 32, (w (5 + 2 * e)).toNat)), fld (w 1) 0 32, fld (w 3) 0 32) else none
                      remote := false, peerMask := [] }
  let s := { s with tissues := s.tissues ++ [u], fresh := s.fresh + 1 }
  .ok (s.modMe fun t => { t with tiles := t.tiles + 1 }).fall

def execTissue (rd rs rt : Reg) (s : State) : Out := finish s (doTissue rd rs rt s)

/-! ### The device's part (R284, R287 to R289) -/

def State.tissue (s : State) (id : Nat) : Option Tissue := s.tissues.find? fun u => u.id == id
def State.setTissue (s : State) (u : Tissue) : State := { s with tissues := s.tissues.map fun x => if x.id == u.id then u else x }
def Tissue.record (u : Tissue) : Nat := recNum (u.recs.getD u.idx [])
def Tissue.eng (u : Tissue) (s : State) (d : Nat) : Eng := ⟨u.id, d, u.ctx, u.sup, ⟨(s.grpD u.grp).launch, u.id⟩⟩

/-- A fault found when the record starts: LEVEL 4, or at the link (R284, R288, R295). -/
def Tissue.startFault (u : Tissue) (cause level dev faddr : Nat) : Tissue :=
  { u with st := 2, cause := cause, level := level, dev := dev, fdie := 0, fclu := 127, ftile := 0, tcount := 0, faddr := faddr, part := 0, dies := [] }

/-- The page of an address, read or written, in the bank-linear window: its physical address (R284). A peer's key is XLATE (R125). -/
def tBank (e : Eng) (va : Nat) (k : Need) : TM (Option Nat) := fun s =>
  match s.xlateEngine e.unit e.die e.ctx va k e.sup with
  | .ok pa s =>
    match s.classify (s.partOf e.die) pa with
    | .dram _ => .ok (if bankBase ≤ pa then some pa else none, s)
    | .none => .error (.fault 2 va 0)
    | .peer _ _ => .error (.fault 2 va 0)
    | _ => .ok (none, s)
  | .fault _ => .error (.fault 2 va 0)
  | .wait s => .error (.wait s)
  | .poison pa _ => .error (.poison pa)

/-- The first bytes of the pages a range touches. -/
def pagesOf (va n : Nat) : List Nat := if n = 0 then [] else va :: ((List.range ((va + n - 1) / 4096 - va / 4096)).map fun i => (va / 4096 + 1 + i) * 4096)

/-- The translations at a record's start; false is BADREC (R283, R284). -/
def tStart (e : Eng) (r : Nat) : TM Bool :=
  match tlOp r with
  | 2 => do
    let (_, _, _, cfg, cs) ← tBundle e r
    pure (bundleOk r cfg cs)
  | 12 => do
    let b ← tBank e (tlBa r) .read
    let cs ← tAll (fun va => tBank e va .write) (pagesOf (tlCa r) (4 * tlM r * tlN r))
    pure (match b with | some b => cs.all (fun c => match c with | some c => chanOf c == chanOf b | none => false) | none => false)
  | _ => pure true

/-- The home die of TPOOL's table. -/
def State.poolDie (s : State) (e : Eng) (r : Nat) : Nat := match s.xlateEngine e.unit e.die e.ctx (tlBa r) .read e.sup with | .ok pa _ => homeDie pa | _ => e.die

/-- The dies' shares of T tiles (R289), less what a resumed list has done. -/
def Tissue.shares (u : Tissue) (s : State) (e : Eng) : List DieTiles :=
  let r := u.record
  let t := tlTiles r
  let ds := if tlOp r = 12 then [s.poolDie e r] else s.partDies u.p
  let p := ds.length
  ds.zipIdx.map fun d =>
    let lo := d.2 * t / p
    let hi := (d.2 + 1) * t / p
    let done := match u.resume with
      | some (_, masks, _, _) =>
        let (dn, dm) := masks.getD d.1 (0, 0)
        (rangeFrom lo (hi - lo)).filter fun x => decide (x < dn) || (decide (dn ≤ x) && decide (x < dn + 64) && nbit dm (x - dn))
      | none => []
    { die := d.1, lo := lo, hi := hi, next := lo, prog := [], done := done, faults := [] }

/-- DNEXT (R286). -/
def DieTiles.dnext (d : DieTiles) : Nat := ((rangeFrom d.lo (d.hi - d.lo)).find? fun t => !d.done.contains t).getD d.hi
/-- DMASK. -/
def DieTiles.dmask (d : DieTiles) : Nat := (List.range 64).foldl (fun m i => if d.done.contains (d.dnext + i) then m + 2 ^ i else m) 0

/-- TSIGNAL at the home die (R182, R281): every entry for the word on the path there, its rick run, goes first (R101); none while the word is
full or held. -/
def State.signal (s : State) (pa v : Nat) : Option State :=
  let w := wordOf pa
  let h := homeOf w
  let s := s.moveWord (.rick h) w
  if ((s.run (.rick h)).ents.any fun e => e.word == w) || s.isFull (wordLin w) then none
  else some (((s.barnFill (wordLin w) (BitVec.ofNat 64 v)).wakeWord (wordLin w)).dropLine h w)

/-- Have the updates of this TISSUE all left the runs below device scope (R287)? -/
def State.tissueOut (s : State) (u : Tissue) : Bool :=
  (s.partDies u.p).all fun d =>
    !((s.run (.rick d)).ents.any fun e => e.ownedBy u.id && homeOf e.word != d) && !((s.die d).sent.any fun x => x.e.ownedBy u.id)

/-- Does an earlier TISSUE of the group run (R281, TBARRIER)? -/
def State.earlier (s : State) (u : Tissue) : Bool := s.tissues.any fun x => decide (x.id < u.id) && x.grp == u.grp && !x.remote

/-- A word of scratchpad or memory that cannot be read yet, or poison, leaves the state alone; poison contains the group. -/
def State.tissuePoison (s : State) (u : Tissue) (pa : Nat) : State :=
  if (s.thr u.ti).uid = u.uid ∧ u.remote = false then s.consume u.ti pa else s

/-- What a RESUME brings to the record that starts (R297): the faulting tile, its PART, the masks. -/
def Tissue.resumeHere (u : Tissue) : Option (Nat × Nat × List (Nat × Nat)) :=
  match u.resume with | some (i, masks, ft, pt) => if i = u.idx then some (ft, pt, masks) else none | none => none

/-- The next record of TISSUE ev.q starts (R284, R287, R288). A forwarded record's device that is not in REACH is a PhysicalAddress fault of
the record (R376): CAUSE XLATE, LEVEL 4 (DEDUCED, log 62). A TSIGNAL word that is no key of this device is XLATE: R125 lets a FILL reach a peer,
and no rule says it of a TSIGNAL (DESIGN CHOICE, log 62). -/
def execRecordStart (s : State) : Out :=
  match s.tissue s.cur.ev.q with
  | none => .next s
  | some u =>
    let skip := match u.resume with | some (i, _, _, _) => decide (u.idx < i) | none => false
    if u.st ≠ 0 ∨ u.recs.length ≤ u.idx then .next s
    else if skip then .next (s.setTissue { u with idx := u.idx + 1 })
    else
      let r := u.record
      let own := s.ownDev u.p
      let d0 := (s.partDies u.p).headD 0
      let e := u.eng s d0
      let res := (s.ctx u.p u.ctx).tilth
      if !recordOk r then .next (s.setTissue (u.startFault 1 4 own 0))
      else if tlFwd r && tlDev r != own then
        if s.reaches u.p (tlDev r) then
          let id := s.fresh
          let s := { s with peerq := s.peerq ++ [(⟨id, tlDev r, PeerReq.record (u.recs.getD u.idx []) u.resumeHere, ⟨0, u.id⟩, some u.ti, u.first, true⟩ : PReq)], fresh := s.fresh + 1 }
          .next (s.setTissue { u with st := 4 })
        else .next (s.setTissue (u.startFault 2 4 own 0))
      else if decide (fld res 32 6 < (tlNeed r).1) || decide (fld res 0 32 < (tlNeed r).2) then .next (s.setTissue (u.startFault 1 4 own 0))
      else if tlOp r = 13 then (if s.earlier u then .next s else .next (s.setTissue { u with st := 1, dies := [], tcount := 0, dev := own }))
      else if tlOp r = 14 then
        match s.xlateEngine u.id d0 u.ctx (tlCa r) .write u.sup with
        | .wait s => .next s
        | .poison pa s => .next (s.tissuePoison u pa)
        | .fault s => .next (s.setTissue (u.startFault 2 4 own (tlCa r)))
        | .ok pa s =>
          match s.classify u.p pa with
          | .dram _ => (match s.signal pa (tlVal r) with
            | some s => .next (s.setTissue { u with st := 1, dies := [], tcount := 0, dev := own })
            | none => .next (s.wantMerge (.rick (homeDie pa))))
          | _ => .next (s.setTissue (u.startFault 2 4 own (tlCa r)))
      else
        match tStart e r s with
        | .error (.wait t) => .next (s.keepWalks t)
        | .error (.poison pa) => .next (s.tissuePoison u pa)
        | .error (.fault _ fa _) => .next (s.setTissue (u.startFault 2 4 own fa))
        | .error (.winnow s _ _) => .next s
        | .ok (false, s) => .next (s.setTissue (u.startFault 1 4 own 0))
        | .ok (true, s) =>
          let here := match u.resume with | some (i, _, _, _) => i == u.idx | none => false
          let u' := if here then u else { u with resume := none }
          .next (s.setTissue { u' with st := 1, dies := u'.shares s e, tcount := tlTiles r, dev := own })

/-! ### Tickets (R290, R291) -/

/-- The eligible claimants of a die in cluster order (R291). -/
def State.claimants (s : State) (u : Tissue) (d : Nat) : List Nat :=
  (List.range 96).filter fun c => !(s.cluster d c).reserved && kindOk u.record (isWide c) &&
    (!tlMatrix (tlOp u.record) || (s.half d c u.ctx).arr.fmt.isNone)

/-- Does the cluster run another tile of the context? -/
def State.tiling (s : State) (ctx d c : Nat) : Bool :=
  s.tissues.any fun x => x.ctx == ctx && x.dies.any fun y => y.die == d && y.prog.any fun q => q.2 == c

/-- May the cluster take tile t of the die's range? -/
def State.mayClaim (s : State) (u : Tissue) (d : DieTiles) (c t : Nat) : Bool :=
  let es := s.claimants u d.die
  es.contains c && !s.tiling u.ctx d.die c &&
  (!u.det || es.getD ((t - d.lo) % es.length) 96 == c)

/-- A tile joins the context's array queue (R291). -/
def State.joinTile (s : State) (u : Tissue) (d c t : Nat) : State :=
  s.modArr (d, c, u.ctx) fun a => { a with queue := a.queue ++
    [{ kind := 4, ti := u.ti, uid := u.uid, grp := u.grp, fmt := .f32, s := 0#64, t := 0#64, hentry := 0#64, begun := false, rows := [], out := [], ready := []
       drained := 0, bufUse := [], inFlight := none, consumed := false, cfg := [], bw := [], tile := (u.id, t) }] }

/-- Cluster ev.clu, or the die's own engine, of die ev.die claims the next tile of TISSUE ev.q (R290). -/
def execTileClaim (s : State) : Out :=
  let ev := s.cur.ev
  match s.tissue ev.q with
  | none => .next s
  | some u =>
    match u.dies.find? fun d => d.die == ev.die with
    | none => .next s
    | some d =>
      let op := tlOp u.record
      let halted := (s.ctx u.p u.ctx).halted || (s.ctx u.p u.ctx).saved
      match (rangeFrom d.next (d.hi - d.next)).find? fun t => !d.done.contains t with
      | none => .next s
      | some t =>
        if u.st ≠ 1 ∨ u.stop = true ∨ d.faults ≠ [] ∨ halted = true ∨ d.dnext + 64 ≤ t then .next s
        else
          let put (c : Nat) (s : State) : State :=
            (s.setTissue { u with dies := u.dies.map fun x => if x.die == ev.die then { d with next := t + 1, prog := d.prog ++ [(t, c)], began := d.began ++ [(t, s.fresh)] } else x }).newId
          if tlCluster op then
            if s.mayClaim u d ev.clu t then .next (put ev.clu (if tlMatrix op then s.joinTile u ev.die ev.clu t else s)) else .next s
          else if d.prog.isEmpty then .next (put 127 s) else .next s

/-- Is the claimant ready to run the tile: its array entry acting, its Winnow engine between operations, its Reed core idle? -/
def State.tileReady (s : State) (u : Tissue) (d c t : Nat) : Bool :=
  let op := tlOp u.record
  if tlMatrix op then
    match (splitAct (s.half d c u.ctx).arr.queue).2.1 with
    | some o => o.kind == 4 && o.tile == (u.id, t) && o.begun
    | none => false
  else if op = 5 ∨ op = 6 then (match s.winHead d with | some o => o.hdr.isNone | none => true)
  else if op = 12 then
    match s.xlateEngine (unitTile u.id t) d u.ctx (tlBa u.record) .read u.sup with
    | .ok pa _ => (s.reed (chanOf pa)).task.isNone
    | _ => true
  else true

/-- The tile leaves the array queue. -/
def State.leaveTile (s : State) (u : Tissue) (d c t : Nat) : State :=
  if tlMatrix (tlOp u.record) then s.modArr (d, c, u.ctx) fun a => { a with queue := a.queue.filter fun o => !(o.kind == 4 && o.tile == (u.id, t)) } else s

/-- A tile's updates that wait for room enter the run in order, as many as fit. -/
def drainLate (unit d : Nat) : List (Nat × Entry) → State → State
  | [], s => s
  | x :: r, s =>
    match s.insertRick d x.2 with
    | .ok s => drainLate unit d r { s with late := s.late.erase x }
    | .error s => s

/-- Tile ev.u of TISSUE ev.q runs at its claimant and completes, or stops and reports (R293, R294). Updates that find no room follow in later
steps, and the tile completes with the last of them. -/
def execTileComplete (s : State) : Out :=
  let ev := s.cur.ev
  let t := ev.u
  match s.tissue ev.q with
  | none => .next s
  | some u =>
    match u.dies.find? fun d => d.prog.any fun x => x.1 == t with
    | none => .next s
    | some d =>
      let c := ((d.prog.find? fun x => x.1 == t).map (·.2)).getD 127
      let unit := unitTile u.id t
      let rest := d.prog.filter fun x => x.1 != t
      let put (d' : DieTiles) (fl : Nat) (s : State) : State :=
        (s.setTissue { u with flags := u.flags ||| fl, dies := u.dies.map fun x => if x.die == d.die then d' else x }).leaveTile u d.die c t
      -- the tile is done with once its last update has entered the run
      let close (fl : Nat) (s : State) : State :=
        if s.late.any fun y => y.1 == unit then s.setTissue { u with flags := u.flags ||| fl }
        else put { d with prog := rest, done := ninsert t d.done, began := d.began.filter fun x => x.1 != t } fl s
      if s.late.any fun y => y.1 == unit then .next (close 0 (drainLate unit d.die (s.late.filter fun y => y.1 == unit) s))
      else if !s.tileReady u d.die c t then .next s
      else
        let part := match u.resume with | some (_, _, ft, pt) => if ft = t then pt else 0 | none => 0
        match tileRun { u.eng s d.die with unit := unit } u u.record t part s with
        | .ok (fl, s') => .next (close fl.toNat s')
        | .error (.wait t) => .next ((s.keepWalks t).wantMerge (.rick d.die))
        | .error (.fault cause fa pt) => .next (put { d with prog := rest, faults := d.faults ++ [(t, cause, c, fa, pt)] } 0 s)
        | .error (.winnow s' pt fa) => .next (put { d with prog := rest, faults := d.faults ++ [(t, 4, c, fa, pt)] } 0 s')
        | .error (.poison pa) => .next ((put { d with prog := rest, faults := d.faults ++ [(t, 2, c, 0, 0)] } 0 s).tissuePoison u pa)

/-- LEVEL of a tile fault (R286). -/
def tileLevel (op : Nat) : Nat := if op = 12 then 1 else if op = 5 ∨ op = 6 then 2 else 0

/-- The fault of the lowest tile of a die. -/
def DieTiles.first (d : DieTiles) : Option (Nat × Nat × Nat × Nat × Nat) :=
  d.faults.foldl (fun b f => match b with | some x => if f.1 < x.1 then some f else b | none => some f) none

/-- TISSUE ev.q: the device tells every die to stop; when no tile runs it gathers their reports and chooses the fault (R295). -/
def execTileFaultRollup (s : State) : Out :=
  match s.tissue s.cur.ev.q with
  | none => .next s
  | some u =>
    match u.dies.findSome? fun d => d.first.map fun f => (d.die, f) with
    | none => .next s
    | some (die, t, cause, clu, fa, part) =>
      if u.st ≠ 1 then .next s
      else if !u.stop then .next (s.setTissue { u with stop := true })
      else if u.dies.any fun d => !d.prog.isEmpty then .next s
      else .next (s.setTissue { u with st := 2, cause := cause, level := tileLevel (tlOp u.record), fdie := die, fclu := clu, ftile := t, faddr := fa, part := part })

/-- The record of TISSUE ev.q is complete, with its release (R287). -/
def execRecordComplete (s : State) : Out :=
  match s.tissue s.cur.ev.q with
  | none => .next s
  | some u =>
    if u.st = 1 ∧ (u.dies.all fun d => d.faults.isEmpty && d.prog.isEmpty && d.dnext == d.hi) = true then
      if s.tissueOut u then .next (s.setTissue { u with st := 0, idx := u.idx + 1, dies := [], tcount := 0, stop := false })
      else .next ((s.partDies u.p).foldl (fun s d => s.wantMerge (.rick d)) s)
    else .next s

/-- The status block (R286). -/
def Tissue.statusWords (u : Tissue) (s : State) : List W64 :=
  let fl := u.flags % 512 * 2 ^ 48
  if u.st = 2 then
    let masks : List (Nat × Nat) := (List.range 8).map fun d =>
      match u.peerMask[d]? with
      | some m => m
      | none =>
        match u.dies.find? fun (x : DieTiles) => x.die == d with
        | some x => (x.dnext, x.dmask)
        | none => (if (s.partDies u.p).contains d then 0 else 2 ^ 32 - 1, 0)
    [BitVec.ofNat 64 (u.idx % 128 + 128 + u.cause * 2 ^ 8 + u.level * 2 ^ 16 + u.dev * 2 ^ 24 + u.fdie * 2 ^ 32 + u.fclu * 2 ^ 35 + fl),
     BitVec.ofNat 64 (u.ftile + u.tcount * 2 ^ 32), BitVec.ofNat 64 u.faddr, BitVec.ofNat 64 u.part] ++
    masks.flatMap fun m => [BitVec.ofNat 64 m.1, BitVec.ofNat 64 m.2]
  else BitVec.ofNat 64 (u.recs.length % 128 + u.dev * 2 ^ 24 + fl) :: List.replicate 19 0#64

/-- The page-5 opcode of TISSUE (R328). -/
def wTissue : Nat := 12

/-- TISSUE ev.q completes: the status block, the flags, TILES, and its engine fault (R285, R286, R296). -/
def execTissueComplete (s : State) : Out :=
  match s.tissue s.cur.ev.q with
  | none => .next s
  | some u =>
    if !(u.st == 2 || (u.st == 0 && decide (u.recs.length ≤ u.idx))) then .next s
    else if !s.tissueOut u then .next ((s.partDies u.p).foldl (fun s d => s.wantMerge (.rick d)) s)
    else
      let ws := u.statusWords s
      let s := { s with tissues := s.tissues.filter fun x => x.id != u.id }
      if u.remote then .next { s with toPeer := s.toPeer ++ [(u.status, BitVec.ofNat 64 u.uid :: ws)] }
      else if (s.thr u.ti).uid ≠ u.uid ∨ (s.grpD u.grp).ended = true then .next s
      else
        let s := s.spWrite u.grp u.status (wordsBytes ws)
        let s := s.modThr u.ti fun t => { t with flags := t.flags ||| BitVec.ofNat 9 u.flags }
        let s := s.tileDone u.ti u.uid (if u.sys then .sys else .dev)
        .next (if u.st = 2 then s.engineFaultTo u.ti u.uid 9 wTissue u.first (BitVec.ofNat 64 u.ftile) (BitVec.ofNat 64 u.faddr) (BitVec.ofNat 64 u.status) else s)

/-- A record that a peer `dev` forwards arrives (R288, R376), with what a RESUME brings (R297): it runs in the receive context, or is
refused with LINK. (log 62) -/
def State.recordIn (s : State) (p dev req : Nat) (ws : List W64) (res : Option (Nat × Nat × List (Nat × Nat))) : State :=
  let rx := (s.part p).rxctx
  if rx.getLsbD 1 then
    let r := ws.mapIdx fun i w => if i = 0 then w &&& ~~~(0x4000#64) else w
    let u : Tissue := { id := s.fresh, p := p, ctx := fld rx 0 1, ti := ⟨0, 0, 0, 0, 0⟩, uid := req, grp := 0, sup := false, ftz := false, det := false, first := 0#64, status := dev
                        recs := [r], idx := 0, st := 0, stop := false, dies := [], tcount := 0, flags := 0, cause := 0, level := 0, dev := s.ownDev p, fdie := 0, fclu := 0
                        ftile := 0, faddr := 0, part := 0, sys := false, resume := res.map fun x => (0, x.2.2, x.1, x.2.1), remote := true, peerMask := [] }
    { s with tissues := s.tissues ++ [u], fresh := s.fresh + 1 }
  else { s with toPeer := s.toPeer ++ [(dev, [BitVec.ofNat 64 req, BitVec.ofNat 64 (128 + 6 * 2 ^ 8 + 5 * 2 ^ 16 + s.ownDev p * 2 ^ 24 + 127 * 2 ^ 35)] ++ List.replicate 19 0#64)] }

/-- The forwarded record ev.req of device ev.u, its request ev.n, arrives at partition ev.p. -/
def execRecordForward (s : State) : Out :=
  let e := s.cur.ev
  match e.req with
  | .record ws res => .next (s.recordIn e.p e.u e.n ws res)
  | _ => .next s

/-- A peer's answer to a forwarded record (R288): its status block fields, or (none) a lost link. -/
def State.recordAnswer (s : State) (u : Tissue) (dev : Nat) (ws : Option (List W64)) : State :=
  match ws with
  | none => s.setTissue (u.startFault 6 5 dev 0)
  | some ws =>
    let w (i : Nat) : W64 := ws.getD i 0#64
    let u := { u with flags := u.flags ||| fld (w 0) 48 9, dev := fld (w 0) 24 8 }
    if (w 0).getLsbD 7 then
      s.setTissue { u with st := 2, cause := fld (w 0) 8 8, level := fld (w 0) 16 3, fdie := fld (w 0) 32 3, fclu := fld (w 0) 35 7, ftile := fld (w 1) 0 32, tcount := fld (w 1) 32 32
                           faddr := (w 2).toNat, part := fld (w 3) 0 32, dies := [], peerMask := (List.range 8).map fun e => (fld (w (4 + 2 * e)) 0 32, (w (5 + 2 * e)).toNat) }
    else s.setTissue { u with st := 0, idx := u.idx + 1 }

end Sys2Proof.Machine
end

