-- ==== Sys2Proof/Machine/Faults.lean ====
section
/-!
DEFINITION. Faults.lean: fault records written to a context's ring (R327, R328), asynchronous faults taken by threads (R253, R329),
and the containment that waits to be finished (R37, R364).
-/
namespace Sys2Proof.Machine
open Sys2Proof

/-! ### The fault ring (R327) -/

def Ctx.ringN (c : Ctx) : Nat := 2 ^ fld c.fring 0 5
def Ctx.ringBase (c : Ctx) : Nat := fld c.fring 12 44 * 4096
/-- Is there a ring, and room in it? (log 36) -/
def Ctx.ringRoom (c : Ctx) : Bool := decide (5 ≤ fld c.fring 0 5) && decide (fld c.fring 0 5 ≤ 20) && (c.fhead - c.ftail).toNat % 2 ^ 32 != c.ringN
/-- How far a record's address lies ahead of FTAIL. -/
def Ctx.ringPos (c : Ctx) (a : Nat) : Nat := ((a - c.ringBase) / 128 + c.ringN - c.ftail.toNat % c.ringN) % c.ringN

/-- Write doublewords at a virtual address of a context for the part itself, so that they stand at device scope (R327); none while one cannot:
its page is not mapped, or is unpopulated, or a held entry or a full run keeps it out: then the state with the walk it waits for. (log 49) -/
def State.partWrite (s : State) (p c : Nat) : (va : Nat) → List W64 → Except State State
  | _, [] => .ok s
  | va, w :: ws =>
    match s.xlatePart (unitRing p c) ((s.partDies p).headD 0) c va .write true with
    | .ok pa t =>
      if !(t.populated p pa) then .error s
      else (match t.sysStand p c pa (leBytes 8 w.toNat) with | some t => State.partWrite t p c (va + 8) ws | none => .error s)
    | .wait t => .error t
    | .fault t => .error t
    | .poison _ t => .error t

/-- The part writes the oldest waiting record of partition p's error log, stands it at device scope, then advances EHEAD (R366); until it can
stand there, it waits. -/
def State.errWrite (s : State) (p : Nat) : State :=
  let x := s.part p
  match x.errQ with
  | [] => s
  | ws :: rest =>
    let n := 2 ^ fld x.elog 0 5
    match (if x.elog = 0#64 then some s else s.sysStand p 0 (fld x.elog 12 44 * 4096 + 64 * (x.ehead.toNat % n)) (wordsBytes ws)) with
    | none => s
    | some s => s.setPart p { s.part p with errQ := rest, ehead := if x.elog = 0#64 then x.ehead else BitVec.ofNat 64 ((x.ehead.toNat + 1) % 2 ^ 32) }

/-- The EngineFault of the record at a falls due at the thread it names, which may have been saved since (R333). -/
def Thread.dueTo (t : Thread) (uid a : Nat) : Thread := if t.uid = uid ∧ t.live = true then { t with due := t.due ++ [(tEng, a)] } else t
def State.dueTo (s : State) (uid a : Nat) : State :=
  let f (l : List (SlotId × Thread)) := l.map fun x => (x.1, x.2.dueTo uid a)
  { s with slots := f s.slots, savedCtx := s.savedCtx.map fun x => { x with slots := f x.slots } }

/-- FAULT_RECORD_WRITE: the part writes the oldest waiting record of context (ev.p, ev.ctx), stands it at device scope, then advances
FHEAD; the record then falls due (R327, R329). With ev.flag it is the partition's error log that takes one (R366). -/
def execFaultRecordWrite (s : State) : Out :=
  let p := s.cur.ev.p
  let c := s.cur.ev.ctx
  if s.cur.ev.flag then .next (s.errWrite p) else
  let x := s.ctx p c
  match x.recq with
  | [] => .next s
  | r :: rest =>
    if !x.ringRoom then .next s
    else
      let a := x.ringBase + 128 * (x.fhead.toNat % x.ringN)
      match s.partWrite p c a r.words with
      | .error t => .next (s.keepWalks t)
      | .ok s =>
        let x := s.ctx p c
        let x := { x with recq := rest, fhead := BitVec.ofNat 64 ((x.fhead.toNat + 1) % 2 ^ 32), dueAgent := if r.kind = 2 then x.dueAgent else x.dueAgent ++ [a] }
        let s := s.setCtx p c x
        .next (if r.ti.isSome then s.dueTo r.uid a else s)

/-! ### Delivery (R253, R329) -/

/-- Whatever a thread waits for, an asynchronous fault abandons it (R128, R253), except an operation that has left the thread (R61, R170,
R331): a request to a peer is withdrawn where it parks its thread under R183 (R125), or is a load with an order suffix. -/
def Wait.mayAbandon : Wait → Bool | .engine => false | .sched => false | .cmd => false | .peer _ how => how != .stays | _ => true

/-- Does FAGENT name this thread? -/
def State.isAgent (s : State) (ti : SlotId) : Bool :=
  let f := (s.cx ti).fagent
  f.getLsbD 16 && fld f 0 3 == ti.die && fld f 3 7 == ti.clu && fld f 10 2 == ti.core && fld f 12 4 == ti.slot

/-- The fault a thread takes next, in ring order: its code and record address. -/
def State.nextDue (s : State) (ti : SlotId) : Option (Nat × Nat) :=
  let c := s.cx ti
  let own := (s.thr ti).due.head?
  match (if s.isAgent ti then c.dueAgent.head? else none), own with
  | none, o => o
  | some a, none => some (tRec, a)
  | some a, some o => if c.ringPos a ≤ c.ringPos o.2 then some (tRec, a) else some o

/-- May the thread take an asynchronous fault here? (log 52) -/
def State.mayTake (s : State) (ti : SlotId) : Bool := s.canTurn ti && s.rotates ti && !(s.thr ti).inTrap && (s.thr ti).wait.mayAbandon && (s.thr ti).ph.ans.isNone

/-- Take the fault of one code that is due at a thread's boundary. -/
def State.deliver (s : State) (ti : SlotId) (code : Nat) : Out :=
  match s.nextDue ti with
  | some (k, a) =>
    if k = code ∧ s.mayTake ti = true then
      let s := if code = tRec then s.setCtx (s.pOf ti) ti.ctx { s.cx ti with dueAgent := (s.cx ti).dueAgent.drop 1 }
        else s.modThr ti fun t => { t with due := t.due.drop 1 }
      .next (s.threadTrap ti code 0 (BitVec.ofNat 64 a) (s.thr ti).pc (s.thr ti).pc)
    else .next s
  | none => .next s

/-- ENGINE_FAULT: thread ev.ti takes the engine fault that is due there. -/
def execEngineFault (s : State) : Out := s.deliver s.cur.ev.ti tEng
/-- FAULT_RECORD_DELIVERY: the fault agent ev.ti takes a record of KIND 1, 3 or 4. -/
def execFaultRecordDelivery (s : State) : Out := s.deliver s.cur.ev.ti tRec

/-! ### What a containment leaves to do (R37, R364) -/

/-- CONTAINMENT: the next RCB of partition ev.p is written with STATE 5. -/
def execContainment (s : State) : Out :=
  let p := s.cur.ev.p
  match (s.part p).contQ with
  | [] => .next s
  | (a, l) :: rest =>
    let s := s.setPart p { s.part p with contQ := rest }
    let (c, done) := match aget? s.launches l with | some x => (x.ctx, x.done) | none => (0, 0)
    .next (s.sysWord p c a (rcbWord 5 0 done))

/-- POISON_CONSUMED: the group that consumed poison in partition ev.p is contained, with CAUSE 0 and the address in WHAT; the log
takes a record (R364, R366). An SRAM word has no physical address: ADDR and WHAT's address are 0. (log 46) -/
def execPoisonConsumed (s : State) : Out :=
  let p := s.cur.ev.p
  match (s.part p).poisonQ with
  | [] => .next s
  | (g, c, pa) :: rest =>
    let s := s.setPart p { s.part p with poisonQ := rest }
    let x := s.grpD g
    let ti : SlotId := ⟨x.die, x.clu, c, 0, x.row⟩
    let s := match linOf pa with
      | some lin => s.errLog p 3 2 (lin / 2 ^ 37) 127 (lin / 2 ^ 31) pa false
      | none => s.errLog p 3 1 x.die x.clu 0 0 false
    .next (s.contain p c g 0 ti 0#64 (BitVec.ofNat 64 (pa % sramPa + 2 ^ 63)))

end Sys2Proof.Machine
end

