-- ==== Sys2Proof/Machine/FenEvents.lean ====
section
/-!
DEFINITION. FenEvents.lean: merges (R91, R92), aging (R91), admission and the DONE ring (R119, R120), peers' streams and answers
(R123 to R125, R376).
-/
namespace Sys2Proof.Machine
open Sys2Proof

/-! ### Merges -/

/-- Run ev.run begins a merge that is asked for, or goes on with the one in progress, by up to ev.n further keys (R92). -/
def execRunMerge (s : State) : Out :=
  let r := s.cur.ev.run
  let run := s.run r
  let s := if run.todo.isEmpty && (run.want || decide (r.threshold ≤ run.occ)) then s.setRun r { run with todo := run.keys, want := false } else s
  .next (State.mergeKeys (s.cur.ev.n + 1) s r)

/-- An entry has stood in run ev.run for 65,536 clk: the run merges (R91). -/
def execEntryAgeTimeout (s : State) : Out :=
  let r := s.cur.ev.run
  .next (if (s.run r).ents.any fun e => !e.held && decide (e.born + 65536 ≤ s.clk) then s.wantMerge r else s)

/-! ### Admission (R120) -/

/-- The launch number that stands for a peer's request: its device, and the request. -/
def peerOwner (dev id : Nat) : Owner := ⟨(dev + 1) * 2 ^ 64 + id, 0⟩
def Owner.isPeer (o : Owner) (dev : Nat) : Bool := o.launch / 2 ^ 64 == dev + 1

/-- DONE advances over the admitted numbers. -/
def advanceDone (done : Nat) (admitted : List Nat) : Nat × List Nat :=
  admitted.foldl (fun x n => if n = x.1 + 1 then (n, x.2) else (x.1, x.2 ++ [n])) (done, [])

/-- The sender learns that its entry was admitted; a peer's update is acknowledged (R124). -/
def State.admitted (s : State) (x : Sent) : State :=
  let h := s.die x.home
  let cv := (h.cvec.mapIdx fun i v => max (if i = x.snd then max v x.seq else v) (x.stamp.getD i 0))
  let s := s.setDie x.home { h with cvec := cv }
  let d := s.die x.snd
  let (done, adm) := advanceDone d.done (ninsert x.seq d.admitted)
  let s := s.setDie x.snd { d with done := done, admitted := adm, sent := d.sent.filter fun y => y.seq != x.seq }
  { s with toPeer := s.toPeer ++ (x.e.owners.filter fun o => decide (2 ^ 64 ≤ o.launch)).map fun o => (o.launch / 2 ^ 64 - 1, [BitVec.ofNat 64 (o.launch % 2 ^ 64)]) }

/-- Home die ev.die admits the oldest entry that die ev.u sent it, once its stamp allows it. An operator fault holds it there, admitted
(R104), once the rick run has the slots that it takes (R90; DESIGN CHOICE, log 39). -/
def execAdmitUpdate (s : State) : Out :=
  let h := s.cur.ev.die
  match (s.die s.cur.ev.u).sent.find? fun x => x.home == h with
  | none => .next s
  | some x =>
    if !((s.partDies (s.partOf h)).all fun i => decide (x.stamp.getD i 0 ≤ (s.die h).dview.getD i 0)) then .next s
    else match State.put levels s (.rick h) x.e false with
      | .ok s' => .next (s'.admitted x)
      | .behind s' => .next s'
      | .noRoom s' => .next (s'.wantMerge (.rick h))
      | .opFault f dv dc =>
        let e := { x.e with pendHome := true }
        if (s.run (.rick h)).occ + e.size ≤ (RunId.rick h).cap then .next (((s.restore (.rick h) e).holdEntry (.rick h) e f dv dc).admitted x)
        else .next (s.wantMerge (.rick h))

/-- The ring carries every die's DONE past every die (R119). -/
def execDoneRingPass (s : State) : Out :=
  let v := (List.range 8).map fun d => (s.die d).done
  .next ((List.range 8).foldl (fun s d => s.setDie d { s.die d with dview := v }) s)

/-! ### A peer's stream arrives (R123, R125, R376) -/

/-- Do earlier entries of the peer's stream for the word still await admission? -/
def State.peerPending (s : State) (dev w : Nat) : Bool :=
  (List.range 8).any fun d => (s.die d).sent.any fun x => x.e.word == w && x.e.owners.any fun o => o.isPeer dev

/-- Do any earlier entries of the peer's stream still await admission (R123)? -/
def State.peerStream (s : State) (dev : Nat) : Bool :=
  (List.range 8).any fun d => (s.die d).sent.any fun x => x.e.owners.any fun o => o.isPeer dev

/-- An entry of a peer's stream is sent with a zero stamp to its home die (R123), once no earlier entry of the stream awaits admission at another
home die: the updates of a stream are applied in its order. -/
def State.peerSend (s : State) (dev : Nat) (e : Entry) : State :=
  let h := homeOf e.word
  if (List.range 8).any fun d => (s.die d).sent.any fun x => x.home != h && x.e.owners.any fun o => o.isPeer dev then s else s.sendZero h e

/-- Move the peer's entries for the word to its barn; none while some still stand short of it. -/
def State.peerPush (s : State) (dev w : Nat) : Option State :=
  let r := RunId.rick (homeOf w)
  let own (s : State) : Bool := (s.run r).ents.any fun e => e.word == w && e.owners.any fun o => o.isPeer dev
  let s := if own s then s.moveWord r w else s
  if own s || s.peerPending dev w || (s.run r).hasHeld w then none else some s

/-- A request of a peer on one word of device memory (R125): the peer's own earlier entries for it are pushed first; then it acts at the
barn, or takes a place on the home die's wait list while the word is in the wrong state. With no room there it is tried again. -/
def State.peerBarn (s : State) (p dev id ctx : Nat) (req : PeerReq) (key : Nat) : State :=
  let d := homeDie key
  match s.peerPush dev (wordOf key) with
  | none => s.wantMerge (.rick d)
  | some s' =>
    match s'.peerAct dev ctx req key with
    | (some ws, s') => (s'.dropLine d (wordOf key)).answerPeer dev id ws
    | (none, s') =>
      let x := s'.die d
      if req.parks && decide (x.waiters.length + x.peerWait.length < 4096) then
        (s'.setDie d { x with peerWait := x.peerWait ++ [⟨p, dev, id, ctx, req, false, s'.fresh⟩] }).newId
      else s'

/-- Do earlier entries of the peer's stream for words of pseudo-channel q still stand short of the barn (R126)? -/
def State.peerLeft (s : State) (dev q : Nat) : Bool :=
  let f (e : Entry) : Bool := (e.owners.any fun o => o.isPeer dev) && wordLin e.word / 2 ^ 31 == q
  (s.run (.rick (q / 64))).ents.any f || (List.range 8).any fun d => (s.die d).sent.any fun x => f x.e

/-- A peer's request for a Reed core or a Sluice unit: the barn release of R126 is made first. -/
def State.peerUnit (s : State) (dev key : Nat) (f : State → State) : State :=
  if s.peerLeft dev (chanOf key) then s.wantMerge (.rick (chanOf key / 64)) else f s

/-- A request of device ev.u, number ev.n in its stream, arrives at partition ev.p. A key that is unpopulated here is answered with no word. -/
def execPeerStreamArrive (s : State) : Out :=
  let e := s.cur.ev
  let p := e.p
  let dev := e.u
  let id := e.n
  let ctx := fld (s.part p).rxctx 0 1
  let accept := (s.part p).rxctx.getLsbD 1
  let ok (key : Nat) : Bool := match s.classify p key with | .dram _ => decide (key < 0xA000000000) | _ => false
  let unit (key : Nat) (s' : State) : Out := .next (if ok key || s.inRetired p key then s' else s.answerPeer dev id [])
  let guard (key : Nat) (s' : State) : Out := .next (if ok key then s' else s.answerPeer dev id [])
  match e.req with
  | .update key op wd bf v =>
    guard key (s.peerSend dev (mkEntry key op wd bf ctx 0 v [peerOwner dev id] s.clk))
  | .load key wd =>
    guard key (if s.peerStream dev then s
      else match s.hvRead key wd.bytes with
        | .ok v s' => s'.answerPeer dev id [BitVec.ofNat 64 v]
        | _ => s)
  | .atom key _ _ _ _ => guard key (s.peerBarn p dev id ctx e.req key)
  | .fill key _ => guard key (s.peerBarn p dev id ctx e.req key)
  | .take key => guard key (s.peerBarn p dev id ctx e.req key)
  | .peek key => guard key (s.peerBarn p dev id ctx e.req key)
  | .empty key => guard key (s.peerBarn p dev id ctx e.req key)
  | .chan _ key _ _ _ _ _ => guard key (s.peerBarn p dev id ctx e.req key)
  | .record ws res => .next (s.recordIn p dev id ws res)
  | .replace key be v => guard key (s.peerSend dev { mkEntry (key / 8 * 8) .replace .b false ctx 0 0#64 [peerOwner dev id] s.clk with be := be, val := v })
  | .cancel i => .next { s with dies := s.dies.map fun d => (d.1, { d.2 with peerWait := d.2.peerWait.filter fun w => !(w.dev == dev && w.id == i) }) }
  | .ferryReed key entry call retr src pay =>
    unit key (if accept then s.peerUnit dev key fun s => (s.arriveReed (chanOf key) src ctx call entry pay retr none).getD s else s.sendReply src ctx call 3 zero8)
  | .ferryClu key entry call retr src pay =>
    guard key (if accept then s.arriveClu (homeDie key) (chanOf key % 64) src ctx call entry pay retr else s.sendReply src ctx call 3 zero8)
  | .message key chan src pay =>
    let m : Msg := { kind := 4, q := chanOf key, chan := chan, src := src, ctx := ctx, id := id, entry := 0, pay := pay, ti := none, uid := 0, qent := none, first := 0#64, tile := none }
    unit key (s.peerUnit dev key fun s => { s with msgs := s.msgs ++ [m] })
  | .slctl key abort =>
    let q := chanOf key
    let g := (linOf key).getD 0 / 2048 % 4
    guard key (s.peerUnit dev key fun s =>
      let s' := if abort then s.sluAbort q g else s
      s'.answerPeer dev id [(s'.sluice q g).status])

/-! ### A peer answers (R124, R125, R288) -/

/-- A peer's load that no thread waits in has been answered: an element of LD.nb, VLD or VGATH, a copy's source word, or a queue's
token. -/
def State.peerLoaded (s : State) (r : PReq) (v : W64) : State :=
  let s : State := { s with
    loads := s.loads.map fun l => { l with elems := l.elems.map fun e => if e.req = r.id then { e with ans := some v } else e }
    copies := s.copies.map fun c => if c.id = r.owner.uid then c.keep c.want v else c }
  if 2 ^ 64 ≤ r.owner.uid then s.tokenSeen r.owner.qPart r.owner.qNum v.toNat else s

/-- Was the request made by the part itself, which looks for its answer among `peerAns` (R123)? -/
def PReq.ofPart (r : PReq) : Bool := r.ti.isNone && decide (2 ^ 65 ≤ r.owner.uid)

/-- The request ev.q is answered: an acknowledged update leaves the stream; a thread gets its result (no word: IllegalOperation);
a message completes or (ev.flag = false) ends with REMOTE; a record's status comes back. (log 60) -/
def execPeerAnswer (s : State) : Out :=
  let e := s.cur.ev
  match s.peerq.find? fun r => r.id == e.q with
  | none => .next s
  | some r =>
    let s' := { s with peerq := s.peerq.filter fun x => x.id != r.id }
    if r.ofPart then .next (if e.flag then { s' with peerAns := s'.peerAns ++ [(r.owner, r.req, e.ws)] } else s)
    else match r.ti, r.req with
    | none, .message _ _ _ _ =>
      let p := r.owner.qPart
      let q := r.owner.qNum
      let i := r.owner.qIdx
      .next (if e.flag then s'.entDone p q i else s'.queueFault p q 6 i 0 0)
    | none, .load _ _ => .next (if e.flag then s'.peerLoaded r (e.ws.headD 0#64) else s)
    | none, _ => .next (if e.flag && r.ready then s' else s)
    | some _, .record _ _ => (match s.tissue r.owner.uid with
      | some u => .next (s'.recordAnswer u r.dev (if e.flag then some e.ws else none))
      | none => .next s')
    | some ti, .message _ chan _ _ =>
      let s' := s'.copyDone ti r.owner.uid .dev
      .next (if e.flag ∨ (s.thr ti).uid ≠ r.owner.uid then s' else s'.engineFaultTo ti r.owner.uid 8 (if chan = 14 then wIxred else wRsend) r.first 0#64 0#64 0#64)
    | some _, .ferryReed .. => .next s
    | some _, .ferryClu .. => .next s
    | some ti, _ =>
      if (s.thr ti).uid ≠ r.owner.uid ∨ (s.thr ti).live = false then .next s'
      else match (s.thr ti).wait with
        | .peer i _ =>
          if i ≠ r.id then .next s'
          else .next (if e.flag then s'.modThr ti fun t => { t with wait := .no, ph := { t.ph with ans := some e.ws } } else s)
        | _ => .next s'

end Sys2Proof.Machine
end

