-- ==== Sys2Proof/Machine/Sha256.lean ====
section
/-!
DEFINITION. Sha256.lean: the hash by which the measurement registers are extended (R378): SHA-256 over bytes, from its standard
(PRESUMED, log 45).
-/
namespace Sys2Proof
namespace Sha

abbrev W32 := BitVec 32

/-- The words of a number of n of them, the most significant first. -/
def wordsOf : (n : Nat) → (v : Nat) → List W32
  | 0, _ => []
  | n + 1, v => BitVec.ofNat 32 (v >>> (32 * n)) :: wordsOf n v

/-- The round constants, one block of sixteen to a number: word i is the first 32 fraction bits of the cube root of prime i. -/
def k : List W32 :=
  wordsOf 16
    0x428a2f9871374491b5c0fbcfe9b5dba53956c25b59f111f1923f82a4ab1c5ed5d807aa9812835b01243185be550c7dc372be5d7480deb1fe9bdc06a7c19bf174
  ++ wordsOf 16
    0xe49b69c1efbe47860fc19dc6240ca1cc2de92c6f4a7484aa5cb0a9dc76f988da983e5152a831c66db00327c8bf597fc7c6e00bf3d5a7914706ca635114292967
  ++ wordsOf 16
    0x27b70a852e1b21384d2c6dfc53380d13650a7354766a0abb81c2c92e92722c85a2bfe8a1a81a664bc24b8b70c76c51a3d192e819d6990624f40e3585106aa070
  ++ wordsOf 16
    0x19a4c1161e376c082748774c34b0bcb5391c0cb34ed8aa4a5b9cca4f682e6ff3748f82ee78a5636f84c878148cc7020890befffaa4506cebbef9a3f7c67178f2

/-- The starting value: the first 32 fraction bits of the square roots of the first eight primes. -/
def h0 : List W32 := wordsOf 8 0x6a09e667bb67ae853c6ef372a54ff53a510e527f9b05688c1f83d9ab5be0cd19

/-- A big-endian word of four bytes. -/
def beWord (b : List Byte) : W32 := BitVec.ofNat 32 (b.foldl (fun n x => n * 256 + x.toNat) 0)
def beBytes (n : Nat) (v : Nat) : List Byte := (leBytes n v).reverse

/-- The message with its padding. -/
def pad (m : List Byte) : List Byte :=
  let n := m.length
  m ++ [0x80#8] ++ List.replicate ((119 - n % 64) % 64) 0#8 ++ beBytes 8 (8 * n)

/-- Extend the schedule by n words; it is kept newest first. -/
def schedule : (n : Nat) → List W32 → List W32
  | 0, w => w
  | n + 1, w =>
    let a := w.getD 14 0
    let b := w.getD 1 0
    let s0 := a.rotateRight 7 ^^^ a.rotateRight 18 ^^^ (a >>> 3)
    let s1 := b.rotateRight 17 ^^^ b.rotateRight 19 ^^^ (b >>> 10)
    schedule n ((w.getD 15 0 + s0 + w.getD 6 0 + s1) :: w)

/-- One round over the eight working words. -/
def round (v : List W32) (x : W32) : List W32 :=
  let g (i : Nat) : W32 := v.getD i 0
  let s1 := (g 4).rotateRight 6 ^^^ (g 4).rotateRight 11 ^^^ (g 4).rotateRight 25
  let ch := (g 4 &&& g 5) ^^^ (~~~(g 4) &&& g 6)
  let t1 := g 7 + s1 + ch + x
  let s0 := (g 0).rotateRight 2 ^^^ (g 0).rotateRight 13 ^^^ (g 0).rotateRight 22
  let mj := (g 0 &&& g 1) ^^^ (g 0 &&& g 2) ^^^ (g 1 &&& g 2)
  [t1 + s0 + mj, g 0, g 1, g 2, g 3 + t1, g 4, g 5, g 6]

/-- One block of 64 bytes. -/
def block (h : List W32) (b : List Byte) : List W32 :=
  let w := (List.range 16).map fun i => beWord ((b.drop (4 * i)).take 4)
  let ws := (schedule 48 w.reverse).reverse
  let v := (ws.zip k).foldl (fun v x => round v (x.1 + x.2)) h
  (h.zip v).map fun x => x.1 + x.2

/-- The blocks of a padded message. -/
def blocks : (n : Nat) → List W32 → List Byte → List W32
  | 0, h, _ => h
  | n + 1, h, m => blocks n (block h (m.take 64)) (m.drop 64)

/-- SHA-256 of a list of bytes: 32 bytes. -/
def sha256 (m : List Byte) : List Byte :=
  let p := pad m
  (blocks (p.length / 64) h0 p).flatMap fun w => beBytes 4 w.toNat

end Sha
end Sys2Proof
end

