-- ==== Sys2Proof/Machine/Hss.lean ====
section
/-!
DEFINITION. Hss.lean: the HSS signatures of images and reports (R379, R380): two levels of LMS_SHA256_M32_H10 over LMOTS_SHA256_N32_W4, as
RFC 8554 has them (PRESUMED, log 15). A tree's node r has the sons 2r and 2r + 1; leaf q is node 1024 + q.
-/
namespace Sys2Proof
namespace Hss
open Sha

/-- The name of a tree: 16 bytes that enter every hash of it. -/
abbrev TreeId := List Byte

/-- Big-endian fields of a signature or key. -/
def num (m : List Byte) (at0 n : Nat) : Nat := ((m.drop at0).take n).foldl (fun v b => v * 256 + b.toNat) 0
def part (m : List Byte) (at0 n : Nat) : List Byte := (m.drop at0).take n

/-! ### One-time signatures: 67 chains of 15 steps -/

/-- Chains of a one-time key, and steps of a chain. -/
def chains : Nat := 67
def steps : Nat := 15

/-- n steps of chain i of leaf q, from step j on. -/
def chain (name : TreeId) (q i : Nat) : (n j : Nat) → List Byte → List Byte
  | 0, _, x => x
  | n + 1, j, x => chain name q i n (j + 1) (sha256 (name ++ beBytes 4 q ++ beBytes 2 i ++ beBytes 1 j ++ x))

/-- The four-bit digits of some bytes, the upper half of a byte first. -/
def digits (m : List Byte) : List Nat := m.flatMap fun b => [b.toNat / 16, b.toNat % 16]

/-- How far each chain is revealed for a message: the digits of its hash, and of the sum of what they leave, shifted left by 4. -/
def reveal (name : TreeId) (q : Nat) (salt m : List Byte) : List Nat :=
  let h := digits (sha256 (name ++ beBytes 4 q ++ beBytes 2 0x8181 ++ salt ++ m))
  let rest := h.foldl (fun n d => n + (steps - d)) 0
  h ++ (digits (beBytes 2 (rest * 16))).take 3

/-- The one-time public key of leaf q that the ends of its chains make. -/
def otsKey (name : TreeId) (q : Nat) (ends : List (List Byte)) : List Byte :=
  sha256 (name ++ beBytes 4 q ++ beBytes 2 0x8080 ++ ends.flatten)

/-- The one-time public key that a signature answers to: type, salt, then where each chain was revealed. -/
def otsOf (name : TreeId) (q : Nat) (sig m : List Byte) : List Byte :=
  let a := reveal name q (part sig 4 32) m
  otsKey name q ((List.range chains).map fun i => chain name q i (steps - a.getD i 0) (a.getD i 0) (part sig (36 + 32 * i) 32))

/-- A one-time signature, from the secret starts of the chains. -/
def otsSign (name : TreeId) (q : Nat) (salt : List Byte) (secret : Nat → List Byte) (m : List Byte) : List Byte :=
  let a := reveal name q salt m
  beBytes 4 3 ++ salt ++ (List.range chains).flatMap fun i => chain name q i (a.getD i 0) 0 (secret i)

/-! ### Trees of 1,024 leaves -/

/-- Levels of a tree. -/
def height : Nat := 10
def otsLen : Nat := 4 + 32 + 32 * chains
/-- Bytes of one LMS signature, of its public key, and of an HSS signature (R379). -/
def lmsLen : Nat := 4 + otsLen + 4 + 32 * height
def keyLen : Nat := 4 + 4 + 16 + 32
def hssLen : Nat := 4 + lmsLen + keyLen + lmsLen

def leafNode (name : TreeId) (r : Nat) (key : List Byte) : List Byte := sha256 (name ++ beBytes 4 r ++ beBytes 2 0x8282 ++ key)
def fork (name : TreeId) (r : Nat) (a b : List Byte) : List Byte := sha256 (name ++ beBytes 4 r ++ beBytes 2 0x8383 ++ a ++ b)

/-- From node r, whose value is x, to the root along the brothers given. -/
def climb (name : TreeId) : (r : Nat) → (x : List Byte) → List (List Byte) → List Byte
  | _, x, [] => x
  | r, x, y :: ys => climb name (r / 2) (if r % 2 = 1 then fork name (r / 2) y x else fork name (r / 2) x y) ys

/-- An LMS public key: both types, the tree's name and its root. -/
def lmsKey (name : TreeId) (root : List Byte) : List Byte := beBytes 4 6 ++ beBytes 4 3 ++ name ++ root

/-- Does a signature of a message verify against a public key? -/
def lmsOk (key sig m : List Byte) : Bool :=
  let name := part key 8 16
  let q := num sig 0 4
  let brothers := (List.range height).map fun i => part sig (8 + otsLen + 32 * i) 32
  key.length == keyLen && sig.length == lmsLen && num key 0 4 == 6 && num key 4 4 == 3 && num sig 4 4 == 3 && num sig (4 + otsLen) 4 == 6 &&
  decide (q < 2 ^ height) && climb name (2 ^ height + q) (leafNode name (2 ^ height + q) (otsOf name q (part sig 4 otsLen) m)) brothers == part key 24 32

/-- Does an HSS signature of a message verify against a top public key: the count, the bottom key under the top signature, the message under
the bottom signature (R379)? -/
def hssOk (top sig m : List Byte) : Bool :=
  let bottom := part sig (4 + lmsLen) keyLen
  sig.length == hssLen && num sig 0 4 == 1 && lmsOk top (part sig 4 lmsLen) bottom && lmsOk bottom (part sig (4 + lmsLen + keyLen) lmsLen) m

/-! ### Signing with the identity key (R380) -/

/-- Tree 0 is the top tree; tree t + 1 hangs below its leaf t. -/
def nodeOf (t : Nat) : (below : Nat) → (r : Nat) → List Byte
  | 0, r =>
    let name := Config.treeName t
    let q := r - 2 ^ height
    leafNode name r (otsKey name q ((List.range chains).map fun i => chain name q i steps 0 (Config.otsSecret t q i)))
  | n + 1, r => fork (Config.treeName t) r (nodeOf t n (2 * r)) (nodeOf t n (2 * r + 1))

/-- The public key of a tree. -/
def treeKey (t : Nat) : List Byte := lmsKey (Config.treeName t) (nodeOf t height 1)

/-- An LMS signature with leaf q of tree t: the brothers stand from the leaf's level up. -/
def lmsSign (t q : Nat) (m : List Byte) : List Byte :=
  beBytes 4 q ++ otsSign (Config.treeName t) q (Config.otsSalt t q) (Config.otsSecret t q) m ++ beBytes 4 6 ++
  (List.range height).flatMap fun i => let r := (2 ^ height + q) / 2 ^ i; nodeOf t i (if r % 2 = 1 then r - 1 else r + 1)

/-- The HSS signature with leaf n: top leaf n[19:10], and leaf n[9:0] of the tree below it. -/
def hssSign (n : Nat) (m : List Byte) : List Byte :=
  let t := nfld n 10 10
  let key := treeKey (t + 1)
  beBytes 4 1 ++ lmsSign 0 t key ++ key ++ lmsSign (t + 1) (nfld n 0 10) m

end Hss
end Sys2Proof
end

