-- ==== Sys2Proof/Machine/Privileged.lean ====
section
/-!
DEFINITION. Privileged.lean: the SYS registers (R318 to R320, R338, R349, R359, R374), SRD and SWR (R321), the writes with an effect of
their own (R319, R338, R339, R341, R360), context switches (R48, R331), XINV and page walks (R351 to R357). Reserved bits of a
register may not be written nonzero (log 40).
-/
namespace Sys2Proof.Machine
open Sys2Proof

/-! ### The register numbers -/

/-- Numbers 18 to 63, 288 to 383 and the gaps of R338, R349, R359 and R374 are reserved. -/
def sysReserved (n : Nat) : Bool :=
  (decide (18 ≤ n) && decide (n ≤ 63)) || (decide (68 ≤ n) && decide (n ≤ 79)) || (decide (82 ≤ n) && decide (n ≤ 95)) ||
  (decide (102 ≤ n) && decide (n ≤ 111)) || (decide (178 ≤ n) && decide (n ≤ 255)) || (decide (288 ≤ n) && decide (n ≤ 383)) || decide (512 ≤ n)

/-- Reads and writes that need firmware level (R359, R374, R375, R382). -/
def sysFwRead (n : Nat) : Bool := n == 101
def sysFwWrite (n : Nat) : Bool := n == 96 || n == 101 || n == 112 || (decide (118 ≤ n) && decide (n ≤ 142))
/-- Registers that are read only at every level. -/
def sysReadOnly (n : Nat) : Bool :=
  n == 12 || n == 15 || n == 98 || n == 100 || (decide (114 ≤ n) && decide (n ≤ 116)) || n == 143 || n == 144 || (decide (146 ≤ n) && decide (n ≤ 177))
/-- Registers held per thread or per cluster: they are not in the window (R369). -/
def sysLocal (n : Nat) : Bool := (decide (1 ≤ n) && decide (n ≤ 10)) || n == 15 || (decide (256 ≤ n) && decide (n ≤ 287)) || decide (384 ≤ n)

/-! ### Registers of a thread -/

def Thread.sysGet (t : Thread) (n : Nat) : W64 :=
  match n with
  | 1 => t.tpc | 2 => t.taddr | 3 => t.tcause | 4 => t.tstat
  | 5 => vget t.tscr 0 | 6 => vget t.tscr 1 | 7 => vget t.tscr 2 | 8 => vget t.tscr 3
  | 9 => BitVec.ofNat 64 t.win
  | 10 => t.wsp
  | n => vget t.phys (t.sysPhys n)

/-- None where the value breaks a bound of R320. -/
def Thread.sysPut (t : Thread) (n : Nat) (v : W64) : Option Thread :=
  match n with
  | 1 => some { t with tpc := v }
  | 2 => some { t with taddr := v }
  | 3 => if fld v 18 46 = 0 then some { t with tcause := v } else none
  | 4 => if fld v 3 61 = 0 ∧ fld v 0 2 ≤ 1 then some { t with tstat := v } else none
  | 5 => some { t with tscr := vset t.tscr 0 v }
  | 6 => some { t with tscr := vset t.tscr 1 v }
  | 7 => some { t with tscr := vset t.tscr 2 v }
  | 8 => some { t with tscr := vset t.tscr 3 v }
  | 9 => some { t with wb := BitVec.ofNat 3 (fld v 16 3), bot := BitVec.ofNat 3 (fld v 20 3), depth := BitVec.ofNat 16 (fld v 24 16) }
  | 10 => some { t with wsp := v }
  | n => some { t with phys := vset t.phys (t.sysPhys n) v, rpois := t.rpois.filter (· != t.sysPhys n) }

/-! ### Registers of a context, a partition, the device -/

/-- SYS.CTXSEL of a cluster (R318). -/
def State.ctxsel (s : State) (d cl : Nat) : W64 :=
  let p := s.partOf d
  BitVec.ofNat 64 ((s.cluster d cl).rot % 2 + 2 * b2n (s.switchTo d cl).isSome + 4 * b2n (s.ctx p 0).saved + 8 * b2n (s.ctx p 1).saved)

/-- Word i of a measurement register, little-endian (R374). -/
def State.measWord (s : State) (i : Nat) : W64 := BitVec.ofNat 64 (leNat (((s.meas.getD (i / 4) []).drop (8 * (i % 4))).take 8))

def State.sysGet (s : State) (p c n : Nat) : W64 :=
  let x := s.ctx p c
  let pt := s.part p
  match n with
  | 0 => x.tvec | 11 => x.fring | 12 => x.fhead | 13 => x.ftail | 14 => x.fagent | 16 => x.tilth
  | 17 => pt.cellstore | 64 => pt.qtab | 65 => x.devrcb | 66 => x.wdog | 80 => x.ptroot | 81 => x.rtab
  | 96 => pt.pdies.zeroExtend 64 | 97 => pt.elog | 98 => pt.ehead | 99 => pt.etail | 100 => pt.ecount
  | 101 => BitVec.ofNat 64 (b2n pt.spareFailed * 2 ^ 62 + b2n pt.spareCmd.isSome * 2 ^ 63)
  | 112 => pt.devid | 113 => pt.rxctx | 114 => pt.reach.getD 0 0#64 | 115 => pt.reach.getD 1 0#64 | 116 => pt.reach.getD 2 0#64 | 117 => pt.mctab
  | 142 => BitVec.ofNat 64 (fld s.pwrcap 0 16 + b2n s.throttle * 2 ^ 16)
  | 143 => s.therm | 144 => BitVec.ofNat 64 s.nvmNext
  | n =>
    if 118 ≤ n ∧ n ≤ 141 then (if pt.ports.getLsbD (n - 118) then s.cwport.getD (n - 118) 0#64 &&& ~~~(0x40#64) else 0#64)
    else if 146 ≤ n ∧ n ≤ 177 then s.measWord (n - 146)
    else 0#64

/-- How a write of a register ends. -/
inductive SysW where
  | ok (s : State)
  /-- a read-only register, or a value out of bound: nothing changes (R318) -/
  | bad
  /-- the same, found after the part has learned the result of a walk or a peer's answer -/
  | badOn (s : State)
  /-- not yet: the part waits for a walk's table entry or a held word -/
  | wait (s : State)
  deriving Repr

/-- Is a launch live (R170)? -/
def Launch.live (l : Launch) : Bool := l.state == 1 || l.state == 2
/-- Does a context hold a live launch? -/
def State.ctxLive (s : State) (p c : Nat) : Bool := s.launches.any fun l => l.2.live && l.2.p == p && l.2.ctx == c

/-- The runs of a partition's dies. -/
def State.partRuns (s : State) (p : Nat) : List (RunId × Run) := s.runs.filter fun r => (s.partDies p).contains r.1.dieOf

/-- Does an entry of the partition satisfy f, in a run or awaiting admission? -/
def State.anyEntry (s : State) (p : Nat) (f : Entry → Bool) : Bool :=
  ((s.partRuns p).any fun r => r.2.ents.any f) || (s.partDies p).any fun d => (s.die d).sent.any fun x => f x.e

/-- A write of SYS.CELLSTORE (R319): the store is idle, its cells are rounded, the new size applies. -/
def State.putCellstore (s : State) (p : Nat) (v : W64) : SysW :=
  if fld v 8 56 ≠ 0 ∨ s.ctxLive p 0 = true ∨ s.ctxLive p 1 = true ∨ s.anyEntry p (fun _ => true) = true ∨
      (s.ctx p 0).saved = true ∨ (s.ctx p 1).saved = true then .bad
  else
    let s := { s with cells := s.cells.filter fun c => !((s.partDies p).contains (c.1 / 2 ^ 37)) }
    .ok (s.setPart p { s.part p with cellstore := v })

/-- Has a die an engine operation: a copy, a bin, a load, tiles, a Reed task or message, a Sluice program, or a FERRY from it or to it? -/
def State.engineIdle (s : State) (d : Nat) : Bool :=
  (s.copies.all fun c => c.die != d) && (s.winnow.all fun w => w.die != d) && (s.loads.all fun l => l.ti.die != d) &&
  (s.tissues.all fun u => u.ti.die != d && u.dies.all fun x => x.die != d) &&
  (s.reeds.all fun r => r.1 / 64 != d || (r.2.task.isNone && r.2.queue.isEmpty)) && (s.msgs.all fun m => m.q / 64 != d) &&
  (s.sluices.all fun u => u.1.1 / 64 != d || !u.2.busy) &&
  (s.calls.all fun c => c.ti.die != d && (c.peer.isSome || (if c.cl then c.tgt / 96 else c.tgt / 64) != d)) &&
  (s.halves.all fun h => h.1.1 != d || h.2.calls.isEmpty) && (s.die d).peerWait.isEmpty && s.slots.all fun x => x.1.die != d || !x.2.live

/-- Is a die idle in both contexts (R360)? -/
def State.dieIdle (s : State) (d : Nat) : Bool :=
  (s.groups.all fun g => g.2.ended || g.2.die != d) && (s.runs.all fun r => r.1.dieOf != d || r.2.ents.isEmpty) && (s.die d).sent.isEmpty &&
  s.engineIdle d && (s.savedCtx.all fun x => !((s.partDies x.p).contains d)) && s.parts.all fun p => p.2.cmds.all fun m => m.left.all fun k => k.1 != d

/-- The lowest die of a set, or `q` for the empty set. -/
def lowDie (b : BitVec 8) (q : Nat) : Nat := ((List.range 8).find? fun d => b.getLsbD d).getD q

/-- An origin, and a queue entry's number, under a partition's new name. -/
def Origin.rename (f : Nat → Nat) : Origin → Origin
  | .queue p q i => .queue (f p) q i
  | .record p q i => .record (f p) q i
  | .thread ti uid => .thread ti uid
/-- An owner of the part itself that names a queue by its partition. -/
def Owner.rename (f : Nat → Nat) (o : Owner) : Owner :=
  if o.uid < 2 ^ 64 then o
  else if o.uid < 2 ^ 65 then queueOwner (f o.qPart) o.qNum o.qIdx
  else if [3, 4, 5, 7, 9].contains o.launch then
    let n := o.uid - 2 ^ 65
    partReader o.launch (n / 512 * 512 + f (n / 64 % 8) * 64 + n % 64)
  else o
def renameEnt (f : Nat → Nat) (e : Option (Nat × Nat × Nat)) : Option (Nat × Nat × Nat) := e.map fun x => (f x.1, x.2)

/-- A partition goes by its lowest die: rename the tables that are keyed by it, and whatever names one. -/
def State.renameParts (s : State) (f : Nat → Nat) : State :=
  { s with
    parts := s.parts.map fun x => (f x.1, { x.2 with subs := x.2.subs.map fun u => { u with p := f u.p, origin := u.origin.rename f } })
    ctxs := s.ctxs.map fun x => ((f x.1.1, x.1.2), x.2)
    queues := s.queues.map fun x => ((f x.1.1, x.1.2), x.2)
    launches := s.launches.map fun x => (x.1, { x.2 with p := f x.2.p, origin := x.2.origin.rename f })
    copies := s.copies.map fun c => { c with qent := renameEnt f c.qent }
    msgs := s.msgs.map fun m => { m with qent := renameEnt f m.qent }
    reeds := s.reeds.map fun r => (r.1, { r.2 with queue := r.2.queue.map fun m => { m with qent := renameEnt f m.qent }
                                                   task := r.2.task.map fun m => { m with qent := renameEnt f m.qent } })
    peerq := s.peerq.map fun r => { r with owner := r.owner.rename f }
    peerAns := s.peerAns.map fun x => (x.1.rename f, x.2)
    dies := s.dies.map fun d => (d.1, { d.2 with peerWait := d.2.peerWait.map fun w => { w with p := f w.p } })
    tissues := s.tissues.map fun u => { u with p := f u.p }
    savedCtx := s.savedCtx.map fun x => { x with p := f x.p } }

/-- Partitions that have lost their last die are gone, with what they held. -/
def State.dropParts (s : State) : State :=
  let gone (p : Nat) : Bool := s.parts.any fun x => x.1 == p && x.2.pdies == 0#8
  { s with
    parts := s.parts.filter fun x => !(gone x.1)
    ctxs := s.ctxs.filter fun x => !(gone x.1.1)
    queues := s.queues.filter fun x => !(gone x.1.1) }

/-- Does a partition that would lose every die hold no live launch (R360)? -/
def State.emptied (s : State) (p : Nat) (new : BitVec 8) : Bool :=
  s.parts.all fun x => (if x.1 = p then new != 0#8 else x.2.pdies &&& ~~~new != 0#8) || (!s.ctxLive x.1 0 && !s.ctxLive x.1 1)

/-- A firmware write of SYS.PDIES (R360): the dies that change hands must be idle. Dies that no partition keeps make a partition of
their own, with every register at its reset value: each die belongs to exactly one (log 74). -/
def State.putPdies (s : State) (p : Nat) (v : W64) : SysW :=
  let old := (s.part p).pdies
  let new := v.truncate 8
  if fld v 8 56 ≠ 0 ∨ ((List.range 8).all fun d => (old ^^^ new).getLsbD d == false || s.dieIdle d) = false ∨ s.emptied p new = false then .bad
  else
    let s := s.setPart p { s.part p with pdies := new }
    let s : State := { s with parts := s.parts.map fun (x : Nat × Part) => if x.1 = p then x else (x.1, { x.2 with pdies := x.2.pdies &&& ~~~new }) }
    let s := s.dropParts
    let names : List (Nat × Nat) := s.parts.map fun (x : Nat × Part) => (x.1, lowDie x.2.pdies x.1)
    let s := s.renameParts fun q => aget q names q
    let free := old &&& ~~~new
    .ok (if free = 0#8 then s else { s with parts := s.parts ++ [(lowDie free 0, { Part.zero with pdies := free })] })

/-! ### The device region (R338) -/

/-- Is the address in memory that the part reads tables and control blocks from: device memory, host memory, a reachable peer's? The Steading
window holds firmware-defined registers and no memory. -/
def State.isMemory (s : State) (p pa : Nat) : Bool :=
  match s.classify p pa with | .dram _ => true | .host _ _ => true | .peer v _ => s.reaches p v | _ => false

/-- The eight doublewords of an RCB or a descriptor, read once in the home view; a word that is held or poisoned, or that a peer has still to
send, is waited for, by the state left. -/
def State.blockRead (s : State) (p : Nat) (ow : Owner) (pa : Nat) : Except State (List Nat × State) :=
  match s.partWords (homePath pa) p ow pa 8 with
  | .ok (w, s) => .ok (w, s.dropAns ow)
  | .error (.wait s) => .error s
  | .error _ => .error s

/-- Fields that a device region and a launch share are in range (R34). -/
def rcbCommon (w : List Nat) : Bool := nfld (w.getD 3 0) 50 14 == 0 && nfld (w.getD 4 0) 38 26 == 0 && nfld (w.getD 7 0) 8 24 == 0

/-- A device region's own check (R338): PARENT, PRIO_SET, and every reserved field. -/
def devRcbOk (w : List Nat) : Bool := w.getD 0 0 == 0 && nbit (w.getD 3 0) 43 && rcbCommon w

/-- The device region an RCB describes. -/
def devRegOf (pa : Nat) (w : List Nat) : DevReg :=
  { rcb := pa, prio := nfld (w.getD 3 0) 40 3, slotBud := nfld (w.getD 5 0) 0 32, spBud := nfld (w.getD 5 0) 32 32, opBud := nfld (w.getD 6 0) 0 16
    domain := nfld (w.getD 6 0) 16 16, quota := nfld (w.getD 6 0) 32 32, det := nbit (w.getD 3 0) 45, state := 2 }

/-- Is a physical address the RCB of a live launch, or of a device region of the partition other than context `c`'s? -/
def State.rcbLive (s : State) (p : Nat) (c : Option Nat) (pa : Nat) : Bool :=
  (s.launches.any fun l => l.2.live && l.2.rcb == some pa) ||
  (List.range 2).any fun x => some x != c && (match (s.ctx p x).dev with | some d => d.rcb == pa && d.state != 4 | none => false)

/-- STATE 3 goes into the RCB that SYS.DEVRCB names, a refused one too, unless containment has reached it. -/
def State.retireDev (s : State) (p c pa : Nat) : State :=
  match (s.ctx p c).dev with
  | some d =>
    let s := if d.rcb ≠ pa ∧ d.state ≠ 5 then s.sysWord p c (d.rcb + 0x38) (rcbWord 3 0 0) else s
    s.setCtx p c { s.ctx p c with dev := none }
  | none => s

/-- A write of SYS.DEVRCB (R338; log 54). An RCB that lies where there is no memory, in the Steading window for one, raises IllegalOperation
(DESIGN CHOICE, log 54). -/
def State.putDevrcb (s : State) (p c : Nat) (v : W64) : SysW :=
  if s.ctxLive p c = true then .bad
  else if v = 0#64 then
    let s := s.retireDev p c (2 ^ 64)
    .ok (s.setCtx p c { s.ctx p c with devrcb := 0#64 })
  else if v.toNat % 64 ≠ 0 then .bad
  else match s.xlatePart (unitReg p c) ((s.partDies p).headD p) c v.toNat .read true with
    | .fault s => .badOn s
    | .poison _ s => .badOn s
    | .wait s => .wait s
    | .ok pa s =>
      if !s.isMemory p pa then .badOn s
      else match s.blockRead p (partReader 7 (p * 64 + c)) pa with
        | .error s => .wait s
        | .ok (w, s) =>
          if nfld (w.getD 7 0) 0 4 ≠ 0 ∨ s.rcbLive p (some c) pa = true then .badOn s
          else
            let s := s.retireDev p c pa
            let ok := devRcbOk w
            let s := s.setCtx p c { s.ctx p c with devrcb := v, dev := some { devRegOf pa w with state := if ok then 2 else 4 } }
            .ok (s.sysWord p c (pa + 0x38) (if ok then rcbWord 2 0 0 else rcbWord 4 1 0))

/-! ### SYS.QCTL (R338, R339, R341) -/

/-- A descriptor a start accepts (R339). -/
def qdescOk (pdies : BitVec 8) (w : List Nat) : Bool :=
  let a := w.getD 1 0
  let typ := nfld a 4 3
  nfld (w.getD 0 0) 56 8 == 0 && w.getD 0 0 % 64 == 0 && nfld a 7 1 == 0 && nfld a 24 40 == 0 &&
  nfld (w.getD 2 0) 32 32 == 0 && nfld (w.getD 3 0) 2 6 == 0 && nfld (w.getD 3 0) 16 16 == 0 && nfld (w.getD 4 0) 36 28 == 0 &&
  w.getD 5 0 == 0 && w.getD 6 0 == 0 && w.getD 7 0 == 0 &&
  decide (1 ≤ nfld a 0 4) && decide (nfld a 0 4 ≤ 12) && decide (1 ≤ typ) && decide (typ ≤ 4) && (typ != 3 || decide (nfld a 8 3 ≤ 3)) &&
  pdies.toNat &&& nfld a 16 8 != 0 && (nbit a 13 || nbit a 14 || typ == 2 || typ == 3)

/-- The queue a descriptor starts; entries that have not completed stay known, but for those that have faulted (log 41). An entry's number is its
index, with the count of the queue's starts above 2^64. -/
def queueOf (w : List Nat) (ents : List QEnt) (gen : Nat) : Queue :=
  let a := w.getD 1 0
  { base := w.getD 0 0, logN := nfld a 0 4, typ := nfld a 4 3, prio := nfld a 8 3, ctx := nfld a 11 1, serial := nbit a 12, narrow := nbit a 13
    wide := nbit a 14, sup := nbit a 15, dies := nfld a 16 8, head := gen * 2 ^ 64 + nfld (w.getD 2 0) 0 32, state := 1, stop := false, cur := none, tokOk := false, ents := ents }

/-- Write +0x18 and +0x20 of a descriptor. -/
def State.qState (s : State) (p q c w3 w4 : Nat) : State :=
  let base := (s.part p).qtab.toNat + 64 * q
  (s.sysWord p c (base + 0x18) w3).sysWord p c (base + 0x20) w4

/-- Start queue q: read and check its descriptor. A queue that runs already goes on (log 41). -/
def State.qStart (s : State) (p q : Nat) : SysW :=
  let old := aget? s.queues (p, q)
  if (match old with | some x => x.state == 1 | none => false) then .ok s
  else
    let base := (s.part p).qtab.toNat + 64 * q
    if !s.isMemory p base then .bad
    else match s.blockRead p (partReader 5 (p * 64 + q)) base with
      | .error s => .wait s
      | .ok (w, s) =>
        if !qdescOk (s.part p).pdies w then .badOn s
        else
          let s := s.withdrawPart (queueReader p q)
          let x := queueOf w (match old with | some x => x.ents.filter fun e => e.op != 6 | none => []) (match old with | some x => x.head / 2 ^ 64 + 1 | none => 0)
          .ok (({ s with queues := aset s.queues (p, q) x } : State).qState p q x.ctx 1 0)

/-- Stop queue q between entries; the write completes once it has stopped. -/
def State.qStop (s : State) (p q : Nat) : SysW :=
  match aget? s.queues (p, q) with
  | none => .ok s
  | some x =>
    if x.state ≠ 1 then .ok s
    else match x.cur with
      | none => .ok (({ s.withdrawPart (queueReader p q) with queues := aset s.queues (p, q) { x with state := 0, stop := true } } : State).qState p q x.ctx 0 0)
      | some _ => .wait { s with queues := aset s.queues (p, q) { x with stop := true } }

/-! ### Sparing commands (R362) and attestation requests (R381) -/

/-- Is a command one that R362 accepts for the partition? -/
def State.spareOk (s : State) (p : Nat) (v : W64) : Bool :=
  let kind := fld v 0 3
  let die := fld v 3 3
  let unit := fld v 6 9
  let sp := fld v 15 9
  let inPart := (s.partDies p).contains die
  fld v 24 40 == 0 &&
  (match kind with
   | 1 => inPart && decide (unit < 96) && decide (sp < 96) && (s.cluster die sp).reserved && decide (unit / 64 = sp / 64)
   | 2 => inPart && decide (unit < 96)
   | 3 => inPart && decide (unit < 96)
   | 4 => inPart && decide (unit < 64)
   | 5 => decide (unit < 16)
   | _ => false)

/-- A write of SYS.SPARECMD starts the command: BUSY until its event has run. -/
def State.putSpare (s : State) (p : Nat) (v : W64) : SysW :=
  if (s.part p).spareCmd.isSome || !s.spareOk p v then .bad
  else .ok (s.setPart p { s.part p with spareCmd := some v.toNat, spareFailed := false })

/-- A write of SYS.ATTREQ for partition p (R381): a key of the interleaved window, aligned to 64. -/
def State.putAttreq (s : State) (p : Nat) (v : W64) : SysW :=
  if v.toNat % 64 = 0 ∧ v.toNat < 0xA000000000 then .ok { s with attq := s.attq ++ [(p, v.toNat, 2)] } else .bad

/-- A write of a Causeway port (R375): LIMIT112 stands, and RETRAIN asks for a retraining. -/
def State.putPort (s : State) (i : Nat) (v : W64) : State :=
  { s with cwport := lset s.cwport i ((s.cwport.getD i 0#64 &&& ~~~(0x20#64)) ||| (v &&& 0x60#64)) }

/-- A write of a register held per context, partition or device, beyond the level checks. -/
def State.sysPut (s : State) (p c n : Nat) (v : W64) : SysW :=
  let x := s.ctx p c
  let pt := s.part p
  let cx (ok : Bool) (y : Ctx) : SysW := if ok then .ok (s.setCtx p c y) else .bad
  let pa (ok : Bool) (y : Part) : SysW := if ok then .ok (s.setPart p y) else .bad
  match n with
  | 0 => cx (fld v 0 12 == 0) { x with tvec := v }
  | 11 => cx (decide (5 ≤ fld v 0 5) && decide (fld v 0 5 ≤ 20) && fld v 5 7 == 0 && fld v 56 8 == 0) { x with fring := v }
  | 13 => cx true { x with ftail := v }
  | 14 => cx (fld v 17 47 == 0) { x with fagent := v }
  | 16 => cx (fld v 0 12 == 0 && decide (fld v 32 6 ≤ 16) && fld v 38 26 == 0) { x with tilth := v }
  | 17 => s.putCellstore p v
  | 64 => pa (fld v 0 12 == 0 && fld v 52 12 == 0) { pt with qtab := v }
  | 65 => s.putDevrcb p c v
  | 66 => cx (v == 0#64 || (decide (16 ≤ fld v 0 6) && decide (fld v 0 6 ≤ 40) && fld v 6 58 == 0)) { x with wdog := v }
  | 67 => if fld v 6 2 ≠ 0 ∨ fld v 9 55 ≠ 0 then .bad else if v.getLsbD 8 then s.qStop p (fld v 0 6) else s.qStart p (fld v 0 6)
  | 80 => cx (fld v 1 11 == 0 && fld v 52 12 == 0) { x with ptroot := v }
  | 81 => cx (fld v 0 11 == 0 && fld v 52 12 == 0) { x with rtab := v }
  | 96 => s.putPdies p v
  | 97 => pa (v == 0#64 || (decide (5 ≤ fld v 0 5) && decide (fld v 0 5 ≤ 16) && fld v 5 7 == 0 && fld v 56 8 == 0)) { pt with elog := v }
  | 99 => pa true { pt with etail := v }
  | 101 => s.putSpare p v
  | 112 => pa (decide (fld v 0 8 ≤ 191) && fld v 14 50 == 0) { pt with devid := v }
  | 113 => pa (fld v 2 62 == 0) { pt with rxctx := v }
  | 117 => pa (fld v 0 12 == 0 && fld v 52 12 == 0) { pt with mctab := v }
  | 142 => if decide (800 ≤ fld v 0 16) && decide (fld v 0 16 ≤ 2400) && fld v 17 47 == 0 then .ok { s with pwrcap := BitVec.ofNat 64 (fld v 0 16) } else .bad
  | 145 => s.putAttreq p v
  | n => if 118 ≤ n ∧ n ≤ 141 ∧ pt.ports.getLsbD (n - 118) = true then .ok (s.putPort (n - 118) v) else .bad

/-! ### SRD and SWR (R321) -/

/-- Page 6 is for supervisor level (R317). -/
def State.needSup (s : State) : M Unit := ensure s.th.sup tPriv s.pc0

def doSrd (rd : Reg) (n : Nat) (s : State) : M State := do
  s.needSup
  ensure (!sysReserved n) tIllegal s.pc0
  ensure (!sysFwRead n) tPriv s.pc0
  let v := if n = 15 then s.ctxsel s.me.die s.me.clu else if sysLocal n then s.th.sysGet n else s.sysGet (s.pOf s.me) s.me.ctx n
  .ok (s.setReg rd v).fall

def execSrd (rd : Reg) (n : BitVec 9) (s : State) : Out := finish s (doSrd rd n.toNat s)

def doSwr (n : Nat) (rd : Reg) (s : State) : M State := do
  s.needSup
  ensure (!sysReserved n) tIllegal s.pc0
  ensure (!sysFwWrite n) tPriv s.pc0
  ensure (!sysReadOnly n) tOp s.pc0
  let v := s.reg rd
  if sysLocal n then
    match s.th.sysPut n v with
    | some t => .ok (s.modMe fun _ => t).fall
    | none => trap tOp s.pc0
  else match s.sysPut (s.pOf s.me) s.me.ctx n v with
    | .ok s => .ok s.fall
    | .bad => trap tOp s.pc0
    | .badOn t => .error (.trapOn t tOp 0 s.pc0)
    | .wait s => hold s

def execSwr (n : BitVec 9) (rd : Reg) (s : State) : Out := finish s (doSwr n.toNat rd s)

/-! ### Switching contexts (R48, R331) -/

/-- The clusters a CTXSW selects; none when the selection is out of bound. -/
def State.ctxswSel (s : State) (v : W64) : Option (List (Nat × Nat)) :=
  let p := s.pOf s.me
  let d := fld v 0 3
  if fld v 10 6 ≠ 0 ∨ fld v 18 46 ≠ 0 then none
  else if v.getLsbD 17 then some ((s.partDies p).flatMap fun d => (List.range 96).map fun c => (d, c))
  else if !(s.partDies p).contains d then none
  else if v.getLsbD 16 then some ((List.range 96).map fun c => (d, c))
  else if fld v 3 7 < 96 then some [(d, fld v 3 7)]
  else none

/-- A CTXSW that makes a context rotate ends its halt (R332). -/
def State.unhalt (s : State) (p c : Nat) : State := s.setCtx p c { s.ctx p c with halted := false }

/-- CTXSW: a cluster that rotates the context already, with no command before this one, has nothing to do; on the others the command takes its
turn (R331), and the thread waits until it has acted on all. -/
def doCtxsw (rd rs rt : Reg) (s : State) : M State := do
  s.needSup
  let c := fld (s.reg rt) 0 1
  let p := s.pOf s.me
  ensure (fld (s.reg rt) 1 63 == 0) tOp s.pc0
  match s.ctxswSel (s.reg rs) with
  | none => trap tOp s.pc0
  | some sel =>
    ensure (!(sel.contains (s.me.die, s.me.clu) && c != s.me.ctx) && !(s.ctx p c).saved) tOp s.pc0
    let act := sel.filter fun k => (s.cmdAt k.1 k.2).isSome || (s.cluster k.1 k.2).rot != c
    let s := if sel.all act.contains then s else s.unhalt p c
    if act.isEmpty then .ok (s.setReg rd 0#64).fall
    else hold (((s.addCmd ⟨s.me, some c, act, 0⟩).setPhase { s.th.ph with aux := rd.toNat }).waitMe .cmd)

def execCtxsw (rd rs rt : Reg) (s : State) : Out := finish s (doCtxsw rd rs rt s)

/-- What a switch does to a thread of the outgoing context (R48, R128): an instruction still under way is abandoned, unless it has left
the thread or has its answer. -/
def State.switchOut (s : State) (ti : SlotId) : State :=
  match (s.thr ti).wait with
  | .no => if s.answered ti || s.saving ti then s else s.abandon ti
  | .walk _ => if s.answered ti then s else s.abandon ti
  | .peer _ .ordered => s.abandon ti
  | _ => s

/-- No synchronous vector instruction of a context of a cluster is on a unit. -/
def State.atBoundary (s : State) (d cl c : Nat) : Bool := s.vunit.all fun u => !(u.2.sync && u.2.ti.die == d && u.2.ti.clu == cl && u.2.ti.ctx == c)

/-- Cluster (d, cl) makes context c rotate; a vector instruction that is on a unit runs to its end there (R48, R202). -/
def State.switchCluster (s : State) (d cl c : Nat) : State :=
  let out := (s.slots.filter fun (x : SlotId × Thread) => x.1.die == d && x.1.clu == cl && x.1.ctx == (s.cluster d cl).rot && x.2.live).map Prod.fst
  let s := out.foldl State.switchOut s
  s.setCluster d cl { s.cluster d cl with rot := c }

/-- A CTXSW has acted on the last of its clusters: it writes Reg(d) and completes. -/
def State.ctxswDone (s : State) (m : CtxCmd) : State :=
  if (s.thr m.ti).wait = .cmd then (s.modThr m.ti fun t => t.setReg (BitVec.ofNat 5 t.ph.aux) (BitVec.ofNat 64 m.n)).fallOf m.ti else s

/-- CONTEXT_SWITCH: the CTXSW whose turn it is at cluster (ev.die, ev.clu) acts there: the cluster switches unless it rotates that context
already (R331). -/
def execContextSwitch (s : State) : Out :=
  let d := s.cur.ev.die
  let cl := s.cur.ev.clu
  let p := s.partOf d
  match s.cmdAt d cl with
  | none => .next s
  | some m =>
    match m.ctx with
    | none => .next s
    | some c =>
      let sw := (s.cluster d cl).rot != c
      let s := (if sw then s.switchCluster d cl c else s).unhalt p c
      let m' := { m with left := m.left.filter (· != (d, cl)), n := m.n + b2n sw }
      if m'.left.isEmpty then .next ((s.dropCmd m.ti).ctxswDone m')
      else .next (s.setPart p { s.part p with cmds := (s.part p).cmds.map fun x => if x = m then m' else x })

/-! ### Invalidation (R357) -/

/-- Does an owner walk a table of context c on one of these dies? -/
def Owner.walks (o : Owner) (ds : List Nat) (c : Nat) : Bool :=
  o.launch == 1 && decide (2 ^ 65 ≤ o.uid) && ds.contains ((o.uid - 2 ^ 65) % 8) && (o.uid - 2 ^ 65) / 8 % 2 == c

/-- Drop page translations of a context from every cache of the partition; a walk in progress reads its entries anew. -/
def State.dropPages (s : State) (p c : Nat) (hit : XEnt → Bool) : State :=
  let f (m : List XEnt) : List XEnt := m.filter fun x => !(x.ctx == c && hit x)
  let ds := s.partDies p
  { s with
    peerq := s.peerq.filter fun r => !(r.owner.walks ds c)
    peerAns := s.peerAns.filter fun a => !(a.1.walks ds c)
    dies := s.dies.map fun d => if ds.contains d.1 then (d.1, { d.2 with l2 := f d.2.l2 }) else d
    clusters := s.clusters.map fun k => if ds.contains k.1.1 then (k.1, { k.2 with xlat := f k.2.xlat }) else k }

/-- Why an XINV cannot act yet: a table word is held or comes from a peer, or it is poisoned, which the XINV consumes (R352, R364). -/
inductive XinvStop where
  | wait (s : State)
  | poison (pa : Nat)
  deriving Repr

/-- Who asks for a die's range table. -/
def rangeReader (d c : Nat) : Owner := partReader 2 (d * 2 + c)

/-- n words of a table as a die reads them (R352); an unpopulated word has no bit set. -/
def State.tabWords (s : State) (d p : Nat) (ow : Owner) (pa : Nat) : (n : Nat) → Except XinvStop (List W64 × State)
  | 0 => .ok ([], s)
  | n + 1 => do
    let (ws, s) ← State.tabWords s d p ow pa n
    match s.walkRead d p ow (pa + 8 * n) with
    | .none => .ok (ws ++ [0#64], s)
    | .ok v s => .ok (ws ++ [BitVec.ofNat 64 v], s)
    | .wait s => .error (.wait s)
    | .poison => .error (.poison (pa + 8 * n))

/-- The valid ones of a table's 64 range entries, numbered (R350). -/
def rangeEntries (c : Nat) (ws : List W64) : List ((Nat × Nat) × RangeE) :=
  (List.range 64).filterMap fun i =>
    let e : RangeE := ⟨ws.getD (4 * i) 0#64, ws.getD (4 * i + 1) 0#64, ws.getD (4 * i + 2) 0#64, ws.getD (4 * i + 3) 0#64⟩
    if nbit e.w0.toNat 0 then some ((c, i), e) else none

/-- A die replaces the context's range entries with the table at SYS.RTAB, read by its own fold (R352, R357). -/
def State.dieRanges (s : State) (p c d : Nat) : Except XinvStop State := do
  let (ws, s) ← s.tabWords d p (rangeReader d c) (fld (s.ctx p c).rtab 11 41 * 2048) 256
  .ok ((s.dropAns (rangeReader d c)).setDie d { s.die d with ranges := ((s.die d).ranges.filter fun r => r.1.1 != c) ++ rangeEntries c ws })

/-- Each die of the partition replaces the context's range entries; an error while a word of the table does not read. -/
def State.loadRanges (s : State) (p c : Nat) : Except XinvStop State := (s.partDies p).foldlM (fun (s : State) d => s.dieRanges p c d) s

/-- Does an operation of a context that began before `mark` and may still translate stand in the partition (R357)? (log 57) -/
def State.xinvBusy (s : State) (p c mark : Nat) : Bool :=
  let mine (ti : SlotId) : Bool := ti.ctx == c && s.pOf ti == p
  (s.copies.any fun o => o.ctx == c && s.partOf o.die == p && decide (o.id < mark)) || (s.winnow.any fun o => o.ctx == c && s.partOf o.die == p && decide (o.id < mark)) ||
  (s.loads.any fun l => mine l.ti && decide (l.id < mark)) || (s.clusters.any fun k => k.2.gleaner.any fun x => mine x.ti && decide (x.id < mark)) ||
  (s.tissues.any fun u => u.p == p && u.ctx == c && u.dies.any fun d => d.prog.any fun x => decide (d.claimNo x.1 < mark))

/-- The last write of SYS.PTROOT takes effect for a context (R349). -/
def State.useRoot (s : State) (p c : Nat) : State := s.setCtx p c { s.ctx p c with ptact := (s.ctx p c).ptroot }

/-- XINV: the drop, with the present PTROOT from now on (R349), then the wait for what began before it. `act` does the drop. -/
def doXinv (ok : Bool) (cs : List Nat) (act : State → Except XinvStop State) (s : State) : M State := do
  s.needSup
  ensure ok tOp s.pc0
  let s : State ← if s.th.ph.stage = 0 then
      match act s with
      | .ok t => .ok ((t.setPhase { s.th.ph with stage := 1, mark := t.fresh, len := s.cur.len }).newId)
      | .error (.wait t) => hold (s.keepAsked t)
      | .error (.poison pa) => hold (s.consume s.me pa)
    else .ok s
  if cs.any fun c => s.xinvBusy (s.pOf s.me) c s.th.ph.mark then hold s else .ok s.fall

/-- Reserved bits of XINV's action word. -/
def xinvT (v : W64) : Bool := fld v 2 6 == 0 && fld v 9 55 == 0

/-- Does a cached page meet n pages from page v? -/
def XEnt.meets (x : XEnt) (v n : Nat) : Bool := decide (x.vpn / 2 ^ x.size * 2 ^ x.size < v + n) && decide (v < x.vpn / 2 ^ x.size * 2 ^ x.size + 2 ^ x.size)

def execXinvPage (rd rs rt : Reg) (s : State) : Out :=
  let n := fld (s.reg rd) 0 32
  let c := fld (s.reg rt) 8 1
  finish s (doXinv (xinvT (s.reg rt) && decide (1 ≤ n) && decide (n ≤ 2 ^ 20) && fld (s.reg rs) 56 8 == 0 && fld (s.reg rd) 32 32 == 0) [c]
    (fun s => .ok ((s.useRoot (s.pOf s.me) c).dropPages (s.pOf s.me) c fun x => x.meets (fld (s.reg rs) 12 44) n)) s)

def execXinvContext (_ _ rt : Reg) (s : State) : Out :=
  let c := fld (s.reg rt) 8 1
  finish s (doXinv (xinvT (s.reg rt)) [c] (fun s => .ok ((s.useRoot (s.pOf s.me) c).dropPages (s.pOf s.me) c fun _ => true)) s)

/-- RANGE of one context of a partition. -/
def State.xinvRange (s : State) (p c : Nat) : Except XinvStop State := ((s.useRoot p c).loadRanges p c).map fun s => s.dropPages p c fun _ => true

def execXinvRange (_ _ rt : Reg) (s : State) : Out :=
  let c := fld (s.reg rt) 8 1
  finish s (doXinv (xinvT (s.reg rt)) [c] (fun s => s.xinvRange (s.pOf s.me) c) s)

def execXinvAll (_ _ rt : Reg) (s : State) : Out :=
  finish s (doXinv (xinvT (s.reg rt)) [0, 1] (fun s => (s.xinvRange (s.pOf s.me) 0).bind fun s => s.xinvRange (s.pOf s.me) 1) s)

/-! ### The SYS register window (R369) -/

/-- Partition, context and register number of a window offset. -/
def winPart (o : Nat) : Nat := o / 0x10000
def winCtx (o : Nat) : Nat := o / 0x8000 % 2
def winReg (o : Nat) : Nat := o % 0x8000 / 8
/-- The offset of a register. -/
def winAt (p c n : Nat) : Nat := p * 0x10000 + c % 2 * 0x8000 + 8 * n
/-- Does an aligned offset name a register that is in the window? -/
def winOk (o : Nat) : Bool := o % 8 == 0 && decide (winPart o < 8) && decide (winReg o < 512) && !sysReserved (winReg o) && !sysLocal (winReg o)

/-- An application core's write at firmware level: accepted, refused with no effect, or waiting. An accepted one of SYS.PTROOT or SYS.RTAB
also performs XINV RANGE (R357), and waits while its table does not read: firmware is in no group, and a poisoned word waits too (log 35). -/
def State.winWrite (s : State) (o : Nat) (v : W64) : SysW :=
  if !winOk o || sysReadOnly (winReg o) then .bad
  else match s.sysPut (winPart o) (winCtx o) (winReg o) v with
    | .ok t =>
      if winReg o = 80 ∨ winReg o = 81 then
        (match t.xinvRange (winPart o) (winCtx o) with | .ok t => .ok t | .error (.wait t) => .wait (s.keepAsked t) | .error (.poison _) => .wait s)
      else .ok t
    | x => x

/-- Does a write that has acted still wait for the operations its XINV has to outlast (R357)? -/
def State.winBusy (s : State) (o mark : Nat) : Bool :=
  decide (winReg o = 80 ∨ winReg o = 81) && s.xinvBusy (winPart o) (winCtx o) mark

/-- The write at offset o is made, before those of `rest`: one that has to wait stays the oldest, and so does one whose XINV has acted and is
not complete, by the number up to which operations are waited for. -/
def State.winTry (s : State) (o : Nat) (v : W64) (rest : List (Nat × W64 × Nat)) : State :=
  match s.winWrite o v with
  | .ok t => if t.winBusy o t.fresh then ({ t with winq := (o, v, t.fresh) :: rest } : State).newId else { t with winq := rest }
  | .bad => { s with winq := rest }
  | .badOn t => { t with winq := rest }
  | .wait t => { t with winq := (o, v, 0) :: rest }

/-- The oldest write that waits is tried again. -/
def State.winRetry (s : State) : State :=
  match s.winq with
  | [] => s
  | (o, v, mark) :: rest =>
    if mark = 0 then s.winTry o v rest else if s.winBusy o mark then s else { s with winq := rest }

/-- A write of an application core: it is made in order, and one that has to wait stays (R369). -/
def State.winSend (s : State) (o : Nat) (v : W64) : State :=
  if s.winq.isEmpty then s.winTry o v [] else { s with winq := s.winq ++ [(o, v, 0)] }

/-- SYS_WINDOW_ACCESS: an application core writes (ev.flag) or reads the register at window offset ev.u; with ev.n = 1 the oldest write that
waits is tried again, and a read stays behind it. -/
def execSysWindowAccess (s : State) : Out :=
  let e := s.cur.ev
  if e.n = 1 then .next s.winRetry
  else if e.flag then .next (s.winSend e.u e.v)
  else if !s.winq.isEmpty then .next s
  else .next { s with hostReads := s.hostReads ++ [(0x3000010000000 + e.u, if winOk e.u then some (s.sysGet (winPart e.u) (winCtx e.u) (winReg e.u)) else none)] }

/-- SYS.QCTL start of queue ev.q of partition ev.p, by firmware (R339, R369). -/
def execQctlStart (s : State) : Out := .next (s.winSend (winAt s.cur.ev.p 0 67) (BitVec.ofNat 64 (s.cur.ev.q % 64)))
/-- SYS.QCTL stop. -/
def execQctlStop (s : State) : Out := .next (s.winSend (winAt s.cur.ev.p 0 67) (BitVec.ofNat 64 (s.cur.ev.q % 64 + 256)))
/-- SYS.DEVRCB of partition ev.p, context ev.ctx, is written with ev.v by firmware. -/
def execDevrcbWrite (s : State) : Out := .next (s.winSend (winAt s.cur.ev.p s.cur.ev.ctx 65) s.cur.ev.v)
/-- SYS.CELLSTORE. -/
def execCellstoreWrite (s : State) : Out := .next (s.winSend (winAt s.cur.ev.p 0 17) s.cur.ev.v)

/-- REACH of a partition is the union of what the planes of its ports that are up reach (R375). -/
def State.reachOf (s : State) (ports : BitVec 24) : List W64 :=
  (List.range 3).map fun k => (List.range 24).foldl (fun (r : W64) i =>
    if ports.getLsbD i && (s.cwport.getD i 0#64).getLsbD 0 then r ||| (s.planes.getD i []).getD k 0#64 else r) 0#64
def State.setReach (s : State) : State := { s with parts := s.parts.map fun x => (x.1, { x.2 with reach := s.reachOf x.2.ports }) }

/-- Firmware gives a partition its ports, and takes them from every other (R360). -/
def State.givePorts (s : State) (p : Nat) (ports : BitVec 24) : State :=
  State.setReach { s with parts := s.parts.map fun x => (x.1, { x.2 with ports := if x.1 = p then ports else x.2.ports &&& ~~~ports }) }

/-- SYS.PDIES; with ev.flag firmware assigns the Causeway ports of ev.v to partition ev.p (R360; log 74). -/
def execPdiesWrite (s : State) : Out :=
  .next (if s.cur.ev.flag then s.givePorts s.cur.ev.p (s.cur.ev.v.truncate 24) else s.winSend (winAt s.cur.ev.p 0 96) s.cur.ev.v)

/-! ### Page walks (R351, R352, R355, R356) -/

/-- A walk answers a waiting thread: it tries again, or its page faults. -/
def State.walkAnswer (s : State) (ti : SlotId) (vpn : Nat) (fault : Bool) : State :=
  if (s.thr ti).wait = .walk vpn then s.modThr ti fun t => { t with wait := .no, ph := { t.ph with xfault := if fault then some vpn else none } } else s

/-- A walk that found page x answers every waiter of its own page and of any other page that x covers (R356); what goes by number finds it in
the second level. -/
def State.walkFound (s : State) (d : Nat) (x : XEnt) : State :=
  let ws := (s.die d).walks
  let s := s.setDie d { s.die d with walks := ws.filter fun w => !(w.ctx == x.ctx && x.covers w.ctx w.vpn) }
  (ws.filter fun w => w.ctx == x.ctx && x.covers w.ctx w.vpn).foldl (fun (s : State) w =>
    w.who.foldl (fun (s : State) ti => (s.cacheL1 ti.die ti.clu x).walkAnswer ti w.vpn false) s) (s.cacheL2 d x)

/-- PAGE_WALK: a walker of die ev.die walks page ev.u of context ev.ctx and answers every waiter. The first 64 walks of the list have a
walker, the others wait in the miss queue (R356). -/
def execPageWalk (s : State) : Out :=
  let d := s.cur.ev.die
  let c := s.cur.ev.ctx
  let v := s.cur.ev.u
  match ((s.die d).walks.take 64).find? fun w => w.ctx == c && w.vpn == v with
  | none => .next s
  | some w =>
    let fail (r : Option Nat) : State := (s.dropAns (walkReader d c v)).setDie d { s.die d with
      walks := (s.die d).walks.filter fun x => !(x.ctx == c && x.vpn == v)
      failed := (s.die d).failed ++ w.units.map fun u => (u, c, v, r) }
    match s.walk d c v with
    | .wait s => .next s
    | .fault => .next (w.who.foldl (fun (s : State) ti => s.walkAnswer ti v true) (fail none))
    | .poison pa => .next (w.who.foldl (fun (s : State) ti => s.consume ti pa) (fail (some pa)))
    | .page x s => .next ((s.dropAns (walkReader d c v)).walkFound d x)

end Sys2Proof.Machine
end

