-- ==== Sys2Proof/Machine/SaveCtx.lean ====
section
/-!
DEFINITION. SaveCtx.lean: pre-emption to memory and the restore (R332 to R335). The area's format is the part's own: the model keeps
what the blocks hold in State, under the area's address; the area's bytes are free, but for its header (log 14).
-/
namespace Sys2Proof.Machine
open Sys2Proof

/-! ### The halt (R332) -/

/-- Is a slot one of context c of partition p? -/
def State.ofCtx (s : State) (p c : Nat) (ti : SlotId) : Bool := ti.ctx == c && s.pOf ti == p

/-- A thread at the halt: a wait of its own is abandoned, an operation that has left it goes on (R128, R183). A request that parks it at a
peer is withdrawn (R125); an instruction that has a peer's answer, or waits for one that does not park it, completes first. (log 60) -/
def State.haltThread (s : State) (ti : SlotId) : State :=
  match (s.thr ti).wait with
  | .no => if s.answered ti then s else s.abandon ti
  | .word _ => s.abandon ti
  | .walk _ => if s.answered ti then s else s.abandon ti
  | .peer _ how => if how = .stays then s else s.abandon ti
  | _ => s

/-- The Gleaner programs of the threads meant stop: their blocks are written and their GSTARTs abandoned (R250). -/
def State.haltGleaners (s : State) (mine : SlotId → Bool) : State :=
  s.clusters.foldl (fun (s : State) (k : (Nat × Nat) × Cluster) =>
    k.2.gleaner.foldl (fun (s : State) (x : GJob) =>
      if !mine x.ti then s
      else
        let s := s.writeBlock x none
        let cl := s.cluster k.1.1 k.1.2
        let s := s.setCluster k.1.1 k.1.2 { cl with gleaner := cl.gleaner.filter fun y => y.uid != x.uid }
        if (s.thr x.ti).uid = x.uid then s.abandon x.ti else s) s) s

/-- The halt of a context. A CTXSW of one of its threads that has still to act stands behind the SAVECTX on every cluster: it is abandoned. -/
def State.haltCtx (s : State) (p c : Nat) : State :=
  let s := s.setCtx p c { s.ctx p c with halted := true }
  let s := s.haltGleaners (s.ofCtx p c)
  s.slots.foldl (fun (s : State) (x : SlotId × Thread) =>
    if s.ofCtx p c x.1 && x.2.live then (if x.2.wait = .cmd then s.abandon x.1 else s.haltThread x.1) else s) s

/-! ### What the save waits for -/

/-- Does a held entry keep this entry of run r from going on (R105, R334)? -/
def State.heldBack (s : State) (r : RunId) (e : Entry) : Bool :=
  let next : List RunId := match r with
    | .sheaf d c _ => [.stook d c, .rick d, .rick (homeOf e.word)]
    | .stook d _ => [.rick d, .rick (homeOf e.word)]
    | .rick _ => [.rick (homeOf e.word)]
  e.held || (s.run r).hasHeld e.word || next.any fun r => (s.run r).hasHeld e.word

/-- Is every entry of the context at its barn or held back? -/
def State.ctxMerged (s : State) (p c : Nat) : Bool :=
  ((s.partRuns p).all fun r => r.2.ents.all fun e => e.ctx != c || s.heldBack r.1 e) &&
  (s.partDies p).all fun d => (s.die d).sent.all fun x => x.e.ctx != c || (s.run (.rick x.home)).hasHeld x.e.word

/-- Ask every run of the partition to merge (R332). -/
def State.mergeAll (s : State) (p : Nat) : State := (s.partRuns p).foldl (fun (s : State) r => s.wantMerge r.1) s

/-- Is no row of an array's queue under way (R238)? A row that has entered runs on into its buffer, unless the halted handler holds the
buffer: it is saved where it stands. -/
def rowsParked (q : List MOp) : Bool :=
  match q.find? fun o => !o.out.isEmpty with
  | none => true
  | some o => o.s.getLsbD 6 && o.hentry != 0#64 && o.bufUse.contains (o.drained % drainBufs o.t)

/-- Nothing that SAVECTX waits for is left (R332): engine returns, loads, vector instructions, copies, tiles (a record at a peer among
them, R298), rows under way, and updates that only a held entry keeps from their sheaf run. -/
def State.saveReady (s : State) (p c : Nat) : Bool :=
  let mine := s.ofCtx p c
  (s.slots.all fun x => !(mine x.1 && x.2.live) || (x.2.copies == 0 && x.2.loads == 0 && x.2.ph.ans.isNone &&
    (match x.2.wait with | .sched => false | .peer _ _ => false | _ => true))) &&
  (s.calls.all fun x => x.ended || !mine x.ti) && (s.loads.all fun l => !mine l.ti) && (s.vunit.all fun u => !mine u.2.ti) &&
  (s.copies.all fun o => o.ctx != c || s.partOf o.die != p) && (s.winnow.all fun o => o.ctx != c || s.partOf o.die != p) &&
  (s.tissues.all fun u => u.p != p || u.ctx != c || (u.st != 4 && u.dies.all fun d => d.prog.isEmpty)) &&
  (s.halves.all fun h => !(h.1.2.2 == c && s.partOf h.1.1 == p) || rowsParked h.2.arr.queue) &&
  (s.ins.all fun q => q.2.all fun i => !mine i.ti || i.stands || (s.run (.sheaf q.1.1 q.1.2.1 q.1.2.2)).hasHeld (wordOf i.key))

/-! ### The save -/

/-- The entries R334 saves, with their runs; one that awaits admission behind a held entry counts with its sender. -/
def State.savedEnts (s : State) (p c : Nat) : List (RunId × Entry) :=
  ((s.partRuns p).flatMap fun r => (r.2.ents.filter fun e => e.ctx == c).map fun e => (r.1, e)) ++
  (s.partDies p).flatMap fun d => ((s.die d).sent.filter fun x => x.e.ctx == c).map fun x => (RunId.rick d, x.e)

/-- Do the die blocks and the extension hold them (R333)? -/
def entsFit (ents : List (RunId × Entry)) (ext : Nat) : Bool :=
  let extra := (List.range 8).foldl (fun n d =>
    n + (((ents.filter fun x => x.1.dieOf == d).foldl (fun m x => m + x.2.size) 0) - 49152)) 0
  decide (extra ≤ ext * 65536)

/-- Bytes of the area. -/
def areaBytes (ext : Nat) : Nat := (969 + ext) * 2 ^ 20

/-- The header: the context, the partition's dies, the area's size and the count of saved entries (log 14). -/
def areaHeader (c : Nat) (pdies : BitVec 8) (ext n : Nat) : List W64 :=
  [1#64, BitVec.ofNat 64 c, pdies.zeroExtend 64, BitVec.ofNat 64 (areaBytes ext), BitVec.ofNat 64 n]

/-- May a page of the area stand there: populated device or host memory (log 56)? -/
def State.areaAt (s : State) (p pa : Nat) : Bool := match s.classify p pa with | .dram _ => true | .host _ _ => true | _ => false

/-- The area's pages from number i on, from the lowest up (R337): each is translated for the instruction that goes by number u, and `f` does its
part at the page's physical address. An error is the first page that does not answer, or where `f` has to wait, with the answer. -/
def State.areaScan (s : State) (u p d c : Nat) (k : Need) (f : State → Nat → Option State) (va : Nat) : (i pages : Nat) → Except (Nat × XR) State
  | _, 0 => .ok s
  | i, n + 1 =>
    match s.xlatePart u d c (va + 4096 * i) k true with
    | .ok pa s' =>
      if s'.areaAt p pa then
        match f s' pa with
        | some s'' => State.areaScan s'' u p d c k f va (i + 1) n
        | none => .error (i, .wait (s'.mergeAll p))
      else .error (i, .fault s')
    | x => .error (i, x)

/-- A word of the area, in the part's own format: a REPLACE update of a free value (R333; log 14). None while it cannot stand at device scope. -/
def State.freeWordAt (s : State) (p c pa : Nat) : Option State :=
  ({ s with frees := s.frees + 1 } : State).sysStand p c pa (leBytes 8 (Config.freeWord s.frees).toNat)

/-- The words of a page of the area; none while one cannot stand at device scope (R332: SAVECTX's release). -/
def State.freePage (p c : Nat) (s : State) (pa : Nat) : Option State := (List.range 512).foldlM (fun (s : State) i => s.freeWordAt p c (pa + 8 * i)) s

/-- Take a context's entries out of what a die has sent: their numbers count as admitted, so that DONE goes on (R120; log 56). -/
def Die.unsend (x : Die) (c : Nat) : Die :=
  let gone := (x.sent.filter fun y => y.e.ctx == c).map (·.seq)
  let (done, adm) := gone.foldl (fun (a : Nat × List Nat) n => advanceDone a.1 (ninsert n a.2)) (x.done, x.admitted)
  { x with sent := x.sent.filter fun y => y.e.ctx != c, done := done, admitted := adm }

/-- Take everything of a context off the part; its walks are discarded (R356). -/
def State.stripCtx (s : State) (p c : Nat) : State :=
  let mine := s.ofCtx p c
  { s with
    slots := s.slots.filter fun (x : SlotId × Thread) => !mine x.1
    halves := s.halves.filter fun (x : (Nat × Nat × Nat) × Half) => !(x.1.2.2 == c && s.partOf x.1.1 == p)
    groups := s.groups.filter fun (x : Nat × Group) => x.2.ended || !(x.2.ctx == c && s.partOf x.2.die == p)
    tissues := s.tissues.filter fun (u : Tissue) => !(u.p == p && u.ctx == c)
    runs := s.runs.map fun (x : RunId × Run) => if s.partOf x.1.dieOf = p then (x.1, { x.2 with ents := x.2.ents.filter fun e => e.ctx != c }) else x
    ins := s.ins.map fun (x : (Nat × Nat × Nat) × List Ins) => (x.1, x.2.filter fun i => !mine i.ti)
    dies := s.dies.map fun (x : Nat × Die) => if s.partOf x.1 = p then
        (x.1, { x.2.unsend c with binds := x.2.binds.filter fun b => b.1 % 2 != c, walks := x.2.walks.filter fun w => w.ctx != c }) else x }

/-- The launches of a context. -/
def State.ctxLaunches (s : State) (p c : Nat) : List Nat := (s.launches.filter fun (x : Nat × Launch) => x.2.p == p && x.2.ctx == c).map Prod.fst

/-- What the area's blocks hold. -/
def State.savedOf (s : State) (p c base : Nat) : Saved :=
  { ctx := c, p := p, base := base
    slots := (s.slots.filter fun x => s.ofCtx p c x.1).map fun x => (x.1, if x.2.wait = .no then { x.2 with ph := Phase.zero } else x.2)
    halves := (s.halves.filter fun x => x.1.2.2 == c && s.partOf x.1.1 == p).map fun x => ((x.1.1, x.1.2.1), x.2)
    groups := s.groups.filter fun x => !x.2.ended && x.2.ctx == c && s.partOf x.2.die == p
    tissues := s.tissues.filter fun u => u.p == p && u.ctx == c
    binds := (s.dies.filter fun x => s.partOf x.1 == p).map fun x => (x.1, x.2.binds.filter fun b => b.1 % 2 == c)
    ents := s.savedEnts p c
    items := s.ins.map fun x => (x.1, x.2.filter fun i => s.ofCtx p c i.ti)
    launches := s.ctxLaunches p c }

/-- Must the issuer's SAVECTX still wait for its turn (R331)? It acts on every cluster, so every command that arrived before it goes first. -/
def State.saveBlocked (s : State) (p : Nat) : Bool := (match (s.part p).cmds.head? with | some m => m.ti != s.me | none => false)

/-- A CTXSW toward a context that has been saved since it was issued has acted nowhere: it is issued anew, and traps (R331). -/
def State.dropSwitches (s : State) (p c : Nat) : State :=
  ((s.part p).cmds.filter fun m => m.ctx == some c).foldl (fun (s : State) m => s.abandon m.ti) s

/-- The context is saved: its state goes to the area at physical address pa, and CTXSEL says so (R332). -/
def State.moveOut (s : State) (p c pa : Nat) : State :=
  let sv := s.savedOf p c pa
  let s := s.stripCtx p c
  let s := { s with savedCtx := s.savedCtx ++ [sv] }
  (s.setCtx p c { s.ctx p c with saved := true, halted := true }).dropSwitches p c

/-- SAVECTX (R332, R333; log 56): the area is written page by page, its header last; `aux` counts the pages that are written. -/
def doSavectx (rd rs rt : Reg) (s : State) : M State := do
  s.needSup
  let ti := s.me
  let p := s.pOf ti
  let t := s.reg rt
  let c := fld t 0 1
  let ext := fld t 32 16
  let va := s.reg rs
  let pages := areaBytes ext / 4096
  ensure (fld t 1 31 == 0 && fld t 48 16 == 0 && va.toNat % 65536 == 0 && c != ti.ctx && !(s.ctx p c).saved && (s.th.ph.stage != 0 || s.ctxLive p c)) tOp s.pc0
  let s := if s.th.ph.stage = 0 then (s.addCmd ⟨ti, none, [], 0⟩).setPhase { s.th.ph with stage := 1, len := s.cur.len } else s
  if s.saveBlocked p then hold s
  else
  let s := if s.th.ph.stage = 1 then (s.haltCtx p c).setPhase { s.th.ph with stage := 2 } else s
  if !s.saveReady p c then hold s
  else if !s.ctxMerged p c then hold (s.mergeAll p)
  else
    let s ← s.release .dev false
    let ents := s.savedEnts p c
    let u := s.th.uid
    if !entsFit ents ext then .ok ((s.setReg rd 1#64).dropCmd ti).fall
    else match s.areaScan u p ti.die ti.ctx .write (State.freePage p ti.ctx) va.toNat s.th.ph.aux (pages - s.th.ph.aux) with
      | .error (i, .wait s) => hold (s.setPhase { s.th.ph with aux := i })
      | .error (_, .poison pa s) => hold (s.consume ti pa)
      | .error (i, .fault s) => .ok ((s.engineFaultTo ti u 5 12 s.pc0 0#64 (BitVec.ofNat 64 (va.toNat + 4096 * i)) 0#64).dropCmd ti).fall
      | .error (_, .ok _ s) => hold s
      | .ok s =>
        let s := s.setPhase { s.th.ph with aux := pages }
        match s.xlatePart u ti.die ti.ctx va.toNat .write true with
        | .wait s => hold s
        | .poison pa s => hold (s.consume ti pa)
        | .fault s => .ok ((s.engineFaultTo ti u 5 12 s.pc0 0#64 va 0#64).dropCmd ti).fall
        | .ok pa s =>
          match s.sysStand p ti.ctx pa (wordsBytes (areaHeader c (s.part p).pdies ext ents.length)) with
          | none => hold (s.mergeAll p)
          | some s => .ok (((s.moveOut p c pa).setReg rd 0#64).dropCmd ti).fall

def execSavectx (rd rs rt : Reg) (s : State) : Out := finish s (doSavectx rd rs rt s)

/-! ### The restore (R335) -/

/-- A slot under the context that is restored. -/
def slotIn (c : Nat) (ti : SlotId) : SlotId := { ti with ctx := c }

/-- A cluster's half under the context that is restored: its streams, the calls that wait for slot 14, and the ids it holds. -/
def Half.inCtx (h : Half) (c : Nat) : Half :=
  { h with
    arr := { h.arr with queue := h.arr.queue.map fun o => { o with ti := slotIn c o.ti } }
    calls := h.calls.map fun x => { x with ctx := c }
    ids := h.ids.map fun x => (srcKey (x.1 % 2 ^ 32) c, x.2) }

/-- Put a saved entry back into its run: a held one with HELD = 1, another by R93, or in its place behind a held one. None while the run has no
slots for it (R90). -/
def State.reinsert (s : State) (r : RunId) (e : Entry) : Option State :=
  let stand : Option State := if (s.run r).occ + e.size ≤ r.cap then some (s.restore r e) else none
  if e.held then stand
  else match State.put levels s r e true with | .ok s => some s | .behind _ => stand | _ => none

/-- Bring back everything that a save took, as context c. -/
def State.unsave (s : State) (x : Saved) (c : Nat) : Option State := do
  let s : State := { s with
    slots := s.slots ++ x.slots.map fun y => (slotIn c y.1, y.2)
    halves := x.halves.foldl (fun m y => aset m (y.1.1, y.1.2, c) (y.2.inCtx c)) s.halves
    groups := s.groups ++ x.groups.map fun y => (y.1, { y.2 with ctx := c })
    tissues := s.tissues ++ x.tissues.map fun u => { u with ctx := c, ti := slotIn c u.ti }
    launches := s.launches.map fun y => if x.launches.contains y.1 then (y.1, { y.2 with ctx := c }) else y
    ins := x.items.foldl (fun m y => aset m y.1 (aget [] m y.1 ++ y.2.map fun i => { i with ti := slotIn c i.ti, ctx := c })) s.ins
    savedCtx := s.savedCtx.filter fun y => y.base != x.base }
  let s := x.binds.foldl (fun (s : State) b =>
    s.setDie b.1 { s.die b.1 with binds := (s.die b.1).binds ++ b.2.map fun y => (y.1 / 2 * 2 + c, y.2) }) s
  let s ← x.ents.foldlM (fun (s : State) y => s.reinsert y.1 { y.2 with ctx := c }) s
  -- a group whose launch was contained while it was saved stops as containment says
  some (x.groups.foldl (fun (s : State) g => match aget? s.launches g.2.launch with | some l => if l.state = 5 then s.stopGroup g.1 false else s | none => s) s)

/-- Does a context hold a live launch that the area does not bring back (R335)? -/
def State.otherLaunch (s : State) (p c : Nat) (x : Saved) : Bool :=
  s.launches.any fun l => l.2.live && l.2.p == p && l.2.ctx == c && !x.launches.contains l.1

/-- Does a context hold any run entry or operation (R335)? -/
def State.ctxBusy (s : State) (p c : Nat) : Bool :=
  s.anyEntry p (fun e => e.ctx == c) || (s.slots.any fun x => s.ofCtx p c x.1 && x.2.live) || (s.copies.any fun o => o.ctx == c && s.partOf o.die == p) ||
  (s.winnow.any fun o => o.ctx == c && s.partOf o.die == p) || (s.tissues.any fun u => u.p == p && u.ctx == c) ||
  (s.msgs.any fun m => m.ctx == c && m.ti.isSome) || (s.groups.any fun g => !g.2.ended && g.2.ctx == c && s.partOf g.2.die == p)

/-- The area's header, from device or host memory. -/
def State.areaRead (s : State) (p pa : Nat) : LoadR :=
  match s.classify p pa with | .host _ a => .ok (s.hostRead a 40) s | _ => s.hvRead pa 40

/-- Does the header of an area belong to what is saved there, in this partition (R335; log 14)? -/
def headerFits (h : Nat) (x : Saved) (pdies : BitVec 8) : Bool :=
  nfld h 0 64 == 1 && nfld h 64 64 == x.ctx && nfld h 128 64 == pdies.toNat && nfld h 256 64 == x.ents.length && nfld h 192 64 % 2 ^ 20 == 0

def doLoadctx (rs rt : Reg) (s : State) : M State := do
  s.needSup
  let ti := s.me
  let p := s.pOf ti
  let c := fld (s.reg rt) 0 1
  let va := s.reg rs
  let bad (a : Nat) (s : State) : M State := .ok (s.engineFaultTo ti s.th.uid 5 13 s.pc0 0#64 (BitVec.ofNat 64 a) 0#64).fall
  ensure (fld (s.reg rt) 1 63 == 0 && va.toNat % 65536 == 0) tOp s.pc0
  let u := s.th.uid
  match s.xlatePart u ti.die ti.ctx va.toNat .read true with
  | .wait s => hold s
  | .poison pa s => hold (s.consume ti pa)
  | .fault s => bad va.toNat s
  | .ok pa s =>
    if !s.areaAt p pa then bad va.toNat s
    else match s.savedCtx.find? fun x => x.base == pa && x.p == p with
      | none => trap tOp s.pc0
      | some x =>
        match s.areaRead p pa with
        | .held => hold s
        | .poison => hold (s.consume ti pa)
        | .ok h s =>
          ensure (headerFits h x (s.part p).pdies && !s.ctxBusy p c && !s.otherLaunch p c x && (c == x.ctx || !(s.ctx p c).saved)) tOp s.pc0
          match s.areaScan u p ti.die ti.ctx .read (fun s _ => some s) va.toNat s.th.ph.aux (nfld h 192 64 / 4096 - s.th.ph.aux) with
          | .error (i, .wait s) => hold (s.setPhase { s.th.ph with aux := i })
          | .error (_, .poison pa s) => hold (s.consume ti pa)
          | .error (i, .fault s) => bad (va.toNat + 4096 * i) s
          | .error (_, .ok _ s) => hold s
          | .ok s =>
            let s := s.setPhase { s.th.ph with aux := nfld h 192 64 / 4096 }
            match s.unsave x c with
            | none => hold (s.mergeAll p)
            | some r =>
            match r.loadRanges p c with
            | .error (.wait t) => hold ((s.mergeAll p).keepAsked t)
            | .error (.poison pa) => hold (s.consume ti pa)
            | .ok s =>
              let s := s.setCtx p x.ctx { s.ctx p x.ctx with saved := false, halted := false }
              .ok (s.acqAt ti .dev).fall

def execLoadctx (_ rs rt : Reg) (s : State) : Out := finish s (doLoadctx rs rt s)

end Sys2Proof.Machine
end

