-- ==== Sys2Proof/Machine/Sched.lean ====
section
/-!
DEFINITION. Sched.lean: launches accepted (R33 to R38, R170, R343, R346, R348), groups placed and aged (R29 to R33, R344, R345),
completion (R40, R43), the watchdog (R347).
-/
namespace Sys2Proof.Machine
open Sys2Proof

/-! ### What an RCB asks for (R34) -/

def rcbParent (w : List Nat) : Nat := w.getD 0 0
def rcbCtl (w : List Nat) (lo n : Nat) : Nat := nfld (w.getD 3 0) lo n
def rcbSize (w : List Nat) : Nat := rcbCtl w 32 7
def rcbRowh (w : List Nat) : Bool := nbit (w.getD 3 0) 39
def rcbPlace (w : List Nat) : Nat := rcbCtl w 48 2
def rcbSp (w : List Nat) : Nat := nfld (w.getD 4 0) 0 32
def rcbOp (w : List Nat) : Nat := nfld (w.getD 4 0) 32 6
def rcbState (w : List Nat) : Nat := nfld (w.getD 7 0) 0 4

/-- Every field in range, the reserved ones 0, ROWH with GROUP_SIZE, and PLACE for the path (R34, R38: REASON 1). -/
def launchRcbOk (w : List Nat) (thread : Bool) : Bool :=
  rcbCommon w && w.getD 1 0 % 2 == 0 && decide (1 ≤ rcbSize w) && decide (rcbSize w ≤ 64) && !(rcbRowh w && decide (60 < rcbSize w)) &&
  rcbPlace w != 3 && (thread || rcbPlace w == 0) && rcbSp w % 4096 == 0 && decide (rcbSp w ≤ 0x40000) && decide (rcbOp w ≤ 16)

/-- What one group holds: slots, scratchpad bytes, operand slots (R34). -/
structure Cost where
  slots : Nat
  sp    : Nat
  op    : Nat
  deriving DecidableEq, Repr

def groupRows (n : Nat) : Nat := (n + 3) / 4
def costOf (n sp op : Nat) : Cost := ⟨4 * groupRows n, 3 * sp, op⟩
def Launch.cost (l : Launch) : Cost := costOf l.size l.spGroup l.opGroup
/-- k groups and what is held already stay within caps, of which 0 is none (R36). -/
def Cost.within (c : Cost) (k : Nat) (held : Cost) (slots sp op : Nat) : Bool :=
  (slots == 0 || decide (held.slots + k * c.slots ≤ slots)) && (sp == 0 || decide (held.sp + k * c.sp ≤ sp)) && (op == 0 || decide (held.op + k * c.op ≤ op))

/-- What the placed groups of some launches hold. -/
def State.heldBy' (s : State) (f : Nat → Bool) : Cost :=
  (s.groups.filter fun (g : Nat × Group) => !g.2.ended && f g.2.launch).foldl (fun (c : Cost) g => ⟨c.slots + 4 * groupRows g.2.n, c.sp + 3 * g.2.spSize, c.op + g.2.opPhys.length⟩) ⟨0, 0, 0⟩

/-- The launch regions from l upwards. -/
def State.chain (s : State) : (n : Nat) → Option Nat → List (Nat × Launch)
  | 0, _ => []
  | _ + 1, none => []
  | n + 1, some l => match aget? s.launches l with | some x => (l, x) :: State.chain s n x.parent | none => []

def State.chainOf (s : State) (l : Option Nat) : List (Nat × Launch) := s.chain (s.launches.length + 1) l

/-- k further groups below launch region l (and its context's device region) keep every cap (R36). -/
def State.capsOk (s : State) (p c : Nat) (l : Option Nat) (x : Cost) (k : Nat) (empty : Bool) : Bool :=
  let held (f : Nat → Bool) : Cost := if empty then ⟨0, 0, 0⟩ else s.heldBy' f
  ((s.chainOf l).all fun a => x.within k (held fun y => s.below a.1 (s.launches.length + 1) y) a.2.slotBud a.2.spBud a.2.opBud) &&
  (match (s.ctx p c).dev with
   | some d => x.within k (held fun y => match aget? s.launches y with | some z => z.p == p && z.ctx == c | none => false) d.slotBud d.spBud d.opBud
   | none => true)

/-! ### Clusters and their room (R339, R344) -/

/-- May launch x use cluster cl of die d? -/
def State.inPlace (s : State) (x : Launch) (d cl : Nat) : Bool :=
  (s.partDies x.p).contains d && nbit x.dies d && (if isWide cl then x.wide else x.narrow) && !(s.cluster d cl).reserved &&
  (match x.place with | 0 => true | 1 => d == x.pDie | _ => d == x.pDie && cl == x.pClu)

/-- The placement set. -/
def State.placeSet (s : State) (x : Launch) : List (Nat × Nat) :=
  (List.range 8).flatMap fun d => ((List.range 96).filter fun c => s.inPlace x d c).map fun c => (d, c)

/-- Groups placed on a cluster in a context. -/
def State.groupsOn (s : State) (d cl c : Nat) : List Group :=
  (s.groups.filter fun (g : Nat × Group) => !g.2.ended && g.2.die == d && g.2.clu == cl && g.2.ctx == c).map Prod.snd

/-- Is a handler-mode stream of the context on the cluster incomplete? Slot 15 counts as occupied for placement then (R235). -/
def State.handlerMode (s : State) (d cl c : Nat) : Bool := (s.half d cl c).arr.queue.any fun o => o.hentry != 0#64

/-- The free slot rows (R29, R30): no group holds them, no handler runs in them or is still to run in row 15. -/
def State.freeRows (s : State) (d cl c : Nat) : List Nat :=
  (List.range 16).filter fun r =>
    !(r == 15 && s.handlerMode d cl c) &&
    ((s.groupsOn d cl c).all fun g => decide (r < g.row) || decide (g.row + groupRows g.n ≤ r)) &&
    s.slots.all fun x => !(x.2.live && x.1.die == d && x.1.clu == cl && x.1.ctx == c && x.1.slot == r)

/-- The lowest row from which k rows are free; a launch with ROWH leaves row 15 (R30). -/
def rowFor (free : List Nat) (k : Nat) (rowh : Bool) : Option Nat :=
  (List.range 16).find? fun b => decide (b + k ≤ if rowh then 15 else 16) && (List.range k).all fun i => free.contains (b + i)

/-- The Tilth reservation of a context: scratchpad bytes per bank, and operand slots (R318). -/
def Ctx.resSp (x : Ctx) : Nat := fld x.tilth 0 32
def Ctx.resOp (x : Ctx) : Nat := fld x.tilth 32 6

/-- The lowest base of n free bytes in each bank, below the reservation (log 42). -/
def spFor (gs : List Group) (top n : Nat) : Option Nat :=
  if n = 0 then some 0
  else
    let used := gs.filter fun g => g.spSize != 0
    let ok (b : Nat) : Bool := decide (b + n ≤ top) && used.all fun g => decide (b + n ≤ g.spBase) || decide (g.spBase + g.spSize ≤ b)
    minNat ((0 :: used.map fun g => g.spBase + g.spSize).filter ok)

/-- The free operand slots below the reservation. -/
def opFree (gs : List Group) (top : Nat) : List Nat := (List.range top).filter fun i => gs.all fun g => !g.opPhys.contains i

/-- Where the next group of a launch would stand on a cluster: row, scratchpad base, operand slots. -/
def State.roomFor (s : State) (x : Launch) (d cl : Nat) : Option (Nat × Nat × List Nat) := do
  let gs := s.groupsOn d cl x.ctx
  let cx := s.ctx x.p x.ctx
  let row ← rowFor (s.freeRows d cl x.ctx) (groupRows x.size) x.rowh
  let sp ← spFor gs (0x40000 - cx.resSp) x.spGroup
  let ops := opFree gs (16 - cx.resOp)
  if ops.length < x.opGroup then none else some (row, sp, ops.take x.opGroup)

/-- Groups that an empty cluster could hold (R33, R345). -/
def clusterCap (n sp op : Nat) (rowh : Bool) : Nat :=
  min ((if rowh then 15 else 16) / groupRows n) (min (if sp = 0 then 64 else 0x40000 / sp) (if op = 0 then 64 else 16 / op))

/-! ### Acceptance (R38) -/

/-- What a PARENT field names, with what the part has learned as it resolved it. -/
inductive PRes where
  | device (d : DevReg) (s : State)
  | launch (l : Nat) (s : State)
  | bad (reason : Nat) (s : State)
  /-- a word of it is held (R106), or its walk or a peer's answer is awaited -/
  | wait (s : State)
  deriving Repr

/-- The device region as a parent (R37, R348). -/
def State.devParent (s : State) (p c : Nat) : PRes :=
  match (s.ctx p c).dev with | some d => if d.state = 5 then .bad 5 s else if d.state = 4 then .bad 4 s else .device d s | none => .bad 4 s

/-- The launch a live RCB of the context stands for. -/
def State.liveRcb (s : State) (p c pa : Nat) : Option Nat :=
  (s.launches.find? fun l => l.2.live && l.2.p == p && l.2.ctx == c && l.2.rcb == some pa).map (·.1)

/-- The REASON with which a context refuses every launch (R348): 4 without an accepted device region, 5 while that holds STATE 5. -/
def State.shut (s : State) (p c : Nat) : Option Nat :=
  match (s.ctx p c).dev with | some d => if d.state = 5 then some 5 else if d.state = 4 then some 4 else none | none => some 4

/-- The number under which a submission's addresses are translated, and who asks a peer for it. -/
def Sub.unit (x : Sub) : Nat := match x.origin with | .thread _ uid => uid | .queue p q _ => unitQueue p q | .record p q _ => unitQueue p q
def Sub.reader (x : Sub) : Owner :=
  match x.origin with | .thread _ uid => partReader 6 uid | .queue p q _ => partReader 4 (p * 64 + q) | .record p q _ => partReader 4 (p * 64 + q)

/-- PARENT resolved (R34): 0 names the device region, or the launching thread's launch. An ended region that still shows its STATE gives REASON 5
(log 43). -/
def State.parentOf (s : State) (x : Sub) (va : Nat) : PRes :=
  match s.shut x.p x.ctx with
  | some r => .bad r s
  | none =>
  if va = 0 then
    match x.origin with
    | .thread ti _ => (match aget? s.launches (s.launchOf ti) with | some l => if l.live then .launch (s.launchOf ti) s else .bad 5 s | none => .bad 4 s)
    | _ => s.devParent x.p x.ctx
  else if va % 64 ≠ 0 then .bad 4 s
  else match s.xlatePart x.unit ((s.partDies x.p).headD x.p) x.ctx va .read true with
    | .ok pa s =>
      match (s.ctx x.p x.ctx).dev with
      | some d => if d.rcb = pa ∧ d.state ≠ 4 then s.devParent x.p x.ctx else lookup s pa
      | none => lookup s pa
    | .wait s => .wait s
    | .fault s => .bad 4 s
    | .poison _ s => .bad 4 s
where
  lookup (s : State) (pa : Nat) : PRes :=
    match s.liveRcb x.p x.ctx pa with
    | some l => .launch l s
    | none =>
      if !s.isMemory x.p pa then .bad 4 s
      else match s.partRead (homePath pa) x.p x.reader (pa + 0x38) with
        | .ok v s => if 3 ≤ v % 16 ∧ v % 16 ≤ 5 then .bad 5 s else .bad 4 s
        | .wait s => .wait s
        | _ => .bad 4 s

/-- A quota tag that is free in the context: no live launch has it and no rick entry carries it (R346). -/
def State.freeTag (s : State) (p c : Nat) : Nat :=
  let used (t : Nat) : Bool := (s.launches.any fun l => l.2.live && l.2.p == p && l.2.ctx == c && l.2.qtag == t) ||
    ((s.partRuns p).any fun r => r.1.level == 2 && r.2.ents.any fun e => e.ctx == c && e.qtag == t)
  (((List.range 31).map (· + 1)).find? fun t => !used t).getD 0

/-- The words of the RCB as the submission sees them (R35, R40, R170): folded along a launching thread's path, else the home view. -/
def State.subWords (s : State) (x : Sub) (pa : Nat) : Except TabR (List Nat × State) :=
  s.partWords (match x.origin with | .thread ti _ => pathOf ti | _ => homePath pa) x.p x.reader pa 8

/-- Is the submission a record's, whose RCB is a template (R40)? -/
def Sub.isRec (x : Sub) : Bool := match x.origin with | .record _ _ _ => true | _ => false

/-- The launch that a submission of the RCB at `pa` describes, with its effective values (R36, R339, R50). -/
def State.launchOfSub (s : State) (x : Sub) (w : List Nat) (pa : Nat) (par : PRes) : Launch :=
  let pl : Option Launch := match par with | .launch l _ => aget? s.launches l | _ => none
  let (pprio, pdet, pquota) := match par with
    | .device d _ => (d.prio, d.det, d.quota)
    | _ => (match pl with | some l => (l.prio, l.det, l.quota) | none => (0, false, 0))
  let quota := nfld (w.getD 6 0) 32 32
  let ptag := match pl with | some l => l.qtag | none => 0
  let eq := if quota = 0 then pquota else quota
  let tag := if quota = 0 ∧ pl.isSome = true then ptag else if eq = 0 then 0 else s.freeTag x.p x.ctx
  let base : Bool × Bool × Nat × Nat × Nat × Nat := match x.origin with
    | .queue p q _ => (match aget? s.queues (p, q) with | some y => (y.narrow, y.wide, y.dies, 0, 0, 0) | none => (true, true, 255, 0, 0, 0))
    | .record p q _ => (match aget? s.queues (p, q) with | some y => (y.narrow, y.wide, y.dies, 0, 0, 0) | none => (true, true, 255, 0, 0, 0))
    | .thread ti _ => (match aget? s.launches (s.launchOf ti) with
      | some y => (y.narrow, y.wide, y.dies, max y.place (rcbPlace w), ti.die, ti.clu)
      | none => (true, true, 255, rcbPlace w, ti.die, ti.clu))
  { p := x.p, ctx := x.ctx, rcb := (if x.isRec then none else some pa), tmpl := (if x.isRec then some pa else none), tag := x.tag
    parent := (match par with | .launch l _ => some l | _ => none)
    entry := BitVec.ofNat 64 (w.getD 1 0), args := x.args.getD (BitVec.ofNat 64 (w.getD 2 0)), groups := x.groups.getD (rcbCtl w 0 32)
    size := rcbSize w, rowh := rcbRowh w, prio := if rcbCtl w 43 1 = 1 then rcbCtl w 40 3 else pprio, contain := rcbCtl w 44 1 == 1
    gcontain := rcbCtl w 47 1 == 1, det := rcbCtl w 45 1 == 1 || pdet, cohort := rcbCtl w 46 1 == 1
    place := base.2.2.2.1, pDie := base.2.2.2.2.1, pClu := base.2.2.2.2.2, narrow := base.1, wide := base.2.1, dies := base.2.2.1
    spGroup := rcbSp w, opGroup := rcbOp w, slotBud := nfld (w.getD 5 0) 0 32, spBud := nfld (w.getD 5 0) 32 32, opBud := nfld (w.getD 6 0) 0 16
    domain := nfld (w.getD 6 0) 16 16, quota := eq, qtag := tag, next := 0, done := 0, state := 1, accAt := s.clk, origin := x.origin, endQ := [], seen := 0 }

/-- The REASON of R38's order of checks for a launch with a parent: 0, 2 or 3. (log 55) -/
def State.fitReason (s : State) (x : Launch) : Nat :=
  if x.groups = 0 then 0
  else if !(x.cost.within 1 ⟨0, 0, 0⟩ x.slotBud x.spBud x.opBud && s.capsOk x.p x.ctx x.parent x.cost 1 true) then 2
  else if x.cohort && !(x.cost.within x.groups ⟨0, 0, 0⟩ x.slotBud x.spBud x.opBud && s.capsOk x.p x.ctx x.parent x.cost x.groups true &&
      decide (x.groups ≤ (s.placeSet x).length * clusterCap x.size x.spGroup x.opGroup x.rowh)) then 3
  else 0

/-- A queue goes on to its next entry (R341): HEAD is written, and a stop that was asked for takes effect. A queue that has faulted stays
faulted. -/
def State.queueAdvance (s : State) (p q : Nat) (e : QEnt) : State :=
  match aget? s.queues (p, q) with
  | none => s
  | some x =>
    let s := s.dropAns (queueReader p q)
    let y := { x with head := x.head + 1, cur := none, tokOk := false, ents := x.ents ++ [e], state := if x.state = 2 then 2 else if x.stop then 0 else x.state }
    let s : State := { s with queues := aset s.queues (p, q) y }
    let s := s.sysWord p x.ctx ((s.part p).qtab.toNat + 64 * q + 0x10) (y.head % 2 ^ 32)
    if x.stop && x.state != 2 then s.qState p q x.ctx 0 0 else s

/-- The answer to a submission: 0 or the REASON (R38, R170, R341). -/
def State.answerSub (s : State) (x : Sub) (reason : Nat) : State :=
  match x.origin with
  | .thread ti uid =>
    if (s.thr ti).wait = .sched ∧ (s.thr ti).uid = uid then (s.modThr ti fun t => t.setReg (BitVec.ofNat 5 t.ph.aux) (BitVec.ofNat 64 reason)).fallOf ti else s
  | .queue p q i => if reason = 0 then s.queueAdvance p q ⟨i, 1, x.tag, 0, false⟩ else s.queueFault p q 3 i 0 reason
  | .record p q i => if reason = 0 then s.queueAdvance p q ⟨i, 0, 0, 0, false⟩ else s.queueFault p q 3 i x.tag reason

/-- Refuse a submission: STATE 4 and the REASON go into its own RCB; REASON 6 and a template are not written (R34, R38, R40). -/
def State.refuseSub (s : State) (x : Sub) (rcb : Option Nat) (reason : Nat) : State :=
  let s := match rcb with | some pa => if reason = 6 then s else s.sysWord x.p x.ctx (pa + 0x38) (rcbWord 4 reason 0) | none => s
  s.answerSub x reason

/-- The RCB of a submission cannot be read: its page has gone, or it lies in the Steading window, where there is no memory: a queue faults with
XLATE, a thread is answered with 4 (R341; DESIGN CHOICE, log 50). -/
def State.unreadSub (s : State) (x : Sub) : State :=
  match x.origin with | .queue p q i => s.queueFault p q 5 i 0 0 | .record p q i => s.queueFault p q 5 i x.tag 0 | .thread _ _ => s.answerSub x 4

/-- The checks on a submission whose RCB, at `pa`, has been read as `w` (R38), in their order, and its acceptance; an error while its PARENT does
not resolve yet. -/
def State.checkSub (s : State) (x : Sub) (pa : Nat) (w : List Nat) : Except State State :=
  let isThr := match x.origin with | .thread _ _ => true | _ => false
  let rcb := if x.isRec then none else some pa
  let refuse (s : State) (r : Nat) : Except State State := .ok ((s.dropAns x.reader).refuseSub x rcb r)
  if !x.isRec && (s.rcbLive x.p none pa || rcbState w != 0) then refuse s 6
  else if !launchRcbOk w isThr then refuse s 1
  else
    let accept (s : State) (par : PRes) : Except State State :=
      let l := s.launchOfSub x w pa par
      let r := s.fitReason l
      if r ≠ 0 then refuse s r
      else
        let s : State := ({ s with launches := s.launches ++ [(s.fresh, l)] } : State).newId
        let s := match rcb with | some pa => s.sysWord x.p x.ctx (pa + 0x38) (rcbWord 1 0 0) | none => s
        .ok ((s.dropAns x.reader).answerSub x 0)
    match s.parentOf x (rcbParent w) with
    | .bad r s => refuse s r
    | .wait s => .error s
    | .device d s => accept s (.device d s)
    | .launch l s => accept s (.launch l s)

/-- Check and accept or refuse one submission (R38); an error while its RCB does not read yet: a word is held or poisoned (log 35), or a walk or a
peer is awaited. -/
def State.acceptSub (s : State) (x : Sub) : Except State State :=
  match s.xlatePart x.unit ((s.partDies x.p).headD x.p) x.ctx x.va .read true with
  | .ok pa s =>
    if !s.isMemory x.p pa then .ok (s.unreadSub x)
    else match s.subWords x pa with
      | .error (.wait s) => .error s
      | .error _ => .error s
      | .ok (w, s) => s.checkSub x pa w
  | .fault s => .ok (s.unreadSub x)
  | .wait s => .error s
  | .poison _ s => .error s

/-- The level at which a submission waits for an entry (R343): a device LAUNCH ranks as 7. -/
def State.subPrio (s : State) (x : Sub) : Nat :=
  match x.origin with
  | .thread _ _ => 7
  | .queue p q _ => (match aget? s.queues (p, q) with | some y => y.prio | none => 0)
  | .record p q _ => (match aget? s.queues (p, q) with | some y => y.prio | none => 0)

/-- Whose turn a submission takes within its level (R343): its queue's, or that of all device LAUNCHes together (log 55). -/
def Sub.turn (x : Sub) : Nat := match x.origin with | .thread _ _ => 64 | .queue _ q _ => q | .record _ q _ => q

/-- Is turn a before turn b, going round from the one after `last`? -/
def turnBefore (last a b : Nat) : Bool := decide ((a + 64 - last) % 65 < (b + 64 - last) % 65)

/-- The submission that takes the next free entry (R343): the highest level, round-robin over the queues within it, in order of arrival
within one. -/
def State.nextSub (s : State) (p : Nat) (subs : List Sub) : Option Sub :=
  let top := subs.foldl (fun m x => max m (s.subPrio x)) 0
  let last := aget 64 (s.part p).qturn top
  (subs.filter fun x => s.subPrio x == top).foldl (fun b x => match b with
    | none => some x
    | some y => if turnBefore last x.turn y.turn then some x else some y) none

/-- Live launches of a partition. -/
def State.liveCount (s : State) (p : Nat) : Nat := (s.launches.filter fun l => l.2.live && l.2.p == p).length

/-- LAUNCH_ACCEPT: with room in the table, the scheduler of partition ev.p answers the submission it takes next (R343). A submission of a
thread that containment has stopped goes with it. -/
def execLaunchAccept (s : State) : Out :=
  let p := s.cur.ev.p
  let subs := (s.part p).subs.filter fun x => match x.origin with | .thread ti uid => (s.thr ti).wait == .sched && (s.thr ti).live && (s.thr ti).uid == uid | _ => true
  match s.nextSub p subs with
  | none => .next (s.setPart p { s.part p with subs := subs })
  | some x =>
    if 4096 ≤ s.liveCount p then .next s
    else
      let s' := s.setPart p { s.part p with subs := subs.erase x, qturn := aset (s.part p).qturn (s.subPrio x) x.turn }
      match s'.acceptSub x with
      | .ok t => .next t
      | .error t => .next ((s.keepWalks t).keepAsked t)

/-! ### LAUNCH (R170, R171) -/

/-- The release a device-side launch makes (R42). -/
def placeScope (place : Nat) : Scope := match place with | 0 => .dev | 1 => .die | _ => .clu

/-- The control doubleword of LAUNCH's RCB, read once and kept while the instruction goes on. -/
def launchCtl (va : W64) (s : State) : M (Nat × State) := do
  if s.th.ph.stage = 0 then
    let (v, s) ← s.fenLoad (va + 0x18#64) 8 false
    .ok (v, s.setPhase { s.th.ph with stage := 1, aux := v, len := s.cur.len })
  else .ok (s.th.ph.aux, s)

/-- The scheduler refuses LAUNCH's RCB at once: STATE 4 and REASON 1 are written where it stands (R35). -/
def State.refuseAt (s : State) (k : Key) : State :=
  let ti := s.me
  let v := rcbWord 4 1 0
  match k.cls with
  | .peer d x => s.toStream ti d (.update (x + 0x20) .replace .d false (BitVec.ofNat 64 v)) false
  | _ => s.sysWord (s.pOf ti) ti.ctx (k.pa + 0x20) v

/-- LAUNCH (R42, R170; log 50): its two loads, the early answers, the release, then the submission. -/
def doLaunch (rd rs : Reg) (s : State) : M State := do
  s.notHandler
  let ti := s.me
  let p := s.pOf ti
  let va := s.reg rs
  ensure (va.toNat % 64 == 0) tAlign va
  let (k, _) ← s.keyAt (va + 0x18#64) 8 .read subLoad
  let (ctl, s) ← launchCtl va s
  let (st, s) ← (if s.th.ph.stage = 1 then s.fenLoad (va + 0x38#64) 8 false else .ok (0, s))
  if st % 16 ≠ 0 ∨ (s.th.ph.stage = 1 ∧ s.rcbLive p none (k.pa - 0x18) = true) then .ok (s.setReg rd 6#64).fall
  else if nfld ctl 48 2 = 3 then .ok ((s.refuseAt k).setReg rd 1#64).fall
  else
    let s ← (s.setPhase { s.th.ph with stage := 2 }).release (placeScope (nfld ctl 48 2)) false
    let s := s.setPhase { s.th.ph with aux := rd.toNat }
    let s := s.setPart p { s.part p with subs := (s.part p).subs ++ [⟨va.toNat, ti.ctx, p, .thread ti s.th.uid, none, none, 0⟩] }
    hold (s.waitMe .sched)

def execLaunch (rd rs : Reg) (s : State) : Out := finish s (doLaunch rd rs s)

/-! ### Placement (R344, R345) -/

/-- A thread of a group at its first instruction (R17, R53). (log 2) -/
def newThread (x : Launch) (gid gi t uid : Nat) : Thread :=
  let z := { Thread.zero with live := true, kind := .group, grp := gid, tidx := t, uid := uid, pc := x.entry, det := x.det }
  ((z.setReg 0#5 x.args).setReg 1#5 (BitVec.ofNat 64 t)).setReg 2#5 (BitVec.ofNat 64 gi)

/-- Empty the slices of a new group: their bytes are free values (R85); an array idle so far starts anew (R229). -/
def Half.prepare (h : Half) (idle : Bool) (base n epoch : Nat) : Half :=
  let h := if n = 0 then h else { h with
    sp := ((sforget h.sp base n) |> fun m => sforget m (0x40000 + base) n) |> fun m => sforget m (0x80000 + base) n
    spFull := h.spFull.filter fun w => !(decide (base ≤ w * 8 % 0x40000) && decide (w * 8 % 0x40000 < base + n))
    spEpoch := (h.spEpoch.filter fun e => decide (e.1 + e.2.1 ≤ base) || decide (base + n ≤ e.1)) ++ [(base, n, epoch)] }
  if idle then { h with arr := { h.arr with acc := [], curves := [] } } else h

/-- Place the next group of launch l on a cluster: its groups go in ascending order of index, in deterministic mode (R50) and, by the
model's choice, outside it too (R44; log 42). What the launch makes visible is seen from the die: its granary is flushed (R40, R42); the
cluster's instruction cache starts anew (R144). -/
def State.placeOn (s : State) (l : Nat) (x : Launch) (d cl : Nat) (room : Nat × Nat × List Nat) : State :=
  let (row, base, ops) := room
  let gid := s.fresh
  let g : Group := { launch := l, gi := x.next, die := d, clu := cl, ctx := x.ctx, row := row, n := x.size, spBase := base, spSize := x.spGroup
                     opPhys := ops, claimed := [], live := List.range x.size, ended := false, contained := false, contains := x.gcontain
                     barArr := [], barRel := [], barps := [], barpRel := [], wd := 0, issued := false }
  let idle := (s.groupsOn d cl x.ctx).isEmpty
  let h := (s.half d cl x.ctx).prepare idle base x.spGroup gid
  let slots := (List.range x.size).foldl (fun m t => aset m (g.slot t) (newThread x gid x.next t (gid + 1 + t))) s.slots
  let s : State := { s with slots := slots, groups := s.groups ++ [(gid, g)], fresh := gid + 1 + x.size }
  let s := s.setHalf d cl x.ctx h
  let s := (s.setCluster d cl { s.cluster d cl with icache := [] }).acquire d .dev
  let s := s.modLaunch l fun y => { y with next := y.next + 1, state := 2, accAt := s.clk }
  let s := match x.rcb with | some pa => if x.state = 1 then s.sysWord x.p x.ctx (pa + 0x38) (rcbWord 2 0 x.seen) else s | none => s
  let pt := s.part x.p
  s.setPart x.p { pt with prevDie := d, blocking := if pt.blocking = some l then none else pt.blocking }

/-- Could the launch's next group stand on the cluster, once enough of it is freed (R345)? -/
def State.couldHold (s : State) (x : Launch) (d cl : Nat) : Bool :=
  s.inPlace x d cl && decide (x.spGroup ≤ 0x40000 - (s.ctx x.p x.ctx).resSp) && decide (x.opGroup ≤ 16 - (s.ctx x.p x.ctx).resOp)

/-- Is the launch waiting to place a group? -/
def State.unplaced (s : State) (x : Launch) : Bool :=
  x.live && decide (x.next < x.groups) && !(s.ctx x.p x.ctx).halted && !(s.ctx x.p x.ctx).saved

/-- 10 ms in clk (R5). -/
def tenMs : Nat := 33000000

/-- Whole 10 ms periods since the launch was accepted or last placed a group, and its rank (R345). -/
def Launch.age (x : Launch) (clk : Nat) : Nat := (clk - x.accAt) / tenMs
def Launch.rank (x : Launch) (clk : Nat) : Nat := min 7 (x.prio + x.age clk)

/-- The age at which a launch blocks (R345), and when it reaches it. -/
def Launch.blockAge (x : Launch) : Nat := max (8 - x.prio) 2
def Launch.blockAt (x : Launch) : Nat := x.accAt + x.blockAge * tenMs

/-- The partition's blocking launch as it stands now (R345): the one that blocks already, else the first to qualify. -/
def State.age (s : State) (p : Nat) : State :=
  let q := s.launches.filter fun l => l.2.p == p && s.unplaced l.2 && decide (l.2.blockAt ≤ s.clk)
  let valid := match (s.part p).blocking with | some b => q.any fun l => l.1 == b | none => false
  if valid then s
  else
    let best := q.foldl (fun (b : Option (Nat × Launch)) l => match b with | none => some l | some y => if l.2.blockAt < y.2.blockAt then some l else some y) none
    s.setPart p { s.part p with blocking := best.map Prod.fst }

/-- Is the cluster kept for the partition's blocking launch? -/
def State.keptFrom (s : State) (l p d cl : Nat) : Bool :=
  match (s.part p).blocking with
  | some b => b != l && (match aget? s.launches b with | some y => s.unplaced y && s.couldHold y d cl | none => false)
  | none => false

/-- The better of two candidate clusters: more free rows, then the die that follows the previous placement's, then the lower number (R344). -/
def betterClu (prev : Nat) (a b : Nat × Nat × Nat) : Bool :=
  decide (b.1 < a.1) || (a.1 == b.1 && (decide ((a.2.1 + 7 - prev) % 8 < (b.2.1 + 7 - prev) % 8) ||
    (a.2.1 == b.2.1 && decide (a.2.2 < b.2.2))))

/-- Place one group of launch l, if its caps and a cluster allow. -/
def State.placeOne (s : State) (l : Nat) : Option State := do
  let x ← aget? s.launches l
  if !s.capsOk x.p x.ctx (some l) x.cost 1 false then none
  else
    let cand := (s.placeSet x).filter fun k => !(s.keptFrom l x.p k.1 k.2) && (s.roomFor x k.1 k.2).isSome
    let ranked := cand.map fun k => ((s.freeRows k.1 k.2 x.ctx).length, k.1, k.2)
    let best ← ranked.foldl (fun (b : Option (Nat × Nat × Nat)) k =>
      match b with | none => some k | some y => if betterClu (s.part x.p).prevDie k y then some k else some y) none
    let room ← s.roomFor x best.2.1 best.2.2
    some (s.placeOn l x best.2.1 best.2.2 room)

/-- Place n groups, all or none. -/
def State.placeN : (n : Nat) → State → Nat → Option State
  | 0, s, _ => some s
  | n + 1, s, l => (s.placeOne l).bind fun s => State.placeN n s l

/-- The next placement of a launch: one group, or a whole cohort (R33, R345). -/
def State.placeNext (s : State) (l : Nat) (x : Launch) : Option State :=
  if x.cohort then State.placeN (x.groups - x.next) s l else s.placeOne l

/-- The launches of one rank, from the one accepted after the last that placed a group there (R345). -/
def State.atRank (s : State) (p r : Nat) : List (Nat × Launch) :=
  let ls := s.launches.filter fun l => l.2.p == p && s.unplaced l.2 && l.2.rank s.clk == r
  let t := (s.part p).turn.getD r 0
  ls.filter (fun l => decide (t < l.1)) ++ ls.filter fun l => decide (l.1 ≤ t)

/-- The launches in the order in which they are tried, each with its rank. -/
def State.tryOrder (s : State) (p : Nat) : List (Nat × Nat × Launch) :=
  (List.range 8).reverse.flatMap fun r => (s.atRank p r).map fun l => (r, l.1, l.2)

/-- GROUP_PLACE: the scheduler of partition ev.p places what the highest-ranked launch that can be placed has next. -/
def execGroupPlace (s : State) : Out :=
  let p := s.cur.ev.p
  let s := s.age p
  match (s.tryOrder p).findSome? fun x => (s.placeNext x.2.1 x.2.2).map fun t => (x.1, x.2.1, t) with
  | none => .next s
  | some (r, l, t) => .next (t.setPart p { t.part p with turn := (List.range 8).map fun i => if i = r then l else (t.part p).turn.getD i 0 })

/-- AGING_TICK: the first launch of partition ev.p to qualify blocks (R345). -/
def execAgingTick (s : State) : Out := .next (s.age s.cur.ev.p)

/-! ### Completion (R40, R43) -/

/-- Do updates of a launch still stand short of device scope anywhere (R43)? -/
def State.launchShort (s : State) (l : Nat) : Bool :=
  let f (e : Entry) : Bool := e.owners.any fun o => o.launch == l
  (s.runs.any fun r => r.2.ents.any fun e => f e && !(r.1.level == 2 && homeOf e.word == r.1.dieOf)) ||
  (s.dies.any fun d => d.2.sent.any fun x => f x.e) || (s.ins.any fun q => q.2.any fun i => i.owner.launch == l) ||
  (s.hostq.any fun q => q.2.any fun u => u.owner.launch == l)

/-- Ask the runs that hold a launch's updates to merge. -/
def State.launchMerge (s : State) (l : Nat) : State :=
  s.runs.foldl (fun (s : State) r => if r.2.ents.any fun e => e.owners.any fun o => o.launch == l then s.wantMerge r.1 else s) s

/-- Do updates of a group's threads still stand short of device scope (R35)? Its threads are numbered after it. -/
def State.groupShort (s : State) (gid : Nat) : Bool :=
  let n := match s.grp gid with | some g => g.n | none => 0
  let f (e : Entry) : Bool := e.owners.any fun o => decide (gid < o.uid) && decide (o.uid ≤ gid + n)
  (s.runs.any fun r => r.2.ents.any fun e => f e && !(r.1.level == 2 && homeOf e.word == r.1.dieOf)) ||
  (s.dies.any fun d => d.2.sent.any fun x => f x.e) || (s.hostq.any fun q => q.2.any fun u => decide (gid < u.owner.uid) && decide (u.owner.uid ≤ gid + n))

/-- Count the groups of launch l whose updates stand at device scope in GROUPS_DONE of its RCB (R34, R35); a contained group's stay where
they are (R37). None where there is none to count. -/
def State.countGroups (s : State) (l : Nat) (x : Launch) : Option State :=
  let ready (g : Nat) : Bool := (match s.grp g with | some y => y.contained | none => true) || !s.groupShort g
  let n := (x.endQ.filter ready).length
  if n = 0 then none
  else
    let s := s.modLaunch l fun y => { y with endQ := y.endQ.filter fun g => !(ready g), seen := y.seen + n }
    some (match x.rcb with | some pa => s.sysWord x.p x.ctx (pa + 0x38) (rcbWord x.state 0 (x.seen + n)) | none => s)

/-- IADD by the part, so that it stands at device scope, at a peer once that has acknowledged it (R40, R342); an error while the key cannot take
it or the acknowledgement is awaited. -/
def State.sysAdd (s : State) (ow : Owner) (p c pa : Nat) (wd : Width) (v : Nat) : Except State State :=
  match s.classify p pa with
  | .dram _ =>
    let r := RunId.rick (homeDie pa)
    let e := mkEntry pa .iadd wd false c 0 (BitVec.ofNat 64 v) [] s.clk
    (match State.put levels s r e true with
     | .ok s => .ok s
     | .noRoom _ => (match State.put levels (s.mergeRun r) r e true with | .ok s => .ok s | _ => .error s)
     | _ => .error s)
  | .host _ a => .ok (s.hostWriteB a (leBytes wd.bytes ((s.hostRead a wd.bytes + v) % 2 ^ (8 * wd.bytes))))
  | .peer d o =>
    if s.reaches p d then (match s.askPart ow d (.update o .iadd wd false (BitVec.ofNat 64 v)) with | (some _, s) => .ok (s.dropAns ow) | (none, s) => .error s)
    else .ok s
  | _ => .ok s

/-- LAUNCH_COMPLETE: launch ev.n: while groups of it remain, those that have ended are counted in its RCB; once all have ended and its
updates stand at device scope, STATE 3 is written, and its dependants learn of it. -/
def execLaunchComplete (s : State) : Out :=
  let l := s.cur.ev.n
  match aget? s.launches l with
  | none => .next s
  | some x =>
    if !x.live then .next s
    else if x.done != x.groups || x.next != x.groups then .next ((s.countGroups l x).getD (s.launchMerge l))
    else if s.launchShort l then .next (s.launchMerge l)
    else
      let fin (s : State) : Out :=
        let s := s.modLaunch l fun x => { x with state := 3, endQ := [], seen := x.done }
        let s := match x.rcb with | some pa => s.sysWord x.p x.ctx (pa + 0x38) (rcbWord 3 0 x.done) | none => s
        let s := match x.origin with | .queue p q i => s.entDone p q i | .record p q i => s.entDone p q i | .thread _ _ => s
        .next (s.dropBinds [l])
      match x.tmpl with
      | none => fin s
      | some pa => (match s.sysAdd (partReader 8 l) x.p x.ctx (pa + 0x3C) .w x.groups with | .ok s => fin s | .error s => .next s)

/-! ### The watchdog (R347) -/

/-- WATCHDOG_EXPIRE: group ev.q has been idle for 2^L clk and is contained. -/
def execWatchdogExpire (s : State) : Out :=
  let gid := s.cur.ev.q
  match s.grp gid with
  | none => .next s
  | some g =>
    let p := s.partOf g.die
    let w := (s.ctx p g.ctx).wdog
    if g.ended || w == 0#64 || decide (g.wd < 2 ^ fld w 0 6) then .next s
    else .next (s.contain p g.ctx gid 0 ⟨g.die, g.clu, g.ctx, 0, g.row⟩ 0#64 0#64)

end Sys2Proof.Machine
end

