-- ==== Sys2Proof/Machine/Queue.lean ====
section
/-!
DEFINITION. Queue.lean: the command processor (R339 to R342): entries and records taken, commands carried out, tokens.
-/
namespace Sys2Proof.Machine
open Sys2Proof

/-! ### What the command processor reads and writes -/

/-- A read by the command processor: a word that is held, a walk or a peer's answer that is awaited makes it wait. -/
inductive CpR where
  | ok (v : Nat) (s : State)
  | wait (s : State)
  | fault (s : State)
  deriving Repr

/-- The die whose tables the command processor translates by. -/
def State.cpDie (s : State) (p : Nat) : Nat := (s.partDies p).headD p

/-- Translate an address that an entry of queue q names, with its alignment and class; a peer out of REACH is unpopulated (R376). -/
def State.cpKey (s : State) (p q c va al : Nat) (k : Need) (sup : Bool) : CpR :=
  if va % al ≠ 0 then .fault s
  else match s.xlatePart (unitQueue p q) (s.cpDie p) c va k sup with
    | .ok pa s => if s.isMemory p pa then .ok pa s else .fault s
    | .wait s => .wait s
    | .fault s => .fault s
    | .poison _ s => .fault s

/-- A doubleword of the home view, a peer's through the stream (R123). (log 35) -/
def State.cpRead (s : State) (p q c va : Nat) (sup : Bool) : CpR :=
  match s.cpKey p q c va 8 .read sup with
  | .ok pa s =>
    (match s.partRead (homePath pa) p (queueReader p q) pa with
     | .ok v s => .ok v s
     | .wait s => .wait s
     | _ => .fault s)
  | x => x

/-- n doublewords, as one number. -/
def State.cpWords (s : State) (p q c : Nat) (sup : Bool) : (n : Nat) → (va : Nat) → CpR
  | 0, _ => .ok 0 s
  | n + 1, va =>
    match s.cpRead p q c va sup with
    | .ok v s => (match State.cpWords s p q c sup n (va + 8) with | .ok r s => .ok (v + 2 ^ 64 * r) s | x => x)
    | x => x

/-- What the command processor leaves of an entry that has to wait: the walks and the requests to peers. -/
def State.cpWait (s t : State) : State := (s.keepWalks t).keepAsked t

/-- Word i of such a number. -/
def cpWord (x i : Nat) : Nat := nfld x (64 * i) 64

/-- A TAKE of an entry's SEQ word at device scope with acquire ordering (R39, R40, R341): wait while it is empty or held. A peer's word is
taken there (R125). -/
def State.cpTake (s : State) (p q c va : Nat) : CpR :=
  match s.cpKey p q c va 8 .write true with
  | .ok pa s =>
    match s.classify p pa with
    | .dram lin =>
      if !s.isFull lin || !(s.heldOn (homePath pa) (wordOf pa)).isEmpty then .wait s
      else if s.isPoison lin then .fault s
      else .ok (s.dramRead lin 8) ((((s.setFull lin false).wakeWord lin).dropLine (homeDie pa) (wordOf pa)).acqPart p)
    | .peer d o =>
      (match s.askPart (queueReader p q) d (.take o) with
       | (some [], s) => .fault s
       | (some ws, s) => .ok (ws.headD 0#64).toNat (s.acqPart p)
       | (none, s) => .wait s)
    | _ => .fault s
  | x => x

def State.queue (s : State) (p q : Nat) : Option Queue := aget? s.queues (p, q)
def State.setQueue (s : State) (p q : Nat) (x : Queue) : State := { s with queues := aset s.queues (p, q) x }

/-! ### Entries of compute, copy and Reed queues (R340) -/

def cmdOp (w : List Nat) : Nat := nfld (w.getD 0 0) 0 8
def cmdChan (w : List Nat) : Nat := w.getD 5 0 % 16

/-- A task-table entry that R269 accepts for a channel. -/
def taskOk (chan e : Nat) : Bool := nfld e 13 1 == 0 && nfld e 18 46 == 0 && (decide (14 ≤ chan) || e % 2 == 0)

/-- No BADCMD (R340, R341): OP for the queue's type, reserved fields, the fields of a TASK and a SEND. (log 59) -/
def cmdOk (typ : Nat) (w : List Nat) : Bool :=
  let a1 := w.getD 5 0
  let a2 := w.getD 6 0
  nfld (w.getD 0 0) 8 56 == 0 &&
  (match cmdOp w with
   | 1 => typ == 1 && a1 == 0 && a2 == 0
   | 2 => typ == 2 && a1 == 0 && a2 == 0
   | 3 => typ == 3 && nfld a1 4 60 == 0 && taskOk (cmdChan w) a2
   | 4 => typ == 3 && nfld a1 4 60 == 0 && decide (cmdChan w < 14)
   | 5 => a1 == 0 && a2 == 0
   | _ => false)

/-- The addresses an entry names: address, alignment, need, and whether the queue's level applies (R341, R353). -/
def cmdAddrs (w : List Nat) : List (Nat × Nat × Need × Bool) :=
  (if w.getD 1 0 = 0 then [] else [(w.getD 1 0, 8, .read, false)]) ++ (if w.getD 3 0 = 0 then [] else [(w.getD 3 0, 8, .write, false)]) ++
  (match cmdOp w with
   | 1 => [(w.getD 4 0, 64, .read, false)]
   | 2 => [(w.getD 4 0, 32, .read, true)]
   | 3 => [(w.getD 4 0, 1, .read, true)]
   | 4 => [(w.getD 4 0, 1, .read, true), (w.getD 6 0, 64, .read, true)]
   | _ => [])

/-- Translate every address an entry names: all well, one that faults, or one that has to wait. -/
def State.cmdKeys (s : State) (p q : Nat) (x : Queue) : List (Nat × Nat × Need × Bool) → CpR
  | [] => .ok 0 s
  | (va, al, k, lv) :: r =>
    match s.cpKey p q x.ctx va al k (!lv || x.sup) with
    | .ok _ s => State.cmdKeys s p q x r
    | y => y

/-- QUEUE_SEQ_TAKE: queue ev.q of partition ev.p takes entry HEAD once its SEQ is full, and checks it (R341, R348). -/
def execQueueSeqTake (s : State) : Out :=
  let p := s.cur.ev.p
  let q := s.cur.ev.q
  match s.queue p q with
  | none => .next s
  | some x =>
    if x.state != 1 || x.stop || x.cur.isSome || x.typ == 4 then .next s
    else
      let at0 := x.base + 64 * (x.head % 2 ^ x.logN)
      match s.cpTake p q x.ctx (at0 + 0x38) with
      | .wait t => .next (s.cpWait t)
      | .fault t => .next (t.queueFault p q 5 x.head 0 0)
      | .ok seq s1 =>
        if seq ≠ x.head % 2 ^ 64 then .next (s1.queueFault p q 1 x.head 0 0)
        else match s1.cpWords p q x.ctx true 7 at0 with
          | .wait t => .next (s.cpWait t)
          | .fault t => .next (t.queueFault p q 5 x.head 0 0)
          | .ok e s2 =>
            let w := (List.range 7).map (cpWord e)
            if !cmdOk x.typ w then .next (s2.queueFault p q 2 x.head 0 0)
            else match s2.cmdKeys p q x (cmdAddrs w) with
              | .wait t => .next (s.cpWait t)
              | .fault t => .next (t.queueFault p q 5 x.head 0 0)
              | .ok _ s3 => .next ((s3.dropAns (queueReader p q)).setQueue p q { x with cur := some (x.head, w.map (BitVec.ofNat 64)), tokOk := w.getD 1 0 == 0 })

/-- TOKEN_POLL: the waiting queue ev.q loads its token again (R342). -/
def execTokenPoll (s : State) : Out :=
  let p := s.cur.ev.p
  let q := s.cur.ev.q
  match s.queue p q with
  | none => .next s
  | some x =>
    match x.cur with
    | none => .next s
    | some (i, w) =>
      if x.tokOk || x.typ == 4 then .next s
      else match s.cpKey p q x.ctx (w.getD 1 0#64).toNat 8 .read true with
        | .wait t => .next (s.cpWait t)
        | .fault t => .next (t.queueFault p q 5 i 0 0)
        | .ok pa s' =>
          match s.classify p pa with
          | .peer dev o =>
            if s.peerq.any fun r => decide (r.owner = queueOwner p q i) && decide (r.req = .load o .d) then .next s
            else .next { s' with peerq := s'.peerq ++ [⟨s'.fresh, dev, .load o .d, queueOwner p q i, none, 0#64, true⟩], fresh := s'.fresh + 1 }
          | _ => match s.cpRead p q x.ctx (w.getD 1 0#64).toNat true with
            | .ok v s => .next (s.tokenSeen p q v)
            | .wait t => .next (s.cpWait t)
            | .fault t => .next (t.queueFault p q 5 i 0 0)

/-- Entry i − 1 has completed, where SERIAL asks for it (R339). -/
def Queue.serialOk (x : Queue) (i : Nat) : Bool := !x.serial || i % 2 ^ 64 == 0 || x.ents.all fun e => e.idx % 2 ^ 64 != i % 2 ^ 64 - 1

/-- The entry that a queue may act on now: queue, index and words, when its OP is `op`, its token wait is over and SERIAL allows it. -/
def State.actsOn (s : State) (p q op : Nat) : Option (Queue × Nat × List W64) := do
  let x ← s.queue p q
  let (i, w) ← x.cur
  if x.typ != 4 && x.tokOk && fld (w.getD 0 0#64) 0 8 == op && x.serialOk i then some (x, i, w) else none

/-- The entry's token to signal. -/
def stokOf (w : List W64) : Nat := (w.getD 3 0#64).toNat

/-- CMD_LAUNCH: the RCB is submitted; the scheduler's answer lets the queue go on (R341, R343). -/
def execCmdLaunch (s : State) : Out :=
  let p := s.cur.ev.p
  let q := s.cur.ev.q
  match s.actsOn p q 1 with
  | none => .next s
  | some (x, i, w) =>
    let sub : Sub := ⟨(w.getD 4 0#64).toNat, x.ctx, p, .queue p q i, none, none, stokOf w⟩
    if (s.part p).subs.contains sub then .next s
    else .next (s.setPart p { s.part p with subs := (s.part p).subs ++ [sub] })

/-- The first and last byte of a global side lie below 2^56 (R255). -/
def sideOk (base stride len rows : Nat) : Bool := decide (base < 2 ^ 56) && decide ((base + rows * stride + len - 1) % 2 ^ 64 < 2 ^ 56)

/-- CMD_COPY: a COPY, or with a nonzero GROUP a COPYM, issued by the queue on the lowest die it may use (R341; log 44). A side in
scratchpad has no cluster and is BADCMD. -/
def execCmdCopy (s : State) : Out :=
  let p := s.cur.ev.p
  let q := s.cur.ev.q
  match s.actsOn p q 2 with
  | none => .next s
  | some (x, i, w) =>
    match s.cpWords p q x.ctx x.sup 4 (w.getD 4 0#64).toNat with
    | .wait t => .next (s.cpWait t)
    | .fault t => .next (t.queueFault p q 5 i 0 0)
    | .ok dsc s =>
      let d : W64 := BitVec.ofNat 64 (cpWord dsc 0)
      let d1 : W64 := BitVec.ofNat 64 (cpWord dsc 1)
      let src : W64 := BitVec.ofNat 64 (cpWord dsc 2)
      let dst : W64 := BitVec.ofNat 64 (cpWord dsc 3)
      let len := cpLen d
      let rows := cpRows d
      let multi := fld d 38 8 != 0
      if fld d 46 18 ≠ 0 ∨ cpKind d ≠ 0 then .next (s.queueFault p q 2 i 0 0)
      else if len ≠ 0 ∧ (sideOk src.toNat (cpSStr d1) len rows && (multi || sideOk dst.toNat (cpDStr d1) len rows)) = false then .next (s.queueFault p q 5 i 0 0)
      else match (if multi then s.groupOf p (fld d 38 8) (dst.toNat + rows * cpDStr d1 + len) else .ok []) with
        | .invalid => .next (s.queueFault p q 2 i 0 0)
        | .unreach => .next (s.queueFault p q 5 i 0 0)
        | .poison _ => .next (s.queueFault p q 5 i 0 0)
        | .held => .next s
        | .ok mem =>
          if len = 0 then .next (s.queueAdvance p q ⟨i, 2, stokOf w, 0, true⟩)
          else
            let die := ((List.range 8).find? fun d => nbit x.dies d && (s.partDies p).contains d).getD p
            let eng := s.pickEngine die
            if 64 ≤ (s.copies.filter fun c => c.die == die && c.eng == eng).length then .next s
            else
              let op : CopyOp := { id := s.fresh, die := die, eng := eng, ti := none, uid := 0, grp := 0, clu := 0, ctx := x.ctx, qent := some (p, q, i)
                                   sup := x.sup, first := 0#64, multi := multi, d0 := d, d1 := d1, s := src, t := dst, row := 0, byte := 0, mem := mem, await := mem.map (·.1), lost := [], stop := none, buf := [], want := 0#64, sys := multi }
              let s : State := { s with copies := s.copies ++ [op], fresh := s.fresh + 1 }
              .next (s.queueAdvance p q ⟨i, 2, stokOf w, op.id, false⟩)

/-- CMD_TASK: the entry is written into the Reed core's task table (R269, R341). -/
def execCmdTask (s : State) : Out :=
  let p := s.cur.ev.p
  let q := s.cur.ev.q
  match s.actsOn p q 3 with
  | none => .next s
  | some (x, i, w) =>
    match s.cpKey p q x.ctx (w.getD 4 0#64).toNat 1 .read x.sup with
    | .wait t => .next (s.cpWait t)
    | .fault t => .next (t.queueFault p q 5 i 0 0)
    | .ok pa s =>
      match s.classify p pa with
      | .dram _ =>
        let r := s.reed (chanOf pa)
        let s := s.setReed (chanOf pa) { r with table := lset r.table (fld (w.getD 5 0#64) 0 4) (fld (w.getD 6 0#64) 0 32) }
        .next (s.queueAdvance p q ⟨i, 3, stokOf w, 0, true⟩)
      | _ => .next (s.queueFault p q 5 i 0 0)

/-- CMD_SEND: a message goes to a Reed channel as RSEND's does (R267, R341). Its source names the device alone. -/
def execCmdSend (s : State) : Out :=
  let p := s.cur.ev.p
  let q := s.cur.ev.q
  match s.actsOn p q 4 with
  | none => .next s
  | some (x, i, w) =>
    match s.cpWords p q x.ctx x.sup 8 (w.getD 6 0#64).toNat with
    | .wait t => .next (s.cpWait t)
    | .fault t => .next (t.queueFault p q 5 i 0 0)
    | .ok pl s =>
      let pay : List W64 := (List.range 8).map fun k => BitVec.ofNat 64 (cpWord pl k)
      let src := fld (s.part p).devid 0 8 * 65536
      let chan := fld (w.getD 5 0#64) 0 4
      match s.cpKey p q x.ctx (w.getD 4 0#64).toNat 1 .read x.sup with
      | .wait t => .next (s.cpWait t)
      | .fault t => .next (t.queueFault p q 5 i 0 0)
      | .ok pa s =>
        match s.classify p pa with
        | .dram _ =>
          let m : Msg := { kind := 3, q := chanOf pa, chan := chan, src := src, ctx := x.ctx, id := s.fresh, entry := 0, pay := pay, ti := none, uid := 0
                           qent := some (p, q, i), first := 0#64, tile := none }
          .next (({ s with msgs := s.msgs ++ [m], fresh := s.fresh + 1 } : State).queueAdvance p q ⟨i, 4, stokOf w, 0, false⟩)
        | .peer dev o =>
          let r : PReq := ⟨s.fresh, dev, .message o chan src pay, queueOwner p q i, none, 0#64, true⟩
          .next (({ s with peerq := s.peerq ++ [r], fresh := s.fresh + 1 } : State).queueAdvance p q ⟨i, 4, stokOf w, 0, false⟩)
        | _ => .next (s.queueFault p q 5 i 0 0)

/-- CMD_MARK: it does nothing, and completes after every earlier entry (R341, R342). -/
def execCmdMark (s : State) : Out :=
  let p := s.cur.ev.p
  let q := s.cur.ev.q
  match s.actsOn p q 5 with
  | none => .next s
  | some (_, i, w) => .next (s.queueAdvance p q ⟨i, 5, stokOf w, 0, false⟩)

/-- Do writes that carry this number still stand short of device scope (R342)? -/
def State.uidShort (s : State) (uid : Nat) : Bool :=
  let f (e : Entry) : Bool := e.owners.any fun o => o.uid == uid
  (s.runs.any fun r => r.2.ents.any fun e => f e && !(r.1.level == 2 && homeOf e.word == r.1.dieOf)) ||
  (s.dies.any fun d => d.2.sent.any fun x => f x.e) || (s.hostq.any fun q => q.2.any fun u => u.owner.uid == uid) ||
  s.peerq.any fun r => r.owner.uid == uid

/-- Has the entry completed (R342)? One that was refused or contained never does. -/
def Queue.complete (x : Queue) (e : QEnt) : Bool := e.op != 6 && (e.done || (e.op == 5 && x.ents.all fun y => decide (e.idx ≤ y.idx)))

/-- The entry is counted as complete. -/
def State.retireEnt (s : State) (p q i : Nat) : State :=
  match s.queue p q with | some x => s.setQueue p q { x with ents := x.ents.filter fun e => e.idx != i, rels := x.rels.filter fun y => y.1 != i } | none => s

/-- The dies of a partition begin the command processor's cumulative release at device scope (R108, R342): what stands in their rick runs short of
its home, or awaits admission, is marked with m. It stands for every die of the partition, as its acquires do (log 35). -/
def State.markPart (s : State) (p m : Nat) : State := (s.partDies p).foldl (fun (s : State) d => (s.markRun m (.rick d)).markSent m d) s
/-- Is anything so marked still short of device scope? -/
def State.markShort (s : State) (p m : Nat) : Bool :=
  (s.partDies p).any fun d =>
    ((s.run (.rick d)).ents.any fun e => e.marks.contains m && homeOf e.word != d) || (s.die d).sent.any fun x => x.e.marks.contains m
/-- The release completes at every die (R120). -/
def State.partReleased (s : State) (p : Nat) : State :=
  (s.partDies p).foldl (fun (s : State) d => s.setDie d { s.die d with cvec := (s.die d).cvec.mapIdx fun i v => if i = d then max v (s.die d).hseq else v }) s

/-- ENTRY_COMPLETE_SIGNAL: completed entry ev.n of queue ev.q: after a cumulative release at device scope, which its own writes need too, its token
is counted up (R342). -/
def execEntryCompleteSignal (s : State) : Out :=
  let p := s.cur.ev.p
  let q := s.cur.ev.q
  match s.queue p q with
  | none => .next s
  | some x =>
    match x.ents.find? fun e => e.idx == s.cur.ev.n with
    | none => .next s
    | some e =>
      if !x.complete e then .next s
      else
        let merges (s : State) : State := s.runs.foldl (fun (s : State) r => if r.1.level = 2 ∧ (s.partDies p).contains r.1.dieOf = true then s.wantMerge r.1 else s) s
        if e.own ≠ 0 ∧ s.uidShort e.own = true then .next (merges s)
        else if e.stok = 0 then .next (s.retireEnt p q e.idx)
        else match x.rels.find? fun y => y.1 == e.idx with
          | none => .next (((merges (s.markPart p s.fresh)).setQueue p q { x with rels := x.rels ++ [(e.idx, s.fresh)] }).newId)
          | some y =>
            if s.markShort p y.2 then .next (merges s)
            else match s.cpKey p q x.ctx e.stok 8 .write true with
              | .wait t => .next (s.cpWait t)
              | .fault t => .next (t.queueFault p q 5 e.idx 0 0)
              | .ok pa t =>
                match (t.partReleased p).sysAdd (partReader 9 (e.idx * 512 + p * 64 + q)) p x.ctx pa .d 1 with
                | .ok t => .next (t.retireEnt p q e.idx)
                | .error t => .next (s.cpWait t)

/-! ### Record queues (R39 to R41) -/

/-- RECORD_TAKE: record queue ev.q takes record HEAD once its SEQ is full, checks its TEMPLATE and submits its launch. -/
def execRecordTake (s : State) : Out :=
  let p := s.cur.ev.p
  let q := s.cur.ev.q
  match s.queue p q with
  | none => .next s
  | some x =>
    if x.state != 1 || x.stop || x.cur.isSome || x.typ != 4 || !x.serialOk x.head then .next s
    else
      let at0 := x.base + 32 * (x.head % 2 ^ x.logN)
      match s.cpTake p q x.ctx (at0 + 0x18) with
      | .wait t => .next (s.cpWait t)
      | .fault t => .next (t.queueFault p q 5 x.head 0 0)
      | .ok seq s1 =>
        match s1.cpWords p q x.ctx true 3 at0 with
          | .wait t => .next (s.cpWait t)
          | .fault t => .next (t.queueFault p q (if seq = x.head % 2 ^ 64 then 5 else 1) x.head 0 0)
          | .ok e s2 =>
            let tmpl := cpWord e 0
            let tag := nfld e 160 32
            if seq ≠ x.head % 2 ^ 64 then .next (s2.queueFault p q 1 x.head tag 0)
            else match s2.cpKey p q x.ctx tmpl 64 .read true with
            | .wait t => .next (s.cpWait t)
            | .fault t => .next (t.queueFault p q 5 x.head tag 0)
            | .ok _ s3 =>
              let sub : Sub := ⟨tmpl, x.ctx, p, .record p q x.head, some (BitVec.ofNat 64 (cpWord e 1)), some (nfld e 128 32), tag⟩
              let s := (s3.dropAns (queueReader p q)).setQueue p q { x with cur := some (x.head, [BitVec.ofNat 64 tmpl]), tokOk := true }
              .next (s.setPart p { s.part p with subs := (s.part p).subs ++ [sub] })

end Sys2Proof.Machine
end

