-- ==== Sys2Proof/Machine/Partition.lean ====
section
/-!
DEFINITION. Partition.lean: sparing and repair (R361, R362), Causeway ports (R361, R363, R375), errors that checks find (R363 to R365).
-/
namespace Sys2Proof.Machine
open Sys2Proof

/-! ### Sparing commands (R362) -/

/-- The command of a kind that runs in partition ev.p: its die, unit and spare. -/
def State.spareArgs (s : State) (kind : Nat) : Option (Nat × Nat × Nat) :=
  match (s.part s.cur.ev.p).spareCmd with
  | some v => if nfld v 0 3 = kind then some (nfld v 3 3, nfld v 6 9, nfld v 15 9) else none
  | none => none

/-- SITE, CLUSTER and UNIT of the record of a command's kind (R366; log 58). -/
def spareSite (kind die unit : Nat) : Nat × Nat × Nat :=
  match kind with
  | 4 => (2, 127, die * 64 + unit)
  | 5 => (7, 127, unit)
  | _ => (1, unit, 0)

/-- The command ends: BUSY falls, FAILED keeps its outcome, and a success is logged (KIND 5). (log 58) -/
def State.spareEnd (s : State) (failed : Bool) (kind die unit : Nat) : State :=
  let p := s.cur.ev.p
  let s := s.setPart p { s.part p with spareCmd := none, spareFailed := failed }
  let x := spareSite kind die unit
  if failed then s else s.errLog p 5 x.1 die x.2.1 x.2.2 0 true

/-- A command of a kind acts on its die, unit and spare, or (ev.flag) it fails and has no effect. -/
def State.spareRun (s : State) (kind : Nat) (act : State → Nat → Nat → Nat → State) : Out :=
  match s.spareArgs kind with
  | none => .next s
  | some (d, u, sp) => .next (if s.cur.ev.flag then s.spareEnd true kind d u else (act s d u sp).spareEnd false kind d u)

/-- Calls under way to a unit that is taken out are lost, and the unit forgets the ids it held (R265). -/
def State.dropCalls (s : State) (cl : Bool) (tgt : Nat) : State :=
  { s with calls := s.calls.map fun c => if c.cl == cl && c.tgt == tgt && c.peer.isNone then { c with inFly := [] } else c }

/-- Both contexts halt on one cluster (R332, R362): its threads stop at a boundary, its Gleaner stops and writes its block. -/
def State.haltCluster (s : State) (d u : Nat) : State :=
  let mine (ti : SlotId) : Bool := ti.die == d && ti.clu == u
  let s := s.haltGleaners mine
  s.slots.foldl (fun (s : State) (x : SlotId × Thread) => if mine x.1 && x.2.live then s.haltThread x.1 else s) s

/-- The logical numbers of a cluster and its spare are exchanged: what the part holds by logical number stays, and the spare's number is left
reserved. -/
def State.swapClusters (s : State) (d u sp : Nat) : State :=
  let a := s.cluster d u
  let b := s.cluster d sp
  let s := s.setCluster d u { a with phys := b.phys, xlat := [] }
  s.setCluster d sp { b with phys := a.phys, xlat := [], reserved := true }

/-- SPARE_CLUSTER: both contexts halt on the unit, its state goes to the spare, and the logical numbers are exchanged. With ev.n = 1 the state
of thread ev.ti proves uncorrectable in the copy: its group is contained, as though it had read it (R362, R364). ev.flag: the move failed. -/
def execSpareCluster (s : State) : Out :=
  match s.spareArgs 1 with
  | none => .next s
  | some (d, u, sp) =>
    if s.cur.ev.flag then .next (s.spareEnd true 1 d u)
    else if !(s.atBoundary d u 0 && s.atBoundary d u 1) then .next s
    else
      let ti := s.cur.ev.ti
      let s := (s.haltCluster d u).swapClusters d u sp
      let s := (List.range 2).foldl (fun (s : State) c => s.setHalf d u c { s.half d u c with ids := [] }) (s.dropCalls true (d * 96 + u))
      let s := if s.cur.ev.n = 1 && ti.die == d && ti.clu == u && (s.thr ti).live then s.consume ti sramPa else s
      .next (s.spareEnd false 1 d u)

/-- RESERVE_CLUSTER: the unit takes no group and no tile from now on. -/
def execReserveCluster (s : State) : Out := s.spareRun 2 fun s d u _ => s.setCluster d u { s.cluster d u with reserved := true }

/-- RELEASE_CLUSTER. -/
def execReleaseCluster (s : State) : Out := s.spareRun 3 fun s d u _ => s.setCluster d u { s.cluster d u with reserved := false }

/-- A pseudo-channel is retired (R361): its addresses are unpopulated from now on, its Reed core and Sluice units refuse work. What waits
there is answered; a FERRY task that runs is lost with its core, whose successor answers UNKNOWN (R264, R265). -/
def State.retireChan (s : State) (q : Nat) : State :=
  let r := s.reed q
  let s := s.setReed q { r with retired := true, task := none, queue := [], ids := [], wait := Phase.zero }
  let s := (r.task.toList.filter fun m => m.kind != 0).foldl (fun (s : State) (m : Msg) => s.msgEnd m true) s
  let s := r.queue.foldl (fun (s : State) (m : Msg) => if m.kind = 0 then s.sendReply m.src m.ctx m.id 3 zero8 else s.msgEnd m true) s
  (List.range 4).foldl (fun (s : State) g => if (s.sluice q g).busy then s.sluAbort q g else s) s

/-- RETIRE_PSEUDO_CHANNEL. -/
def execRetirePseudoChannel (s : State) : Out := s.spareRun 4 fun s d u _ => s.retireChan (d * 64 + u)

/-- SPARE_APPLICATION_CORE: the firmware moves its tasks (R361). -/
def execSpareApplicationCore (s : State) : Out := s.spareRun 5 fun s _ u _ => { s with appSpared := ninsert u s.appSpared }

/-! ### Causeway ports (R361, R363, R375) -/

def State.port (s : State) (i : Nat) : W64 := s.cwport.getD i 0#64
def portLanes (v : W64) : Nat := fld v 1 3

/-- A port with its lanes, mode and retries: UP with two lanes or more; LIMIT112 stays. -/
def portWord (v : W64) (lanes : Nat) (mode : Bool) (retries : Nat) : W64 :=
  BitVec.ofNat 64 (b2n (decide (2 ≤ lanes)) + min lanes 4 * 2 + b2n mode * 16 + fld v 5 1 * 32 + min retries 65535 * 65536)

/-- Set a port; REACH follows what is up (R375). -/
def State.setPort (s : State) (i : Nat) (v : W64) : State := State.setReach { s with cwport := lset s.cwport i v }

/-- A port has trained: its lanes and mode, and the devices its plane reaches. -/
def State.trainPort (s : State) (i lanes : Nat) (slow : Bool) (plane : List W64) (retries : Nat) : State :=
  let v := s.port i
  ({ s with planes := lset s.planes i plane } : State).setPort i (portWord v lanes (v.getLsbD 5 || slow) retries)

/-- LANE_FAILURE: port ev.q loses a lane and retrains on the rest; below two it is down. With ev.flag it is a die-to-die lane of die ev.die,
which is steered to a spare: only the log shows it (R361, R366). -/
def execLaneFailure (s : State) : Out :=
  let e := s.cur.ev
  let i := e.q
  if e.flag then .next (s.errLog e.p 4 4 e.die 127 i 0 true)
  else
    let v := s.port i
    .next ((s.setPort i (portWord v (portLanes v - 1) (v.getLsbD 4) (fld v 16 16))).errLog e.p 4 3 0 127 i 0 true)

/-- CRC_RETRY: ev.n tries of a flit on port ev.q failed before one passed; after 8 the link is down. With ev.flag it is the link
of the die-to-die ring that leaves die ev.die, and the ring's traffic goes by the links that are left (R361, R363; log 58). -/
def execCrcRetry (s : State) : Out :=
  let e := s.cur.ev
  let i := e.q
  let v := s.port i
  let n := e.n
  if e.flag then .next (if 8 ≤ n ∧ e.die < 8 ∧ e.die ∉ s.linkDown then { s with linkDown := s.linkDown ++ [e.die] } else s)
  else .next (s.setPort i (portWord v (if 8 ≤ n then 0 else portLanes v) (v.getLsbD 4) (fld v 16 16 + n)))

/-- PORT_RETRAIN: port ev.q has trained on ev.n lanes, at 112 Gb/s where LIMIT112 or (ev.flag) the plane asks for it. ev.ws is what its plane
reaches now; with none it reaches what it reached before (R375). -/
def execPortRetrain (s : State) : Out :=
  let e := s.cur.ev
  .next (s.trainPort e.q e.n e.flag (if e.ws.isEmpty then s.planes.getD e.q [] else e.ws) (fld (s.port e.q) 16 16))

/-! ### Errors (R363 to R366) -/

/-- The entries of a run for a word become poisoned. -/
def State.poisonEntry (s : State) (r : RunId) (w : Nat) : State :=
  s.setRun r { s.run r with ents := (s.run r).ents.map fun e => if e.word == w then { e with poison := true } else e }

/-- An uncorrectable error in an SRAM datum of kind ev.n poisons it (R363, R364): 0 a scratchpad byte ev.u of a half; 1 the entries of run
ev.run for key ev.u; 2 an operand byte ev.u of a half; 3 the word of key ev.u in a die's granary; 4 word ev.u of its loft; 5 the array's
table or accumulator (ev.core, ev.u) as `MArray.bad` numbers them; 6 register ev.u of thread ev.ti; else an engine's own table, which the
operation of thread ev.ti consumes. -/
def State.poisonSram (s : State) (e : EvArgs) : State :=
  let half (f : Half → Half) : State := s.setHalf e.die e.clu e.ctx (f (s.half e.die e.clu e.ctx))
  let die (f : Die → Die) : State := s.setDie e.die (f (s.die e.die))
  match e.n with
  | 0 => half fun h => { h with spPois := ninsert (e.u / 8) h.spPois }
  | 1 => s.poisonEntry e.run (wordOf e.u)
  | 2 => half fun h => { h with opPois := ninsert (e.u / 8) h.opPois }
  | 3 => die fun d => { d with granary := d.granary.map fun g => if g.line == granLine (wordOf e.u) then { g with bad := ninsert (wordOf e.u) g.bad } else g }
  | 4 => die fun d => { d with loftBad := ninsert e.u d.loftBad }
  | 5 => half fun h => { h with arr := { h.arr with bad := unionL h.arr.bad [(e.core % 3, e.u)] } }
  | 6 => s.modThr e.ti fun t => { t with rpois := ninsert e.u t.rpois }
  | _ => s.consume e.ti sramPa

/-- What the array or a Reed core computes wrongly with no report (R365): a row's codes, or a register of the core. -/
def State.silentError (s : State) (e : EvArgs) : State :=
  if e.n = 0 then
    let codes := e.ws.map (·.toNat)
    let h := s.half e.die e.clu e.ctx
    let a := h.arr
    s.setHalf e.die e.clu e.ctx { h with arr := { a with
      acc := if (aget? a.acc e.u).isSome then aset a.acc e.u codes else a.acc
      queue := a.queue.map fun o => { o with out := o.out.map fun r => if r.1 = e.u then (r.1, codes, r.2.2) else r } } }
  else
    let q := e.die * 64 + e.clu
    s.setReed q { s.reed q with e := vset (s.reed q).e e.u e.v }

/-- ECC_ERROR: a check of site ev.q in partition ev.p finds an error. Corrected (ev.flag): logged. Otherwise the datum is poisoned: an SRAM
datum (SITE 1); the HBM word of key ev.u (SITE 2); a merge adder's result (SITE 5), in run ev.run or, with ev.n = 1, at the barn; a Sluice
accumulator of unit (ev.die, ev.clu, ev.core), which stops (SITE 6). With ev.q = 0 no check finds it (R365). (log 46) -/
def execEccError (s : State) : Out :=
  let e := s.cur.ev
  let barn (s : State) : State := match s.classify e.p e.u with | .dram lin => s.setPoison lin true | _ => s
  let hbm := chanOf e.u
  if e.q = 0 then .next (s.silentError e)
  else if e.flag then .next (if e.q = 2 then s.errLog e.p 1 2 (hbm / 64) 127 hbm e.u true else s.errLog e.p 1 e.q e.die e.clu 0 e.u true)
  else match e.q with
    | 1 => .next ((s.errLog e.p 2 1 e.die e.clu 0 (if e.n = 1 ∨ e.n = 3 then e.u else 0) false).poisonSram e)
    | 2 => .next (barn (s.errLog e.p 2 2 (hbm / 64) 127 hbm e.u false))
    | 5 =>
      let s := s.errLog e.p 2 5 e.die e.clu 0 e.u false
      .next (if e.n = 1 then barn s else s.poisonEntry e.run (wordOf e.u))
    | 6 =>
      let q := e.die * 64 + e.clu
      .next ((if (s.sluice q e.core).busy then s.sluAbort q e.core else s).errLog e.p 6 6 e.die 127 q 0 false)
    | _ => .next (s.errLog e.p 2 e.q e.die e.clu 0 e.u false)

end Sys2Proof.Machine
end

