-- ==== Sys2Proof/Machine/HostBoot.lean ====
section
/-!
DEFINITION. HostBoot.lean: the endpoint (R373), the SYS register window (R369), host memory (R370), measured boot (R378, R379), attestation
(R380, R381), power and cooling (R382).
-/
namespace Sys2Proof.Machine
open Sys2Proof

/-! ### BAR2 and BAR0 (R373) -/

/-- The partition the endpoint belongs to. -/
def State.hostPart (s : State) : Nat := s.partOf 0

/-- The key a BAR2 offset names, when it is populated. -/
def State.bar2Key (s : State) (off : Nat) : Option Nat :=
  if 0xA000000000 ≤ off then none else match s.classify s.hostPart off with | .dram lin => some lin | _ => none

/-- REPLACE of one byte by the host, into its home rick run. -/
def State.bar2Byte (s : State) (off : Nat) (b : Byte) : Option State :=
  match s.bar2Key off with
  | none => some s
  | some _ =>
    match State.put levels s (.rick (homeDie off)) (mkEntry off .replace .b false 0 0 (b.zeroExtend 64) [] s.clk) true with
    | .ok s => some s
    | _ => none

/-- Bytes from an offset on: all in posted order, or none yet. -/
def State.bar2Bytes (s : State) (off : Nat) : List Byte → Option State
  | [] => some s
  | b :: bs => (s.bar2Byte off b).bind fun s => State.bar2Bytes s (off + 1) bs

/-- Is BAR0 exposed, in recovery too, and is the endpoint enabled as a whole (R378)? -/
def State.bar0On (s : State) : Bool := s.boot == .up || s.boot == .recovery || s.boot == .tripped
def State.bar2On (s : State) : Bool := s.boot == .up

/-- BAR2_WRITE: the host writes the low ev.n bytes of ev.v at offset ev.u; unpopulated bytes are discarded. -/
def execBar2Write (s : State) : Out :=
  let e := s.cur.ev
  .next (if s.bar2On then (s.bar2Bytes e.u (leBytes (min e.n 8) e.v.toNat)).getD s else s)

/-- A host read of BAR0: the reserved offsets read as 0; what the three written ones read as is not stated, a free value (log 25). -/
def State.bar0Read (s : State) (off : Nat) : State :=
  if !s.bar0On || decide (0x1000 ≤ off) then { s with hostReads := s.hostReads ++ [(off, none)] }
  else if 0x18 ≤ off then { s with hostReads := s.hostReads ++ [(off, some 0#64)] }
  else { s with hostReads := s.hostReads ++ [(off, some (Config.freeWord s.frees))], frees := s.frees + 1 }

/-- BAR2_READ: the host reads ev.n bytes at offset ev.u in the home view; an unpopulated or poisoned byte is an Unsupported Request. With
ev.flag it reads BAR0 at offset ev.u. -/
def execBar2Read (s : State) : Out :=
  let e := s.cur.ev
  let n := min e.n 8
  if e.flag then .next (s.bar0Read e.u)
  else if s.bar2On && (List.range n).all fun i => (s.bar2Key (e.u + i)).isSome then
    match s.hvRead e.u n with
    | .ok v s => .next { s with hostReads := s.hostReads ++ [(e.u, some (BitVec.ofNat 64 v))] }
    | .held => .next s
    | .poison => .next { s with hostReads := s.hostReads ++ [(e.u, none)] }
  else .next { s with hostReads := s.hostReads ++ [(e.u, none)] }

/-- FEADDR: the latch takes an 8-aligned interleaved key; any other value leaves it, and a FEDATA that waits goes first (log 25). -/
def execFeaddr (s : State) : Out :=
  let v := s.cur.ev.v
  .next (if s.bar0On && s.feq.isEmpty && v.toNat % 8 == 0 && decide (v.toNat < 0xA000000000) then { s with feaddrReg := v } else s)

/-- A FILL by the part at the barn of an interleaved key: none while entries or a full bit stand in its way. -/
def State.partFill (s : State) (key : Nat) (v : W64) : Option State :=
  let w := wordOf key
  let r := RunId.rick (homeOf w)
  let s := if (s.run r).ents.any fun e => e.word == w && !e.held then s.moveWord r w else s
  let lin := wordLin w
  if (s.run r).ents.any (fun e => e.word == w) || s.isFull lin then none
  else some (((s.barnFill lin v).wakeWord lin).dropLine (homeOf w) w)

/-- FEDATA: earlier BAR2 writes stand at device scope already; the FILL of the latched key is made when its word is empty, and memory is up
(R378). With ev.flag the waiting FILL tries again. -/
def execFedata (s : State) : Out :=
  let s : State := if s.cur.ev.flag || !s.feq.isEmpty || !s.bar0On then s else { s with feq := [(s.feaddrReg.toNat, s.cur.ev.v)] }
  match s.feq with
  | [] => .next s
  | (a, v) :: rest =>
    if !s.bar2On then .next s
    else match s.bar2Key a with
    | none => .next { s with feq := rest }
    | some _ => (match s.partFill a v with | some s => .next { s with feq := rest } | none => .next s)

/-! ### Attestation (R380, R381) -/

/-- The first 0x130 bytes of a report. -/
def State.reportHead (s : State) (nonce : List Byte) (p n : Nat) : List Byte :=
  nonce ++ s.meas.flatten ++ leBytes 8 (s.part p).devid.toNat ++ leBytes 4 n ++ leBytes 4 0

/-- Does a part of the report at A still await admission (R381)? It has no owner. -/
def State.reportOut (s : State) (a : Nat) : Bool :=
  s.dies.any fun d => d.2.sent.any fun x => x.e.owners.isEmpty && decide (a ≤ wordKey x.e.word) && decide (wordKey x.e.word < a + 0x1508)

/-- One stage of the oldest request: commit the leaf, sign and write the report, and fill the status once the report stands at device
scope. -/
def State.attStep (s : State) : State :=
  match s.attq with
  | [] => s
  | (p, a, st) :: rest =>
    if st = 2 then
      if s.nvmNext = 2 ^ 20 then { s with attq := (p, a, 1) :: rest } else { s with nvmNext := s.nvmNext + 1, attq := (p, a, 3 + s.nvmNext) :: rest }
    else if st ≤ 1 then
      if s.reportOut a then s
      else match s.classify p (a + 0x1508) with
        | .dram _ => (match s.partFill (a + 0x1508) (BitVec.ofNat 64 st) with | some s => { s with attq := rest } | none => s)
        | _ => { s with attq := rest }
    else match s.hvRead a 32 with
      | .ok v s =>
        let m := s.reportHead (leBytes 32 v) p (st - 3)
        let s := s.sysWrite p 0 a (m ++ Hss.hssSign (st - 3) m)
        { s with attq := (p, a, 0) :: rest }
      | _ => s

/-- ATTREQ: a BAR0 write of ev.v asks for a report; with ev.flag the oldest request goes on. A FEDATA that waits goes first. -/
def execAttreq (s : State) : Out :=
  if s.cur.ev.flag then .next (if s.bar2On then s.attStep else s)
  else if s.bar0On && s.feq.isEmpty then .next (match s.putAttreq s.hostPart s.cur.ev.v with | .ok s => s | _ => s) else .next s

/-! ### Host memory (R370) -/

/-- What an update makes of the eight bytes that were read around it: FSUM rounds at every update, with no wide cell. -/
def HUpd.result (u : HUpd) (old : Nat) : Nat :=
  laneGet (View.fold ⟨old, []⟩ (mkEntry (u.addr % 8) u.op u.width u.bf 0 0 u.val [] 0)).settle.val (u.addr % 8) u.width.bytes

/-- Does the bridge perform the update in one access: a posted write, or a FetchAdd where the port has AtomicOps (R370)? -/
def HUpd.single (u : HUpd) (rc : Nat) : Bool :=
  u.op == .replace || (u.op == .iadd && (u.width == .w || u.width == .d) && Config.hostAtomics rc)

/-- HOST_UPDATE: the bridge of root complex ev.q goes on with the oldest update of its stream: in one access, or by a read and then a
write, between which host agents may write. -/
def execHostUpdate (s : State) : Out :=
  let rc := s.cur.ev.q
  match aget [] s.hostq rc with
  | [] => .next s
  | u :: rest =>
    let old := s.hostRead (u.addr / 8 * 8) 8
    let done (v : Nat) : Out := .next (({ s with hostq := aset s.hostq rc rest } : State).hostWriteB u.addr (leBytes u.width.bytes (u.result v)))
    if !u.ready then .next s
    else if u.single rc then done old
    else match u.got with
      | some v => done v
      | none => .next { s with hostq := aset s.hostq rc ({ u with got := some old } :: rest) }

/-! ### Measured boot (R378, R379) -/

/-- Extend measurement register i with the hash of some bytes. -/
def State.extend (s : State) (i : Nat) (m : List Byte) : State :=
  { s with meas := lset s.meas i (Sha.sha256 (s.meas.getD i [] ++ Sha.sha256 m)) }

/-- What a reset leaves (R378): everything at its reset value but NVM, the memory of hosts, and the model's own counters. -/
def State.afterReset (s : State) : State :=
  { State.reset with cur := s.cur, agenda := s.agenda, turns := s.turns, frees := s.frees, fresh := s.fresh, host := s.host, nvmNext := s.nvmNext }

/-- Does image i carry a signature that verifies against the fused key (R379)? -/
def imageOk (i : Nat) : Bool := Sha.sha256 (Config.flashKey i) == Config.fuseKey && Hss.hssOk (Config.flashKey i) (Config.flashSig i) (Config.flashImage i)

/-- RESET: the boot ROM verifies and measures the first stage-1 image that is signed, and runs it; with none the part stays in recovery. -/
def execReset (s : State) : Out :=
  let s := s.afterReset
  if imageOk 0 then .next { s.extend 0 (Config.flashImage 0) with boot := .stage1 }
  else if imageOk 1 then .next { s.extend 0 (Config.flashImage 1) with boot := .stage1 }
  else .next { s with boot := .recovery }

/-- BOOT_STAGE1: links and HBM are trained, every word zero and empty, all SRAM and the causal state clear; the stage-2 runtime and the
command-processor firmware are verified and measured. -/
def execBootStage1 (s : State) : Out :=
  if s.boot ≠ .stage1 then .next s
  else
    let s : State := { s with
      mem := [], full := [], cells := [], poison := [], runs := [], ins := [], dies := [], halves := [], clusters := [], slots := [], reeds := [], sluices := [], linkDown := [] }
    let s := s.extend 1 Config.fuseMaps
    if imageOk 2 && imageOk 3 then .next { (s.extend 2 (Config.flashImage 2)).extend 2 (Config.flashImage 3) with boot := .stage2 }
    else .next { s with boot := .recovery }

/-- Train the Causeway ports on the lanes given, each with what its plane reaches (R375). -/
def State.trainPorts (s : State) (lanes : List W64) : State :=
  lanes.zipIdx.foldl (fun (s : State) x => s.trainPort x.2 (x.1.toNat % 8) (Config.bootSlow x.2) (Config.bootPlane x.2) 0) s

/-- Every partition gets its ports (R360). -/
def State.bootPorts (s : State) : State := State.setReach { s with parts := s.parts.map fun x => (x.1, { x.2 with ports := Config.bootPorts x.1 }) }

/-- BOOT_STAGE2: PCIe and Causeway are trained (ev.ws: lanes by port), ev.wr is written through the window, in order, the ports are assigned,
and the endpoint is enabled. Later on (ev.flag) firmware measures image ev.n into register ev.q, 3 to 7. -/
def execBootStage2 (s : State) : Out :=
  let e := s.cur.ev
  if e.flag then .next (if s.boot = .up ∧ 3 ≤ e.q ∧ e.q ≤ 7 then s.extend e.q (Config.flashImage e.n) else s)
  else if s.boot ≠ .stage2 then .next s
  else .next (e.wr.foldl (fun (s : State) x => s.winSend x.1 x.2) { s.trainPorts e.ws with boot := .up }).bootPorts

/-- POWER_LOSS: what is volatile is lost; a leaf that was committed stays consumed (R380). -/
def execPowerLoss (s : State) : Out := .next s.afterReset

/-! ### Power and cooling (R382) -/

/-- The budget the governor holds: the cap, halved above 110 °C. -/
def State.budget (s : State) : Nat := if 1760 < fld s.therm 0 16 then fld s.pwrcap 0 16 / 2 else fld s.pwrcap 0 16

/-- The sensors' reading: junction and inlet, in sixteenths of a degree. (log 61) -/
def State.sense (s : State) (junction inlet : Nat) : State := { s with therm := BitVec.ofNat 64 (junction % 65536 + inlet % 65536 * 65536) }

/-- GOVERNOR_TICK: the compute dies draw ev.n watts; junction ev.u, inlet ev.q. -/
def execGovernorTick (s : State) : Out :=
  let s := s.sense s.cur.ev.u s.cur.ev.q
  .next { s with throttle := decide (s.budget < s.cur.ev.n) }

/-- THERMAL_HALVE: above 110 °C the budget is half the cap, as `budget` gives it. -/
def execThermalHalve (s : State) : Out := .next (s.sense s.cur.ev.u s.cur.ev.q)

/-- THERMAL_TRIP: at 120 °C every compute die is held in reset. -/
def execThermalTrip (s : State) : Out :=
  let s := s.sense s.cur.ev.u s.cur.ev.q
  if s.cur.ev.u < 1920 then .next s
  else .next { s with
    boot := .tripped, slots := [], clusters := [], halves := [], dies := [], runs := [], ins := [], vunit := [], reeds := [], sluices := [], loads := []
    copies := [], winnow := [], calls := [], msgs := [], tissues := [], groups := [], launches := [], queues := [], ctxs := [], savedCtx := [] }

end Sys2Proof.Machine
end

