-- ==== Sys2Proof/Machine/Scalar.lean ====
section
/-!
DEFINITION. Scalar.lean: arithmetic on registers (R157 to R161), on cluster threads and Reed cores alike (R152).
-/
namespace Sys2Proof.Machine
open Sys2Proof

/-- Write a result and complete with fall-through. -/
def setAndFall (rd : Reg) (v : W64) (s : State) : Out := .next (s.setReg rd v).fall

def bit1 (b : Bool) : W64 := if b then 1#64 else 0#64
/-- The amount of a shift: bits [5:0] (R157). -/
def shAmt (b : W64) : Nat := b.toNat % 64

/-- DIV (R157). -/
def divS (a b : W64) : W64 := if b = 0#64 then BitVec.allOnes 64 else a.sdiv b
def divU (a b : W64) : W64 := if b = 0#64 then BitVec.allOnes 64 else a.udiv b
def remS (a b : W64) : W64 := if b = 0#64 then a else a.srem b
def remU (a b : W64) : W64 := if b = 0#64 then a else a.umod b
def mulHiS (a b : W64) : W64 := ((a.signExtend 128) * (b.signExtend 128)).extractLsb' 64 64
def mulHiU (a b : W64) : W64 := ((a.zeroExtend 128) * (b.zeroExtend 128)).extractLsb' 64 64

def execAdd (rd rs rt : Reg) (s : State) : Out := setAndFall rd (s.reg rs + s.reg rt) s
def execSub (rd rs rt : Reg) (s : State) : Out := setAndFall rd (s.reg rs - s.reg rt) s
def execMul (rd rs rt : Reg) (s : State) : Out := setAndFall rd (s.reg rs * s.reg rt) s
def execMulh (rd rs rt : Reg) (s : State) : Out := setAndFall rd (mulHiS (s.reg rs) (s.reg rt)) s
def execMulhu (rd rs rt : Reg) (s : State) : Out := setAndFall rd (mulHiU (s.reg rs) (s.reg rt)) s
def execDiv (rd rs rt : Reg) (s : State) : Out := setAndFall rd (divS (s.reg rs) (s.reg rt)) s
def execDivu (rd rs rt : Reg) (s : State) : Out := setAndFall rd (divU (s.reg rs) (s.reg rt)) s
def execRem (rd rs rt : Reg) (s : State) : Out := setAndFall rd (remS (s.reg rs) (s.reg rt)) s
def execRemu (rd rs rt : Reg) (s : State) : Out := setAndFall rd (remU (s.reg rs) (s.reg rt)) s
def execAnd (rd rs rt : Reg) (s : State) : Out := setAndFall rd (s.reg rs &&& s.reg rt) s
def execOr (rd rs rt : Reg) (s : State) : Out := setAndFall rd (s.reg rs ||| s.reg rt) s
def execXor (rd rs rt : Reg) (s : State) : Out := setAndFall rd (s.reg rs ^^^ s.reg rt) s
def execAndn (rd rs rt : Reg) (s : State) : Out := setAndFall rd (s.reg rs &&& ~~~(s.reg rt)) s
def execShl (rd rs rt : Reg) (s : State) : Out := setAndFall rd (s.reg rs <<< shAmt (s.reg rt)) s
def execShr (rd rs rt : Reg) (s : State) : Out := setAndFall rd (s.reg rs >>> shAmt (s.reg rt)) s
def execSar (rd rs rt : Reg) (s : State) : Out := setAndFall rd ((s.reg rs).sshiftRight (shAmt (s.reg rt))) s
def execRor (rd rs rt : Reg) (s : State) : Out := setAndFall rd ((s.reg rs).rotateRight (shAmt (s.reg rt))) s
def execSlt (rd rs rt : Reg) (s : State) : Out := setAndFall rd (bit1 ((s.reg rs).slt (s.reg rt))) s
def execSltu (rd rs rt : Reg) (s : State) : Out := setAndFall rd (bit1 ((s.reg rs).ult (s.reg rt))) s
def execSeq (rd rs rt : Reg) (s : State) : Out := setAndFall rd (bit1 (s.reg rs == s.reg rt)) s
def execSne (rd rs rt : Reg) (s : State) : Out := setAndFall rd (bit1 (s.reg rs != s.reg rt)) s
def execMin (rd rs rt : Reg) (s : State) : Out := setAndFall rd (if (s.reg rt).slt (s.reg rs) then s.reg rt else s.reg rs) s
def execMax (rd rs rt : Reg) (s : State) : Out := setAndFall rd (if (s.reg rs).slt (s.reg rt) then s.reg rt else s.reg rs) s
def execMinu (rd rs rt : Reg) (s : State) : Out := setAndFall rd (if (s.reg rt).ult (s.reg rs) then s.reg rt else s.reg rs) s
def execMaxu (rd rs rt : Reg) (s : State) : Out := setAndFall rd (if (s.reg rs).ult (s.reg rt) then s.reg rt else s.reg rs) s

/-- Zero bits of `x` from bit 63 down, of `n` bits (R158). -/
def leadZeros (x : Nat) : Nat → Nat
  | 0 => 0
  | n + 1 => if nbit x n then 0 else 1 + leadZeros x n
/-- Zero bits from bit i up, n left. -/
def trailZeros (x i : Nat) : Nat → Nat
  | 0 => 0
  | n + 1 => if nbit x i then 0 else 1 + trailZeros x (i + 1) n
def popCount (x : Nat) : Nat → Nat
  | 0 => 0
  | n + 1 => b2n (nbit x n) + popCount x n
/-- Bit i to bit n − 1 − i. -/
def bitRev (x : Nat) : Nat → Nat
  | 0 => 0
  | n + 1 => b2n (nbit x n) + 2 * bitRev x n

def execClz (rd rs : Reg) (s : State) : Out := setAndFall rd (BitVec.ofNat 64 (leadZeros (s.reg rs).toNat 64)) s
def execCtz (rd rs : Reg) (s : State) : Out := setAndFall rd (BitVec.ofNat 64 (trailZeros (s.reg rs).toNat 0 64)) s
def execPopc (rd rs : Reg) (s : State) : Out := setAndFall rd (BitVec.ofNat 64 (popCount (s.reg rs).toNat 64)) s
def execBrev (rd rs : Reg) (s : State) : Out := setAndFall rd (BitVec.ofNat 64 (bitRev (s.reg rs).toNat 64)) s

/-- Position and length of a field (R159). -/
def bfPos (t : W64) : Nat := fld t 0 6
def bfLen (t : W64) : Nat := fld t 8 6 + 1
/-- The field, bits above 63 reading as zero. -/
def bfGet (a t : W64) : Nat := fld a (bfPos t) (bfLen t)
/-- BFI's result: the low bits of a put into y. -/
def bfPut (y a t : W64) : W64 :=
  let m := (2 ^ bfLen t - 1) * 2 ^ bfPos t
  (y &&& ~~~(BitVec.ofNat 64 m)) ||| BitVec.ofNat 64 (a.toNat % 2 ^ bfLen t * 2 ^ bfPos t)

def execBfx (rd rs rt : Reg) (s : State) : Out := setAndFall rd (sext64 (bfLen (s.reg rt)) (bfGet (s.reg rs) (s.reg rt))) s
def execBfxu (rd rs rt : Reg) (s : State) : Out := setAndFall rd (BitVec.ofNat 64 (bfGet (s.reg rs) (s.reg rt))) s
def execBfi (rd rs rt : Reg) (s : State) : Out := setAndFall rd (bfPut (s.reg rd) (s.reg rs) (s.reg rt)) s

def execAddi (rd rs : Reg) (imm : W64) (s : State) : Out := setAndFall rd (s.reg rs + imm) s
def execAndi (rd rs : Reg) (imm : W64) (s : State) : Out := setAndFall rd (s.reg rs &&& imm) s
def execOri (rd rs : Reg) (imm : W64) (s : State) : Out := setAndFall rd (s.reg rs ||| imm) s
def execXori (rd rs : Reg) (imm : W64) (s : State) : Out := setAndFall rd (s.reg rs ^^^ imm) s
def execShli (rd rs : Reg) (imm : W64) (s : State) : Out := setAndFall rd (s.reg rs <<< shAmt imm) s
def execShri (rd rs : Reg) (imm : W64) (s : State) : Out := setAndFall rd (s.reg rs >>> shAmt imm) s
def execSari (rd rs : Reg) (imm : W64) (s : State) : Out := setAndFall rd ((s.reg rs).sshiftRight (shAmt imm)) s
def execSlti (rd rs : Reg) (imm : W64) (s : State) : Out := setAndFall rd (bit1 ((s.reg rs).slt imm)) s
def execSltiu (rd rs : Reg) (imm : W64) (s : State) : Out := setAndFall rd (bit1 ((s.reg rs).ult imm)) s
def execLi (rd : Reg) (imm : W64) (s : State) : Out := setAndFall rd imm s
/-- LIH keeps bits [31:0] (R161). -/
def execLih (rd : Reg) (imm : W64) (s : State) : Out :=
  setAndFall rd (BitVec.ofNat 64 (lo32 (s.reg rd) + lo32 imm * 2 ^ 32)) s

end Sys2Proof.Machine
end

