-- ==== Sys2Proof/Machine/Dispatch.lean ====
section
/-!
DEFINITION. Dispatch.lean: one arm per constructor of Instr, in the order of Syntax.lean.
-/
namespace Sys2Proof.Machine
open Sys2Proof

def exec (i : Instr) (s : State) : Host.Outcome State Fault Refusal :=
  match i with
  | .add rd rs rt => Sys2Proof.Machine.execAdd rd rs rt s
  | .sub rd rs rt => Sys2Proof.Machine.execSub rd rs rt s
  | .mul rd rs rt => Sys2Proof.Machine.execMul rd rs rt s
  | .mulh rd rs rt => Sys2Proof.Machine.execMulh rd rs rt s
  | .mulhu rd rs rt => Sys2Proof.Machine.execMulhu rd rs rt s
  | .div rd rs rt => Sys2Proof.Machine.execDiv rd rs rt s
  | .divu rd rs rt => Sys2Proof.Machine.execDivu rd rs rt s
  | .rem rd rs rt => Sys2Proof.Machine.execRem rd rs rt s
  | .remu rd rs rt => Sys2Proof.Machine.execRemu rd rs rt s
  | .and rd rs rt => Sys2Proof.Machine.execAnd rd rs rt s
  | .or rd rs rt => Sys2Proof.Machine.execOr rd rs rt s
  | .xor rd rs rt => Sys2Proof.Machine.execXor rd rs rt s
  | .andn rd rs rt => Sys2Proof.Machine.execAndn rd rs rt s
  | .shl rd rs rt => Sys2Proof.Machine.execShl rd rs rt s
  | .shr rd rs rt => Sys2Proof.Machine.execShr rd rs rt s
  | .sar rd rs rt => Sys2Proof.Machine.execSar rd rs rt s
  | .ror rd rs rt => Sys2Proof.Machine.execRor rd rs rt s
  | .slt rd rs rt => Sys2Proof.Machine.execSlt rd rs rt s
  | .sltu rd rs rt => Sys2Proof.Machine.execSltu rd rs rt s
  | .seq rd rs rt => Sys2Proof.Machine.execSeq rd rs rt s
  | .sne rd rs rt => Sys2Proof.Machine.execSne rd rs rt s
  | .min rd rs rt => Sys2Proof.Machine.execMin rd rs rt s
  | .max rd rs rt => Sys2Proof.Machine.execMax rd rs rt s
  | .minu rd rs rt => Sys2Proof.Machine.execMinu rd rs rt s
  | .maxu rd rs rt => Sys2Proof.Machine.execMaxu rd rs rt s
  | .clz rd rs => Sys2Proof.Machine.execClz rd rs s
  | .ctz rd rs => Sys2Proof.Machine.execCtz rd rs s
  | .popc rd rs => Sys2Proof.Machine.execPopc rd rs s
  | .brev rd rs => Sys2Proof.Machine.execBrev rd rs s
  | .bfx rd rs rt => Sys2Proof.Machine.execBfx rd rs rt s
  | .bfxu rd rs rt => Sys2Proof.Machine.execBfxu rd rs rt s
  | .bfi rd rs rt => Sys2Proof.Machine.execBfi rd rs rt s
  | .addi rd rs imm => Sys2Proof.Machine.execAddi rd rs imm s
  | .andi rd rs imm => Sys2Proof.Machine.execAndi rd rs imm s
  | .ori rd rs imm => Sys2Proof.Machine.execOri rd rs imm s
  | .xori rd rs imm => Sys2Proof.Machine.execXori rd rs imm s
  | .shli rd rs imm => Sys2Proof.Machine.execShli rd rs imm s
  | .shri rd rs imm => Sys2Proof.Machine.execShri rd rs imm s
  | .sari rd rs imm => Sys2Proof.Machine.execSari rd rs imm s
  | .slti rd rs imm => Sys2Proof.Machine.execSlti rd rs imm s
  | .sltiu rd rs imm => Sys2Proof.Machine.execSltiu rd rs imm s
  | .li rd imm => Sys2Proof.Machine.execLi rd imm s
  | .lih rd imm => Sys2Proof.Machine.execLih rd imm s
  | .beq rs rt off => Sys2Proof.Machine.execBeq rs rt off s
  | .bne rs rt off => Sys2Proof.Machine.execBne rs rt off s
  | .blt rs rt off => Sys2Proof.Machine.execBlt rs rt off s
  | .bge rs rt off => Sys2Proof.Machine.execBge rs rt off s
  | .bltu rs rt off => Sys2Proof.Machine.execBltu rs rt off s
  | .bgeu rs rt off => Sys2Proof.Machine.execBgeu rs rt off s
  | .loop lvl rc off => Sys2Proof.Machine.execLoop lvl rc off s
  | .jmp off => Sys2Proof.Machine.execJmp off s
  | .call off => Sys2Proof.Machine.execCall off s
  | .jr rs => Sys2Proof.Machine.execJr rs s
  | .callr rs => Sys2Proof.Machine.execCallr rs s
  | .svc code => Sys2Proof.Machine.execSvc code s
  | .setvl rs => Sys2Proof.Machine.execSetvl rs s
  | .launch rd rs => Sys2Proof.Machine.execLaunch rd rs s
  | .rdstat rd => Sys2Proof.Machine.execRdstat rd s
  | .wrstat rs => Sys2Proof.Machine.execWrstat rs s
  | .movfs rd sr => Sys2Proof.Machine.execMovfs rd sr s
  | .movts sr rs => Sys2Proof.Machine.execMovts sr rs s
  | .ld wd sp nb o rd rs off => Sys2Proof.Machine.execLd wd sp nb o rd rs off s
  | .ldS wd sp nb o rd rs off => Sys2Proof.Machine.execLdS wd sp nb o rd rs off s
  | .st wd sp o rd rs off => Sys2Proof.Machine.execSt wd sp o rd rs off s
  | .iadd wd o rd rs off => Sys2Proof.Machine.execIadd wd o rd rs off s
  | .smin wd o rd rs off => Sys2Proof.Machine.execSmin wd o rd rs off s
  | .smax wd o rd rs off => Sys2Proof.Machine.execSmax wd o rd rs off s
  | .umin wd o rd rs off => Sys2Proof.Machine.execUmin wd o rd rs off s
  | .umax wd o rd rs off => Sys2Proof.Machine.execUmax wd o rd rs off s
  | .andUpdate wd o rd rs off => Sys2Proof.Machine.execAndUpdate wd o rd rs off s
  | .orUpdate wd o rd rs off => Sys2Proof.Machine.execOrUpdate wd o rd rs off s
  | .xorUpdate wd o rd rs off => Sys2Proof.Machine.execXorUpdate wd o rd rs off s
  | .fsum f o rd rs off => Sys2Proof.Machine.execFsum f o rd rs off s
  | .fmin f o rd rs off => Sys2Proof.Machine.execFmin f o rd rs off s
  | .fmax f o rd rs off => Sys2Proof.Machine.execFmax f o rd rs off s
  | .fadd64 o rd rs off => Sys2Proof.Machine.execFadd64 o rd rs off s
  | .atom op wd bf o rd rs => Sys2Proof.Machine.execAtom op wd bf o rd rs s
  | .fill sp o rd rs off => Sys2Proof.Machine.execFill sp o rd rs off s
  | .take sp o rd rs off => Sys2Proof.Machine.execTake sp o rd rs off s
  | .peek sp o rd rs off => Sys2Proof.Machine.execPeek sp o rd rs off s
  | .empty sp o rs off => Sys2Proof.Machine.execEmpty sp o rs off s
  | .fence o => Sys2Proof.Machine.execFence o s
  | .settle sc => Sys2Proof.Machine.execSettle sc s
  | .mresolveRetry rd rs => Sys2Proof.Machine.execMresolveRetry rd rs s
  | .mresolveDrop rd rs => Sys2Proof.Machine.execMresolveDrop rd rs s
  | .mresolveCommit rd rs => Sys2Proof.Machine.execMresolveCommit rd rs s
  | .wait nb rd lim => Sys2Proof.Machine.execWait nb rd lim s
  | .bar o => Sys2Proof.Machine.execBar o s
  | .barp o rs rt => Sys2Proof.Machine.execBarp o rs rt s
  | .chpush o rs rt => Sys2Proof.Machine.execChpush o rs rt s
  | .chpop o rd rs => Sys2Proof.Machine.execChpop o rd rs s
  | .vadd f r mk pd pa pb => Sys2Proof.Machine.execVadd f r mk pd pa pb s
  | .vsub f r mk pd pa pb => Sys2Proof.Machine.execVsub f r mk pd pa pb s
  | .vmul f r mk pd pa pb => Sys2Proof.Machine.execVmul f r mk pd pa pb s
  | .vfma f r mk pd pa pb => Sys2Proof.Machine.execVfma f r mk pd pa pb s
  | .vmin f mk pd pa pb => Sys2Proof.Machine.execVmin f mk pd pa pb s
  | .vmax f mk pd pa pb => Sys2Proof.Machine.execVmax f mk pd pa pb s
  | .vabs f r mk pd pa => Sys2Proof.Machine.execVabs f r mk pd pa s
  | .vneg f r mk pd pa => Sys2Proof.Machine.execVneg f r mk pd pa s
  | .vand f mk pd pa pb => Sys2Proof.Machine.execVand f mk pd pa pb s
  | .vor f mk pd pa pb => Sys2Proof.Machine.execVor f mk pd pa pb s
  | .vxor f mk pd pa pb => Sys2Proof.Machine.execVxor f mk pd pa pb s
  | .vshl f r mk pd pa pb => Sys2Proof.Machine.execVshl f r mk pd pa pb s
  | .vcmpeq f mk pd pa pb => Sys2Proof.Machine.execVcmpeq f mk pd pa pb s
  | .vcmpne f mk pd pa pb => Sys2Proof.Machine.execVcmpne f mk pd pa pb s
  | .vcmplt f mk pd pa pb => Sys2Proof.Machine.execVcmplt f mk pd pa pb s
  | .vcmple f mk pd pa pb => Sys2Proof.Machine.execVcmple f mk pd pa pb s
  | .vsum f r mk rd pa => Sys2Proof.Machine.execVsum f r mk rd pa s
  | .vmaxr f mk rd pa => Sys2Proof.Machine.execVmaxr f mk rd pa s
  | .vscan f r mk pd pa => Sys2Proof.Machine.execVscan f r mk pd pa s
  | .vdot f r mk rd pa pb => Sys2Proof.Machine.execVdot f r mk rd pa pb s
  | .vfill f mk pd rs => Sys2Proof.Machine.execVfill f mk pd rs s
  | .vcopy f mk pd pa => Sys2Proof.Machine.execVcopy f mk pd pa s
  | .vsel f pd pa pb => Sys2Proof.Machine.execVsel f pd pa pb s
  | .vnnz f mk rd pa pb => Sys2Proof.Machine.execVnnz f mk rd pa pb s
  | .vld wd mk pd rs => Sys2Proof.Machine.execVld wd mk pd rs s
  | .vst wd mk o pd rs => Sys2Proof.Machine.execVst wd mk o pd rs s
  | .vupd op f mk o pd rs => Sys2Proof.Machine.execVupd op f mk o pd rs s
  | .vgath wd mk pd pa rt => Sys2Proof.Machine.execVgath wd mk pd pa rt s
  | .vscat wd mk o pd pa rt => Sys2Proof.Machine.execVscat wd mk o pd pa rt s
  | .pset p rs => Sys2Proof.Machine.execPset p rs s
  | .pget rd p => Sys2Proof.Machine.execPget rd p s
  | .padd p rs => Sys2Proof.Machine.execPadd p rs s
  | .vcvt src dst r mk pd pa => Sys2Proof.Machine.execVcvt src dst r mk pd pa s
  | .cvt src dst r rd rs => Sys2Proof.Machine.execCvt src dst r rd rs s
  | .cvtToF64 src r rd rs => Sys2Proof.Machine.execCvtToF64 src r rd rs s
  | .cvtFromF64 dst r rd rs => Sys2Proof.Machine.execCvtFromF64 dst r rd rs s
  | .vexp2 f mk pd pa => Sys2Proof.Machine.execVexp2 f mk pd pa s
  | .vlog2 f mk pd pa => Sys2Proof.Machine.execVlog2 f mk pd pa s
  | .vrcp f mk pd pa => Sys2Proof.Machine.execVrcp f mk pd pa s
  | .vrsqrt f mk pd pa => Sys2Proof.Machine.execVrsqrt f mk pd pa s
  | .vsin2pi f mk pd pa => Sys2Proof.Machine.execVsin2pi f mk pd pa s
  | .vtanh f mk pd pa => Sys2Proof.Machine.execVtanh f mk pd pa s
  | .oclaim rd rs => Sys2Proof.Machine.execOclaim rd rs s
  | .orel rs rt => Sys2Proof.Machine.execOrel rs rt s
  | .ofill rd rs rt => Sys2Proof.Machine.execOfill rd rs rt s
  | .mlatch f rs => Sys2Proof.Machine.execMlatch f rs s
  | .mstream f rd rs rt => Sys2Proof.Machine.execMstream f rd rs rt s
  | .mdend f rd rs rt => Sys2Proof.Machine.execMdend f rd rs rt s
  | .mcurve rs rt => Sys2Proof.Machine.execMcurve rs rt s
  | .gstart rd rs rt => Sys2Proof.Machine.execGstart rd rs rt s
  | .gadd jd ja jb => Sys2Proof.Machine.execGadd jd ja jb s
  | .gsub jd ja jb => Sys2Proof.Machine.execGsub jd ja jb s
  | .gmul jd ja jb => Sys2Proof.Machine.execGmul jd ja jb s
  | .gand jd ja jb => Sys2Proof.Machine.execGand jd ja jb s
  | .gor jd ja jb => Sys2Proof.Machine.execGor jd ja jb s
  | .gxor jd ja jb => Sys2Proof.Machine.execGxor jd ja jb s
  | .gaddi jd ja imm => Sys2Proof.Machine.execGaddi jd ja imm s
  | .gli jd imm => Sys2Proof.Machine.execGli jd imm s
  | .gshli jd ja imm => Sys2Proof.Machine.execGshli jd ja imm s
  | .gshri jd ja imm => Sys2Proof.Machine.execGshri jd ja imm s
  | .ghash jd ja jb => Sys2Proof.Machine.execGhash jd ja jb s
  | .gldw jd ja imm => Sys2Proof.Machine.execGldw jd ja imm s
  | .gldd jd ja imm => Sys2Proof.Machine.execGldd jd ja imm s
  | .glds jd ja imm => Sys2Proof.Machine.execGlds jd ja imm s
  | .gbeq ja jb off => Sys2Proof.Machine.execGbeq ja jb off s
  | .gbne ja jb off => Sys2Proof.Machine.execGbne ja jb off s
  | .gbltu ja jb off => Sys2Proof.Machine.execGbltu ja jb off s
  | .gjmp imm => Sys2Proof.Machine.execGjmp imm s
  | .gdjnz jd imm => Sys2Proof.Machine.execGdjnz jd imm s
  | .gappg ja n => Sys2Proof.Machine.execGappg ja n s
  | .gapps ja n => Sys2Proof.Machine.execGapps ja n s
  | .gappz n => Sys2Proof.Machine.execGappz n s
  | .gappj ja => Sys2Proof.Machine.execGappj ja s
  | .copy rd rs rt => Sys2Proof.Machine.execCopy rd rs rt s
  | .copym rd rs rt => Sys2Proof.Machine.execCopym rd rs rt s
  | .wbin rd rs rt => Sys2Proof.Machine.execWbin rd rs rt s
  | .wreplay rd rs rt => Sys2Proof.Machine.execWreplay rd rs rt s
  | .wclass rd rs rt => Sys2Proof.Machine.execWclass rd rs rt s
  | .ferry cl tt rd rs rt => Sys2Proof.Machine.execFerry cl tt rd rs rt s
  | .ixred rs rt => Sys2Proof.Machine.execIxred rs rt s
  | .rsend rs rt => Sys2Proof.Machine.execRsend rs rt s
  | .slctlStatus rd rs rt => Sys2Proof.Machine.execSlctlStatus rd rs rt s
  | .slctlAbort rd rs rt => Sys2Proof.Machine.execSlctlAbort rd rs rt s
  | .sluld rs rt => Sys2Proof.Machine.execSluld rs rt s
  | .slugo rs rt => Sys2Proof.Machine.execSlugo rs rt s
  | .sluwt rs => Sys2Proof.Machine.execSluwt rs s
  | .slurd rd rs => Sys2Proof.Machine.execSlurd rd rs s
  | .tkset rs => Sys2Proof.Machine.execTkset rs s
  | .tkclr rs => Sys2Proof.Machine.execTkclr rs s
  | .ovswap rs rt => Sys2Proof.Machine.execOvswap rs rt s
  | .sluNop u => Sys2Proof.Machine.execSluNop u s
  | .rld u => Sys2Proof.Machine.execRld u s
  | .rst u => Sys2Proof.Machine.execRst u s
  | .sluVadd u => Sys2Proof.Machine.execSluVadd u s
  | .vmuls u => Sys2Proof.Machine.execVmuls u s
  | .vfmas u => Sys2Proof.Machine.execVfmas u s
  | .pinc u => Sys2Proof.Machine.execPinc u s
  | .sluLoop u => Sys2Proof.Machine.execSluLoop u s
  | .sluEnd u => Sys2Proof.Machine.execSluEnd u s
  | .tissue rd rs rt => Sys2Proof.Machine.execTissue rd rs rt s
  | .trap code sub faddr => Sys2Proof.Machine.execTrap code sub faddr s
  | .srd rd n => Sys2Proof.Machine.execSrd rd n s
  | .swr n rd => Sys2Proof.Machine.execSwr n rd s
  | .ctxsw rd rs rt => Sys2Proof.Machine.execCtxsw rd rs rt s
  | .xinvPage rd rs rt => Sys2Proof.Machine.execXinvPage rd rs rt s
  | .xinvContext rd rs rt => Sys2Proof.Machine.execXinvContext rd rs rt s
  | .xinvRange rd rs rt => Sys2Proof.Machine.execXinvRange rd rs rt s
  | .xinvAll rd rs rt => Sys2Proof.Machine.execXinvAll rd rs rt s
  | .savectx rd rs rt => Sys2Proof.Machine.execSavectx rd rs rt s
  | .loadctx rd rs rt => Sys2Proof.Machine.execLoadctx rd rs rt s
  | .ret => Sys2Proof.Machine.execRet s
  | .exit => Sys2Proof.Machine.execExit s
  | .nop => Sys2Proof.Machine.execNop s
  | .ldnbComplete => Sys2Proof.Machine.execLdnbComplete s
  | .sheafInsert => Sys2Proof.Machine.execSheafInsert s
  | .waiterRetry => Sys2Proof.Machine.execWaiterRetry s
  | .waitListPoll => Sys2Proof.Machine.execWaitListPoll s
  | .releaseComplete => Sys2Proof.Machine.execReleaseComplete s
  | .vloadComplete => Sys2Proof.Machine.execVloadComplete s
  | .vectorBeat => Sys2Proof.Machine.execVectorBeat s
  | .arrayQueueHead => Sys2Proof.Machine.execArrayQueueHead s
  | .rowEntry => Sys2Proof.Machine.execRowEntry s
  | .rowReady => Sys2Proof.Machine.execRowReady s
  | .rowHandlerDispatch => Sys2Proof.Machine.execRowHandlerDispatch s
  | .rowdone => Sys2Proof.Machine.execRowdone s
  | .gnop => Sys2Proof.Machine.execGnop s
  | .gend => Sys2Proof.Machine.execGend s
  | .copyComplete => Sys2Proof.Machine.execCopyComplete s
  | .copymMemberAnswer => Sys2Proof.Machine.execCopymMemberAnswer s
  | .winnowComplete => Sys2Proof.Machine.execWinnowComplete s
  | .engineFault => Sys2Proof.Machine.execEngineFault s
  | .ferryRetransmit => Sys2Proof.Machine.execFerryRetransmit s
  | .ferryReply => Sys2Proof.Machine.execFerryReply s
  | .ferryCallArrive => Sys2Proof.Machine.execFerryCallArrive s
  | .ferrySlotDispatch => Sys2Proof.Machine.execFerrySlotDispatch s
  | .ixredExecute => Sys2Proof.Machine.execIxredExecute s
  | .rsendReply => Sys2Proof.Machine.execRsendReply s
  | .reedDispatch => Sys2Proof.Machine.execReedDispatch s
  | .tkend => Sys2Proof.Machine.execTkend s
  | .sluiceWindow => Sys2Proof.Machine.execSluiceWindow s
  | .sluiceResume => Sys2Proof.Machine.execSluiceResume s
  | .recordStart => Sys2Proof.Machine.execRecordStart s
  | .tileClaim => Sys2Proof.Machine.execTileClaim s
  | .tileComplete => Sys2Proof.Machine.execTileComplete s
  | .tileFaultRollup => Sys2Proof.Machine.execTileFaultRollup s
  | .recordComplete => Sys2Proof.Machine.execRecordComplete s
  | .tissueComplete => Sys2Proof.Machine.execTissueComplete s
  | .recordForward => Sys2Proof.Machine.execRecordForward s
  | .runMerge => Sys2Proof.Machine.execRunMerge s
  | .entryAgeTimeout => Sys2Proof.Machine.execEntryAgeTimeout s
  | .admitUpdate => Sys2Proof.Machine.execAdmitUpdate s
  | .doneRingPass => Sys2Proof.Machine.execDoneRingPass s
  | .peerStreamArrive => Sys2Proof.Machine.execPeerStreamArrive s
  | .faultRecordDelivery => Sys2Proof.Machine.execFaultRecordDelivery s
  | .faultRecordWrite => Sys2Proof.Machine.execFaultRecordWrite s
  | .containment => Sys2Proof.Machine.execContainment s
  | .tret => Sys2Proof.Machine.execTret s
  | .contextSwitch => Sys2Proof.Machine.execContextSwitch s
  | .pageWalk => Sys2Proof.Machine.execPageWalk s
  | .qctlStart => Sys2Proof.Machine.execQctlStart s
  | .qctlStop => Sys2Proof.Machine.execQctlStop s
  | .devrcbWrite => Sys2Proof.Machine.execDevrcbWrite s
  | .cellstoreWrite => Sys2Proof.Machine.execCellstoreWrite s
  | .pdiesWrite => Sys2Proof.Machine.execPdiesWrite s
  | .queueSeqTake => Sys2Proof.Machine.execQueueSeqTake s
  | .cmdLaunch => Sys2Proof.Machine.execCmdLaunch s
  | .cmdCopy => Sys2Proof.Machine.execCmdCopy s
  | .cmdTask => Sys2Proof.Machine.execCmdTask s
  | .cmdSend => Sys2Proof.Machine.execCmdSend s
  | .cmdMark => Sys2Proof.Machine.execCmdMark s
  | .tokenPoll => Sys2Proof.Machine.execTokenPoll s
  | .entryCompleteSignal => Sys2Proof.Machine.execEntryCompleteSignal s
  | .recordTake => Sys2Proof.Machine.execRecordTake s
  | .launchAccept => Sys2Proof.Machine.execLaunchAccept s
  | .groupPlace => Sys2Proof.Machine.execGroupPlace s
  | .agingTick => Sys2Proof.Machine.execAgingTick s
  | .launchComplete => Sys2Proof.Machine.execLaunchComplete s
  | .watchdogExpire => Sys2Proof.Machine.execWatchdogExpire s
  | .spareCluster => Sys2Proof.Machine.execSpareCluster s
  | .reserveCluster => Sys2Proof.Machine.execReserveCluster s
  | .releaseCluster => Sys2Proof.Machine.execReleaseCluster s
  | .retirePseudoChannel => Sys2Proof.Machine.execRetirePseudoChannel s
  | .spareApplicationCore => Sys2Proof.Machine.execSpareApplicationCore s
  | .laneFailure => Sys2Proof.Machine.execLaneFailure s
  | .crcRetry => Sys2Proof.Machine.execCrcRetry s
  | .eccError => Sys2Proof.Machine.execEccError s
  | .poisonConsumed => Sys2Proof.Machine.execPoisonConsumed s
  | .portRetrain => Sys2Proof.Machine.execPortRetrain s
  | .bar2Write => Sys2Proof.Machine.execBar2Write s
  | .bar2Read => Sys2Proof.Machine.execBar2Read s
  | .feaddr => Sys2Proof.Machine.execFeaddr s
  | .fedata => Sys2Proof.Machine.execFedata s
  | .attreq => Sys2Proof.Machine.execAttreq s
  | .sysWindowAccess => Sys2Proof.Machine.execSysWindowAccess s
  | .hostUpdate => Sys2Proof.Machine.execHostUpdate s
  | .reset => Sys2Proof.Machine.execReset s
  | .bootStage1 => Sys2Proof.Machine.execBootStage1 s
  | .bootStage2 => Sys2Proof.Machine.execBootStage2 s
  | .governorTick => Sys2Proof.Machine.execGovernorTick s
  | .thermalHalve => Sys2Proof.Machine.execThermalHalve s
  | .thermalTrip => Sys2Proof.Machine.execThermalTrip s
  | .reedMessageArrive => Sys2Proof.Machine.execReedMessageArrive s
  | .peerAnswer => Sys2Proof.Machine.execPeerAnswer s
  | .powerLoss => Sys2Proof.Machine.execPowerLoss s

end Sys2Proof.Machine
end

