-- ==== Sys2Proof/Machine/Turn.lean ====
section
/-!
DEFINITION. Turn.lean: one turn of each agent: a thread's issue (R26, R141, R253, R329), a Reed core's (R268), a Gleaner's (R245,
R247, R248), a Sluice unit's (R273), the passing of clk (R5, R347), what the granary and the host do by themselves (R99, R371), and
how the host's test places a program (log 7).
-/
namespace Sys2Proof.Machine
open Sys2Proof

/-! ### Units the package has (R1, R2, R47) -/

def slotExists (ti : SlotId) : Bool :=
  decide (ti.die < 8) && decide (ti.clu < 96) && decide (ti.ctx < 2) && decide (ti.core < 4) && decide (ti.slot < 16)

def EvArgsExist (e : EvArgs) : Bool :=
  decide (e.p < 8) && decide (e.die < 8) && decide (e.clu < 96) && decide (e.ctx < 2) && decide (e.core < 4) && slotExists e.ti

/-- Does the package have the agent? -/
def agentExists : Agent → Bool
  | .thread ti => slotExists ti
  | .reed q => decide (q < 512)
  | .gleaner d c => decide (d < 8) && decide (c < 96)
  | .sluice q g => decide (q < 512) && decide (g < 4)
  | .event _ e => EvArgsExist e
  | .clk _ => true
  | .granaryDrop d _ => decide (d < 8)
  | .hostWrite a _ => decide (a < 5 * 2 ^ 44)

/-! ### A thread (R26) -/

/-- Run an event. -/
def runEvent (i : Instr) (e : EvArgs) (s : State) : Out := exec i { s with cur := ⟨.event i e, 0#64, 0, e⟩ }

/-- Does an instruction only transfer control, so that it may complete and leave everything as it was? -/
def transfers : Instr → Bool
  | .beq .. | .bne .. | .blt .. | .bge .. | .bltu .. | .bgeu .. | .jmp _ | .jr _ => true
  | _ => false

/-- The issue of a group's thread, from s to t, resets its watchdog (R347). An instruction that is not ready, or that waits and is tried again,
issues nothing: it leaves the thread and its group as they were, or had begun before. -/
def State.markIssue (s t : State) (ti : SlotId) (i : Instr) : State :=
  let g := (s.thr ti).grp
  if (s.thr ti).ph = Phase.zero ∧ (t.thr ti ≠ s.thr ti ∨ t.grp g ≠ s.grp g ∨ transfers i = true) then t.modGrp g fun x => { x with issued := true } else t

/-- The state in which an instruction of `len` bytes at `addr` is the one at issue. -/
def State.at (s : State) (who : Agent) (addr : W64) (len : Nat) : State := { s with cur := ⟨who, addr, len, EvArgs.zero⟩ }

/-- The word n halfwords after an address. -/
def wordAt (a : W64) (n : Nat) : W64 := a + BitVec.ofNat 64 (2 * n)

/-- What a thread decodes at its pc (R141). -/
def State.fetchDecode (s : State) (ti : SlotId) : DecR :=
  decode ⟨false, !(s.thr ti).sup⟩ fun n => s.fetchWord ti (wordAt (s.thr ti).pc n)

/-- What follows a next state. -/
def Out.mapNext (o : Out) (f : State → State) : Out := match o with | .next t => .next (f t) | x => x

/-- Fetch, decode and execute (R141, R142, R320). -/
def issueThread (ti : SlotId) (s : State) : Out :=
  let pc := (s.thr ti).pc
  match s.fetchDecode ti with
  | .ok i len =>
    let s' := s.at (.thread ti) pc len
    let i' := select i s'
    if !s'.readyFor ti i' then .next s'
    else if (s'.thr ti).readsPoison i' then .next (s'.consume ti sramPa)
    else Out.mapNext (exec i' (s'.icacheFill ti pc len)) fun t => s'.markIssue t ti i'
  | .illegal => exec (.trap tIllegal 0 pc) (s.at (.thread ti) pc 0)
  | .privileged => exec (.trap tPriv 0 pc) (s.at (.thread ti) pc 0)
  | .fetchFault n => exec (.trap tFetch 0 (wordAt pc n)) (s.at (.thread ti) pc 0)
  | .fetchWait n => .next ((s.at (.thread ti) pc 0).fetchWait ti (wordAt pc n))

/-- Has an engine operation of the thread stopped with a fault whose record is still to be written (R253, R327)? The thread takes it
before it issues again, unless it is in a handler. -/
def State.engPending (s : State) (ti : SlotId) : Bool :=
  !(s.thr ti).inTrap && s.ctxs.any fun x => x.2.recq.any fun r => r.ti.isSome && r.uid == (s.thr ti).uid

/-- A thread's turn (R26): a fault that is due at the boundary goes first (R253, R329). -/
def turnThread (ti : SlotId) (s : State) : Out :=
  if !s.canTurn ti then .next s
  else match (if s.mayTake ti then s.nextDue ti else none) with
    | some (k, _) => runEvent (if k = tEng then .engineFault else .faultRecordDelivery) { EvArgs.zero with ti := ti } s
    | none => if (s.thr ti).wait ≠ .no ∨ (s.engPending ti = true ∧ s.answered ti = false) then .next s else issueThread ti s

/-! ### Reed cores, Gleaners, Sluice units -/

/-- What a Reed core decodes at its pc (R268). -/
def Reed.fetchDecode (r : Reed) : DecR := decode ⟨true, false⟩ fun n => r.fetchWord (wordAt r.pc n)

/-- A Reed core's turn (R268). IXRED's built-in task has no code (R272). -/
def turnReed (q : Nat) (s : State) : Out :=
  let r := s.reed q
  match r.task with
  | none => .next s
  | some m =>
    if m.chan = 14 then .next s
    else match r.fetchDecode with
      | .ok i len => exec i (s.at (.reed q) r.pc len)
      | .illegal => exec (.trap tIllegal 0 r.pc) (s.at (.reed q) r.pc 0)
      | .privileged => exec (.trap tPriv 0 r.pc) (s.at (.reed q) r.pc 0)
      | .fetchFault n => exec (.trap tFetch 0 (wordAt r.pc n)) (s.at (.reed q) r.pc 0)
      | .fetchWait _ => .next s

/-- A Gleaner's turn (R245, R248). A job whose thread is gone is dropped with it (R37). -/
def turnGleaner (d c : Nat) (s : State) : Out :=
  let s := s.at (.gleaner d c) 0#64 0
  match s.gJob with
  | none => .next s
  | some x =>
    if (s.thr x.ti).uid ≠ x.uid ∨ (s.thr x.ti).halted = true then .next (s.setGJob none)
    else match decodeGleaner (x.store.getD x.pc 0) with
      | some i => exec i s
      | none => gBad s

/-- A Sluice unit's turn: one micro-op, unless its window is open or it is suspended (R273, R274); before a row step it looks for requests
(R309). -/
def turnSluice (q g : Nat) (s : State) : Out :=
  let s := s.at (.sluice q g) 0#64 0
  let u := s.unit
  if !u.busy || u.susp || u.win then .next s
  else if s.looksNow q g then .next (s.findAsked q g)
  else match decodeSluice (u.prog.getD u.upc 0) with
    | some i => exec i s
    | none => .next (s.setSlu (u.stop 1))

/-! ### Time, the granary, the host -/

/-- A group's watchdog over n clk (R347; log 75): it stays at 0 while a thread is out of the rotation for an engine or a row handler; an issue
takes up the first of the n clk; the others count while the context rotates and no thread of the group is in a handler. -/
def State.wdGroup (s : State) (n gid : Nat) (g : Group) : Group :=
  let on (x : SlotId × Thread) : Bool := x.1.die == g.die && x.1.clu == g.clu && x.1.ctx == g.ctx && x.2.live
  let ts := (s.slots.filter fun x => on x && g.slots.contains x.1).map Prod.snd
  -- the group's row handlers run in it too (R237)
  let hs := (s.slots.filter fun x => on x && x.2.kind == .rowH && x.2.grp == gid).map Prod.snd
  let ti : SlotId := ⟨g.die, g.clu, g.ctx, 0, g.row⟩
  let counts := s.rotating ti && !(s.cx ti).halted && (ts ++ hs).all fun t => !t.inTrap
  if g.ended || n == 0 then g
  else if ts.any fun t => t.wait == .engine then { g with wd := 0, issued := false }
  else
    let idle := if g.issued then n - 1 else n
    { g with wd := (if g.issued then 0 else g.wd) + (if counts then idle else 0), issued := false }

/-- n clk pass. (log 6) -/
def State.pass (s : State) (n : Nat) : State :=
  { s with clk := s.clk + n, groups := s.groups.map fun x => (x.1, s.wdGroup n x.1 x.2) }

/-- The granary of a die replaces a line (R99), or with line + (c + 1) · 2^64 the instruction cache of its cluster c does (R144; log 10). -/
def State.granaryDrop (s : State) (d line : Nat) : State :=
  if line < 2 ^ 64 then s.setDie d { s.die d with granary := (s.die d).granary.filter fun g => g.line != line }
  else
    let c := line / 2 ^ 64 - 1
    s.setCluster d c { s.cluster d c with icache := (s.cluster d c).icache.filter fun w => w.1 / 64 != line % 2 ^ 64 }

/-- Does an agent live outside the compute dies: on the Steading die, in the host, or in the fabric? -/
def offDie : Agent → Bool
  | .event i _ => [Instr.reset, .powerLoss, .governorTick, .thermalHalve, .thermalTrip, .bootStage1, .bootStage2, .feaddr, .fedata, .attreq, .bar2Read,
      .bar2Write, .sysWindowAccess, .hostUpdate, .laneFailure, .crcRetry, .portRetrain].contains i
  | .clk _ => true
  | .hostWrite _ _ => true
  | _ => false

/-- What may move before the part is up, or in recovery: the boot itself, BAR0 of the endpoint, power and cooling, time and the host (R378). -/
def earlyAgent : Agent → Bool
  | .event i _ => [Instr.reset, .powerLoss, .governorTick, .thermalHalve, .thermalTrip, .bootStage1, .bootStage2, .feaddr, .fedata, .bar2Read, .bar2Write].contains i
  | .clk _ => true
  | .hostWrite _ _ => true
  | _ => false

/-- May the agent move? At reset only the boot ROM runs, then the stages, and in recovery only BAR0 is exposed (R378); after a thermal trip the
compute dies are held in reset (R382; log 66). -/
def State.mayMove (s : State) (a : Agent) : Bool :=
  match s.boot with | .up => true | .tripped => offDie a | _ => earlyAgent a

/-- One turn. -/
def turn (a : Agent) (s : State) : Out :=
  if !agentExists a then .fault .noSuchUnit
  else if !s.mayMove a then .next s
  else match a with
    | .thread ti => turnThread ti s
    | .reed q => turnReed q s
    | .gleaner d c => turnGleaner d c s
    | .sluice q g => turnSluice q g s
    | .event i e => runEvent i e s
    | .clk n => .next (s.pass n)
    | .granaryDrop d l => .next (s.granaryDrop d l)
    | .hostWrite a b => .next (s.hostWriteB a [b])

/-! ### The host's test (log 7) -/

/-- Where the test's code stands. -/
def testVa : Nat := 0x100000
def testSlot : SlotId := ⟨0, 0, 0, 0, 0⟩

/-- The 16-bit words of a row as the part stores them: the PAGE word before the base word. -/
def tableWords (nbits w : Nat) : List Nat := if nbits ≤ 16 then [nfld w 0 16] else [nfld w 16 16, nfld w 0 16]

def halfBytes (ws : List Nat) : List Byte := ws.flatMap fun w => leBytes 2 w

/-- A group of one thread on cluster 0 of die 0, and its launch. -/
def testGroup : Group :=
  { launch := 1, gi := 0, die := 0, clu := 0, ctx := 0, row := 0, n := 1, spBase := 0, spSize := 0x10000
    opPhys := [0, 1], claimed := [0], live := [0], ended := false, contained := false, contains := false
    barArr := [], barRel := [], barps := [], barpRel := [], wd := 0, issued := false }
def testLaunch : Launch :=
  { p := 0, ctx := 0, rcb := none, tmpl := none, tag := 0, parent := none, entry := BitVec.ofNat 64 testVa, args := 0#64
    groups := 1, size := 1, rowh := false, prio := 0, contain := false, gcontain := false, det := false, cohort := false
    place := 0, pDie := 0, pClu := 0, narrow := false, wide := false, dies := 1, spGroup := 0x10000, opGroup := 2
    slotBud := 1, spBud := 0x10000, opBud := 2, domain := 0, quota := 0, qtag := 0, next := 1, done := 0, state := 2
    accAt := 0, origin := .record 0 0 0, endQ := [], seen := 0 }

/-- A thread at the code, which an identity range entry maps. -/
def placeThread (s : State) (ws : List Nat) (sup : Bool) : State :=
  let e : RangeE := ⟨0xF#64, 0xFFF000#64, 0#64, 0xFF#64⟩
  let s := s.setDie 0 { s.die 0 with ranges := [((0, 0), e)] }
  let s := s.setThr testSlot { Thread.zero with live := true, grp := 2, uid := 3, pc := BitVec.ofNat 64 testVa, sup := sup }
  let s : State := { s with groups := [(2, testGroup)], launches := [(1, testLaunch)], fresh := 4
                            mem := s.mem.writeN (linOfInter testVa) (halfBytes ws) }
  { s with agenda := [.thread testSlot], boot := .up }

/-- A Reed task at the code, in overlay 0. -/
def placeReed (s : State) (ws : List Nat) : State :=
  let m : Msg := { kind := 1, q := 0, chan := 0, src := 0, ctx := 0, id := 0, entry := 0, pay := [], ti := none, uid := 0, qent := none, first := 0#64, tile := none }
  let bs := halfBytes ws
  { s.setReed 0 { Reed.zero with ov0 := some (bs ++ List.replicate (4096 - bs.length) 0#8), task := some m, table := lset Reed.zero.table 0 (2 ^ 17) }
    with agenda := [.reed 0], boot := .up }

/-- A Gleaner job whose program is the word and GEND. -/
def placeGleaner (s : State) (w : Nat) : State :=
  let s := placeThread s [] false
  let s := s.modThr testSlot fun t => { t with wait := .engine }
  let x : GJob := { id := 4, ti := testSlot, uid := 3, grp := 2, rd := 3, block := 0, first := BitVec.ofNat 64 testVa, store := [w % 2 ^ 32, 0x18 * 2 ^ 26]
                    j := Vector.replicate 16 0#64, pc := 0, plen := 2, outslot := 0, nslot := 1, off := 0, rows := 0#64 }
  { s.setCluster 0 0 { s.cluster 0 0 with gleaner := [x] } with agenda := [.gleaner 0 0] }

/-- Place a row's word where the next step fetches it. -/
def placeWord (s : State) (nbits w : Nat) : State :=
  if 16 < nbits ∧ nfld w 27 5 ≠ 0x1F then placeGleaner s w
  else if 16 < nbits ∧ nfld w 16 16 = 0xFC07 then placeReed s (tableWords nbits w)
  else placeThread s (tableWords nbits w) (decide (16 < nbits) && nfld w 16 16 == 0xFC06)

end Sys2Proof.Machine
end

