-- ==== Sys2Proof/Machine/Step.lean ====
section
/-!
DEFINITION. Step.lean: one step of the machine: the agent at the head of the agenda moves; with an empty agenda the next boot stage
runs, and after it the part's own choice (log 1).
-/
namespace Sys2Proof.Machine
open Sys2Proof

/-- One step. -/
def step (s : State) : Host.Outcome State Fault Refusal :=
  match s.agenda with
  | a :: rest => turn a { s with agenda := rest }
  | [] =>
    match s.boot with
    | .rom => runEvent .reset EvArgs.zero s
    | .stage1 => runEvent .bootStage1 EvArgs.zero s
    | .stage2 => runEvent .bootStage2 { EvArgs.zero with wr := Config.bootWrites, ws := Config.bootLanes } s
    | _ =>
      match Config.choose s.turns with
      | some a => turn a { s with turns := s.turns + 1 }
      | none => .next { s with turns := s.turns + 1 }

/-- The state with an instruction stored where the next step fetches (log 7). -/
def State.withFetchWord (s : State) (nbits w : Nat) : State := placeWord s nbits w

end Sys2Proof.Machine
end

