-- ==== Sys2Proof/Safety.lean ====
section
/-!
DEFINITION. Safety.lean: the terms the statements are made in: the machine's invariant, what an instruction leaves unchanged, and who
issues.
-/
namespace Sys2Proof.Machine
open Sys2Proof

/-- The invariant of the machine's plain data: device memory stands in its canonical form. -/
def State.Inv (s : State) : Prop := Memory.wf s.mem = true

/-- Thread `ti` of a cluster issues. -/
def State.issues (s : State) (ti : SlotId) : Prop := s.cur.who = .thread ti

/-- The value of a register place: a physical register (0 to 127), or 128 + i for hi (R54, R178). -/
def Thread.atPlace (t : Thread) (pl : Nat) : W64 := if pl < 128 then vget t.phys pl else vget t.h (pl - 128)

/-- A thread without its registers w and h and their poison, its place in the program and its loop counts. -/
def Thread.still (t : Thread) : Thread :=
  { t with phys := Thread.zero.phys, h := Thread.zero.h, rpois := [], pc := 0#64, lc0 := 0#64, lc1 := 0#64, ph := Phase.zero, wait := .no }

/-- Nothing but the slot of thread `ti` has changed: no byte of memory, no other unit, no other thread. -/
structure OnlyThread (ti : SlotId) (s t : State) : Prop where
  rest   : t = { s with slots := t.slots }
  others : ∀ tj, tj ≠ ti → t.thr tj = s.thr tj
  mem    : ∀ a, t.mem.read a = s.mem.read a

/-- A register-only instruction of thread `ti`: besides OnlyThread, every register place but `rds` keeps its value, and so do the
pointers, vl, the loop addresses, the flags, the window, the counters, the trap registers and the level. -/
structure RegFrame (ti : SlotId) (rds : List Reg) (s t : State) : Prop where
  only  : OnlyThread ti s t
  regs  : ∀ pl, pl < 136 → pl ∉ rds.map (s.thr ti).place → (t.thr ti).atPlace pl = (s.thr ti).atPlace pl
  clean : ∀ pl, pl ∉ rds.map (s.thr ti).place → (pl ∈ (t.thr ti).rpois ↔ pl ∈ (s.thr ti).rpois)
  still : (t.thr ti).still = (s.thr ti).still

/-- Thread `ti` issues an access of n bytes at `ea` that passes the checks of R175: the key is `pa`, in device memory, `s1` keeps the
translation, and no operation of the thread's own still works on the word (R109). -/
structure DramAccess (s : State) (ti : SlotId) (ea : W64) (n : Nat) (k : Need) (sub : Nat) (pa : Nat) (s1 : State) : Prop where
  issues : s.issues ti
  key    : ∃ lin, s.keyAt ea n k sub = .ok (⟨pa, .dram lin⟩, s1)
  free   : s1.busyWords ti [wordOf pa] = false

/-- Thread `ti` issues an access of n bytes of scratchpad at `ea` that passes the checks of R32 and R175. -/
structure SpAccess (s : State) (ti : SlotId) (ea : W64) (n : Nat) : Prop where
  issues  : s.issues ti
  aligned : ea.toNat % n = 0
  low     : ea.toNat < 2 ^ 32
  valid   : s.spBad (s.thr ti).grp ea.toNat n = none

/-- A load of thread `ti`: its registers `rds` may change, with the granary, the translation caches and the note that a class-0 request
waits for a Sluice unit (R274); nothing else does. -/
structure LoadFrame (ti : SlotId) (rds : List Reg) (s t : State) : Prop where
  rest   : t = { s with slots := t.slots, dies := t.dies, clusters := t.clusters, asked := t.asked }
  sent   : ∀ d, (t.die d).sent = (s.die d).sent
  others : ∀ tj, tj ≠ ti → t.thr tj = s.thr tj
  mem    : ∀ a, t.mem.read a = s.mem.read a
  regs   : ∀ pl, pl < 136 → pl ∉ rds.map (s.thr ti).place → (t.thr ti).atPlace pl = (s.thr ti).atPlace pl
  clean  : ∀ pl, pl ∉ rds.map (s.thr ti).place → (pl ∈ (t.thr ti).rpois ↔ pl ∈ (s.thr ti).rpois)
  still  : (t.thr ti).still = (s.thr ti).still

/-- The bytes that stand at an address of device memory, as one number, and nothing above them: no entry of the word on the path, no
cell, no poison, no line. -/
structure Plain (s : State) (p : Path) (w : Nat) : Prop where
  path  : s.pathEnts p w = []
  home  : s.runEnts (.rick (homeOf w)) w = []
  held  : s.heldOn p w = []
  cells : s.cellsAt (wordLin w) = []
  clean : s.isPoison (wordLin w) = false
  line  : s.granHit p w = none

/-- Two scratchpad operands of a vector instruction share no byte. -/
def VOp.apart (a d : VOp) (vl : Nat) : Prop := a.addr + a.kind.size vl ≤ d.addr ∨ d.addr + d.kind.size vl ≤ a.addr

/-- A vector instruction of thread `ti` has completed: the registers `rds`, the pointers by their post-increments, the flags and the
bytes of the destinations `ds` may have changed; the core's vector unit is held; nothing else has changed. -/
structure VectorDone (ti : SlotId) (rds : List Reg) (bumps : List (PtrOp × VKind)) (ds : List VOp) (s t : State) : Prop where
  rest    : t = { s with slots := t.slots, halves := t.halves, vunit := t.vunit }
  others  : ∀ tj, tj ≠ ti → t.thr tj = s.thr tj
  pc      : (t.thr ti).pc = ((s.thr ti).fallThrough s.cur.addr s.cur.len).pc
  regs    : ∀ pl, pl < 136 → pl ∉ rds.map (s.thr ti).place → (t.thr ti).atPlace pl = (s.thr ti).atPlace pl
  clean   : ∀ pl, pl ∉ rds.map (s.thr ti).place → (pl ∈ (t.thr ti).rpois ↔ pl ∈ (s.thr ti).rpois)
  ptrs    : (t.thr ti).p = (bumps.foldl (fun x b => x.bump b.1 b.2) (s.thr ti)).p
  still   : (t.thr ti).still = { (s.thr ti).still with flags := (t.thr ti).flags, p := (t.thr ti).p }
  outside : ∀ v, v < 2 ^ 32 → s.spBad (s.thr ti).grp v 1 = none →
    (∀ d ∈ ds, v < d.addr ∨ d.addr + d.kind.size (s.thr ti).vl.toNat ≤ v) → t.spRead (s.thr ti).grp v 1 = s.spRead (s.thr ti).grp v 1
  held    : (aget? t.vunit (coreKey ti)).map (·.ti) = some ti

/-- Every unmasked element i of `d` holds the low n bytes of `g i`, every masked one is as before, and the flags have collected
those of the unmasked elements (R198, R199, R204). -/
structure VectorMap (ti : SlotId) (mk : Bool) (d : VOp) (n : Nat) (g : Nat → Nat × Flags) (s t : State) : Prop where
  elems : ∀ i, i < (s.thr ti).vl.toNat → t.elem d n i = if s.unmasked mk i then (g i).1 % 2 ^ (8 * n) else s.elem d n i
  flags : (t.thr ti).flags = (List.range (s.thr ti).vl.toNat).foldl (fun fl i => if s.unmasked mk i then fl ||| (g i).2 else fl) (s.thr ti).flags

/-- A sparse byte table in its order: addresses strictly rising. -/
def SortedBytes (m : List (Nat × Byte)) : Prop := m.Pairwise fun x y => x.1 < y.1

/-- A thread by its core. -/
structure ThreadKey where
  die  : Nat
  clu  : Nat
  core : Nat

/-- Nothing on the thread's path stands short of the barn for word w, and nothing is held there (R101, R105). -/
def ThreadKey.quiet (k : ThreadKey) (s : State) (w : Nat) : Prop :=
  s.pathLeft k.die k.clu k.core w = false ∧ s.heldPath k.die k.clu k.core w = false

end Sys2Proof.Machine
end

