-- ==== Sys2Proof/WellFormed.lean ====
section
/-!
DEFINITION. WellFormed.lean: the instructions that some words encode, by the bounds of R132 to R140, R153, R176, R195, R203,
R215, R221, R248, R254, R263 and R273, field by field. `wfZhoru` speaks of pages 0 to 7, `wfGleaner` of the Gleaner's words,
`wfSluice` of the micro-ops; an event is always well formed.
-/
namespace Sys2Proof

/-- A register of the core at hand (R133). -/
def wfReg (reed : Bool) (r : Reg) : Bool := !reed || decide (r.toNat < 16)

/-- The value fits `n` bits and some IMM prefixes, read signed, when `free` prefixes are left (R132, R140). -/
def fitsS (n free : Nat) (v : W64) : Bool := sext64 (n + 9 * free) v.toNat == v && immCountS n v ≤ free
def fitsU (n free : Nat) (v : Nat) : Bool := decide (v < 2 ^ (n + 9 * free)) && immCountU n v ≤ free

/-- How many prefixes R20 leaves for IMM words. -/
def freeImm (pg rg md : Bool) : Nat := 4 - b2n pg - b2n rg - b2n md

/-- An order suffix that R138 and R176 accept. -/
def wfOrd (ok : OrdKind → Bool) (o : Ord) : Bool :=
  (o.ord == .none || ok o.ord) && (o.ord != .none || o.sc == .thread) && (!o.cum || o.ord.isRel)

def needsRg2 (a b : Reg) : Bool := decide (8 ≤ a.toNat) || decide (8 ≤ b.toNat)

/-- Loads, updates and full/empty forms: the offset fits what PAGE, REG and MOD leave (R132, R175, R176). -/
def wfTm (reed : Bool) (var : Nat) (o : Ord) (nb : Bool) (d a : Reg) (off : W64) : Bool :=
  wfReg reed d && wfReg reed a &&
    fitsS 3 (freeImm true (needsRg2 d a || var != 0) (ordMd o nb != 0)) off

def wfI (reed : Bool) (d a : Reg) (m : W64) : Bool := wfReg reed d && wfReg reed a && fitsS 5 (freeImm false (needsRg2 d a) false) m
def wf2 (reed : Bool) (a b : Reg) : Bool := wfReg reed a && wfReg reed b
def wf3 (reed : Bool) (a b c : Reg) : Bool := wfReg reed a && wfReg reed b && wfReg reed c

/-- The instructions of pages 0 to 7 that a core of the given kind decodes (R140, R152). -/
def wfZhoru (reed : Bool) : Instr → Bool
  | .add d a b | .sub d a b | .mul d a b | .mulh d a b | .mulhu d a b | .div d a b | .divu d a b | .rem d a b | .remu d a b
  | .and d a b | .or d a b | .xor d a b | .andn d a b | .shl d a b | .shr d a b | .sar d a b | .ror d a b
  | .slt d a b | .sltu d a b | .seq d a b | .sne d a b | .min d a b | .max d a b | .minu d a b | .maxu d a b
  | .bfx d a b | .bfxu d a b | .bfi d a b => wf3 reed d a b
  | .clz d a | .ctz d a | .popc d a | .brev d a => wf2 reed d a
  | .addi d a m | .andi d a m | .ori d a m | .xori d a m | .slti d a m | .sltiu d a m => wfI reed d a m
  | .shli d a m | .shri d a m | .sari d a m => wf2 reed d a && decide (m.toNat < 64)
  | .li d m => wfReg reed d && fitsS 8 (freeImm false (decide (8 ≤ d.toNat)) false) m
  | .lih d m => wfReg reed d && decide (m.toNat < 2 ^ 32)
  | .beq a b m | .bne a b m | .blt a b m | .bge a b m | .bltu a b m | .bgeu a b m => wfI reed a b m
  | .loop _ c m => !reed && fitsS 5 (freeImm false (decide (8 ≤ c.toNat)) false) m
  | .jmp m => fitsS 11 4 m
  | .call m => !reed && fitsS 11 4 m
  | .jr a => wfReg reed a
  | .nop => true
  | .callr _ | .ret | .svc _ | .exit | .setvl _ | .launch _ _ | .rdstat _ | .wrstat _ | .movfs _ _ => !reed
  | .movts r _ => !reed && r != .vl
  | .ld _ sp nb o d a m => !(reed && (sp || nb)) && !(sp && nb) && wfOrd okAcq o && !o.cum && wfTm reed (2 * b2n sp) o nb d a m
  | .ldS w sp nb o d a m => w != .d && !(reed && (sp || nb)) && !(sp && nb) && wfOrd okAcq o && !o.cum && wfTm reed (2 * b2n sp) o nb d a m
  | .st _ sp o d a m => !(reed && sp) && wfOrd okRel o && wfTm reed (2 * b2n sp + b2n o.cum) o false d a m
  | .iadd _ o d a m | .smin _ o d a m | .smax _ o d a m | .umin _ o d a m | .umax _ o d a m | .andUpdate _ o d a m
  | .orUpdate _ o d a m | .xorUpdate _ o d a m => wfOrd okRel o && wfTm reed (b2n o.cum) o false d a m
  | .fsum _ o d a m | .fmin _ o d a m | .fmax _ o d a m => wfOrd okRel o && wfTm reed (b2n o.cum) o false d a m
  | .fadd64 o d a m => wfOrd okRel o && wfTm reed (b2n o.cum) o false d a m
  | .atom op w bf o d a => atomOk op w bf && wfOrd okAny o && wf2 reed d a
  | .fill sp o d a m | .take sp o d a m | .peek sp o d a m => !(reed && sp) && wfOrd okAny o && wfTm reed (2 * b2n sp + b2n o.cum) o false d a m
  | .empty sp o a m => !(reed && sp) && wfOrd okAny o && wfTm reed (2 * b2n sp + b2n o.cum) o false 0#5 a m
  | .fence o => o.ord != .none && wfOrd okAny o
  | .settle sc => sc != .thread
  | .mresolveRetry _ _ | .mresolveDrop _ _ | .mresolveCommit _ _ => !reed
  | .wait nb d _ => !reed && (nb || d == 0#5)
  | .bar o | .barp o _ _ => !reed && wfOrd okAr o && barScope o
  | .chpush o _ _ => !reed && wfOrd okRel o
  | .chpop o d a => !reed && wfOrd okAcq o && !o.cum && d != a
  | .vadd f r _ a b c | .vsub f r _ a b c | .vmul f r _ a b c | .vfma f r _ a b c =>
      !reed && f.arith && (r == .rne || rndArith f r) && ptrs3 a b c
  | .vmin f _ a b c | .vmax f _ a b c | .vcmpeq f _ a b c | .vcmpne f _ a b c | .vcmplt f _ a b c | .vcmple f _ a b c =>
      !reed && f.arith && ptrs3 a b c
  | .vabs f r _ a b | .vneg f r _ a b => !reed && f.arith && (r == .rne || rndInt f r) && ptrs2 a b
  | .vand f _ a b c | .vor f _ a b c | .vxor f _ a b c => !reed && f.isInt && ptrs3 a b c
  | .vshl f r _ a b c => !reed && f.isInt && (r == .rne || rndInt f r) && ptrs3 a b c
  | .vsum f r _ _ _ => !reed && f.arith && (r == .rne || rndSum f r)
  | .vmaxr f _ _ _ => !reed && f.arith
  | .vscan f r _ a b => !reed && f.arith && (r == .rne || rndArith f r) && ptrs2 a b
  | .vdot f r _ _ a b => !reed && f.arith && (r == .rne || rndSum f r) && ptrs2 a b
  | .vfill f _ _ _ => !reed && f.notQ
  | .vcopy _ _ a b => !reed && ptrs2 a b
  | .vsel f a b c => !reed && f.notQ && ptrs3 a b c
  | .vnnz _ _ _ a b => !reed && ptrs2 a b
  | .vld _ _ _ _ => !reed
  | .vst _ _ o _ _ => !reed && wfOrd okRel o && !o.cum
  | .vupd op f _ o _ _ => !reed && vupdOk op f && wfOrd okRel o && !o.cum
  | .vgath _ _ a b _ => !reed && ptrs2 a b
  | .vscat _ _ o a b _ => !reed && ptrs2 a b && wfOrd okRel o && !o.cum
  | .pset _ _ | .pget _ _ | .padd _ _ => !reed
  | .vcvt src dst _ _ a b => !reed && src != dst && ptrs2 a b
  | .cvt src dst _ _ _ => !reed && src != dst && src.notQ && dst.notQ
  | .cvtToF64 f _ _ _ | .cvtFromF64 f _ _ _ => !reed && f.notQ
  | .vexp2 f _ a b | .vlog2 f _ a b | .vrcp f _ a b | .vrsqrt f _ a b | .vsin2pi f _ a b | .vtanh f _ a b =>
      !reed && f.isFloat && ptrs2 a b
  | .oclaim _ _ | .orel _ _ | .ofill _ _ _ | .mcurve _ _ | .rowdone | .gstart _ _ _ => !reed
  | .mlatch f _ => !reed && f.weight
  | .mstream f _ _ _ | .mdend f _ _ _ => !reed && f.activ
  | .copy d _ _ | .copym d _ _ => !reed && evenW d
  | .wbin _ _ _ | .wreplay _ _ _ | .wclass _ _ _ | .ixred _ _ | .rsendReply | .slctlStatus _ _ _ | .tissue _ _ _ => !reed
  | .ferry _ _ d _ _ => !reed && !(decide (16 ≤ d.toNat) && decide (d.toNat ≤ 23))
  | .rsend a b => !reed && !(a == 0#5 && b == 0#5)
  | .srd _ _ | .swr _ _ | .tret | .ctxsw _ _ _ | .xinvPage _ _ _ | .savectx _ _ _ | .loadctx _ _ _ => !reed
  | .sluld a b | .slugo a b | .ovswap a b => reed && wf2 reed a b
  | .slurd d a => reed && wf2 reed d a
  | .sluwt a | .tkset a | .tkclr a => reed && wfReg reed a
  | .tkend => reed
  | _ => false

/-- The Gleaner's instructions (R247): every operand value has a word. -/
def wfGleaner (i : Instr) : Bool := (encodeGleaner i).isSome

/-- A micro-op whose unused fields are 0 (R273). -/
def wfSluice : Instr → Bool
  | .sluNop u | .sluLoop u | .sluEnd u => u == ⟨0#2, 0#1, 0#1, 0#2, 0#6⟩
  | .rld u | .rst u => u.fmt == 0#2 && u.b == 0#1 && u.imm == 0#6
  | .sluVadd u => u.n == 0#2 && u.imm == 0#6
  | .vmuls u => u.b == 0#1 && u.imm == 0#6
  | .vfmas u => u.imm == 0#6
  | .pinc u => u.fmt == 0#2 && u.a == 0#1 && u.b == 0#1
  | _ => false

/-- Well formed for some unit of the part. -/
def WellFormed (i : Instr) : Bool :=
  wfZhoru false i || wfZhoru true i || wfGleaner i || wfSluice i || (encode i).isNone

end Sys2Proof
end

