-- ==== Sys2Proof/Certificates/Slice0/Obligations.lean ====
section
/-!
DEFINITION. Obligations.lean: what the model is claimed to do, rule by rule of spec/.
-/
open Sys2Proof Sys2Proof.Machine

/-- What the manual's reset values leave: memory and runs empty, no thread, registers at their reset values (R53, R58, R318, R338, R349, R378,
R382). At reset device memory lists nothing, every word is empty, no run holds an entry, no cell, no thread slot is live, no launch, group,
queue or message exists. A thread starts with every register, pointer, loop register and trap register 0 and vl = 1. Every per-context SYS
register is 0 but SYS.WDOG, which is 24; SYS.CELLSTORE is 1, SYS.PWRCAP is 2400; HSEQ and DONE of every die are 0. SYS.PDIES and SYS.DEVID
at reset are the model's choice, log 5, and are not stated. R378 clears memory only at stage 1: that device memory lists nothing before it
is the model's choice (log 3), and so are the empty runs, queues, launches, groups and messages (log 67) and the 0 of the registers outside
window 0 (log 2). -/
def Obligations.ResetValues : Prop :=
  let s := State.reset
  s.mem = [] ∧ s.full = [] ∧ s.cells = [] ∧ s.poison = [] ∧ (∀ r, (s.run r).ents = []) ∧ (∀ ti, (s.thr ti).live = false) ∧
  s.launches = [] ∧ s.groups = [] ∧ s.queues = [] ∧ s.msgs = [] ∧ s.loads = [] ∧ s.copies = [] ∧ s.tissues = [] ∧
  (∀ ti r, (s.thr ti).reg r = 0#64) ∧ (∀ ti p, (s.thr ti).ptr p = 0#32) ∧
  (∀ ti, (s.thr ti).vl = 1#13 ∧ (s.thr ti).flags = 0#9 ∧ (s.thr ti).wb = 0#3 ∧ (s.thr ti).bot = 0#3 ∧ (s.thr ti).depth = 0#16 ∧
    (s.thr ti).lc0 = 0#64 ∧ (s.thr ti).lc1 = 0#64 ∧ (s.thr ti).tstat = 0#64 ∧ (s.thr ti).wsp = 0#64 ∧ (s.thr ti).sup = false) ∧
  (∀ p c, (s.ctx p c).tvec = 0#64 ∧ (s.ctx p c).fring = 0#64 ∧ (s.ctx p c).fhead = 0#64 ∧ (s.ctx p c).ftail = 0#64 ∧
    (s.ctx p c).fagent = 0#64 ∧ (s.ctx p c).tilth = 0#64 ∧ (s.ctx p c).devrcb = 0#64 ∧ (s.ctx p c).wdog = 24#64 ∧
    (s.ctx p c).ptroot = 0#64 ∧ (s.ctx p c).rtab = 0#64) ∧
  (s.part 0).cellstore = 1#64 ∧ (s.part 0).qtab = 0#64 ∧ s.pwrcap = 2400#64 ∧ (∀ d, (s.die d).hseq = 0 ∧ (s.die d).done = 0)

/-- Device memory is in canonical form at reset (R96, R100, R378). The state at reset meets the invariant: device memory, listed by rising
address with no byte equal to what an unlisted byte reads as, is canonical. The listed form is the model's own representation of memory, and
that an unlisted byte reads as 0 is log 3. -/
def Obligations.ResetKeepsInvariant : Prop :=
  State.reset.Inv

/-- Every step, whoever moves, keeps device memory in canonical form (R92, R96, R100). For every state whose device memory is canonical, a step
of the machine that answers a next state leaves it canonical, whichever agent moves: a thread of a cluster with any instruction, a Reed
core, a Gleaner, a Sluice unit, any event of the part, or the passing of time. The listed form is the model's own representation of memory,
and that an unlisted byte reads as 0 is log 3. -/
def Obligations.EveryStepKeepsInvariant : Prop :=
  ∀ s t : State, s.Inv → step s = .next t → t.Inv

/-- A thread's turn fetches and decodes at its pc and executes the instruction found there (R26, R141, R142, R253, R364, R378). When thread ti
moves, can issue, waits for nothing and has no fault due, and the words at its pc decode to instruction i of len bytes for which it is
ready, the step is exec of i (of the row its operands select, where several rows share the encoding: log 9) in the state that names the
thread, its pc and the length, with the fetched words kept by the cluster's instruction cache (log 10) and the issue noted for the group's
watchdog; the pc itself moves only as exec says. If i reads a poisoned register, the thread is contained instead (R364; that registers carry
a mark is log 46). If the thread is not ready for i, the step changes no more than the state's name of what issues. The part must be up:
before that, and while a thermal trip holds the dies in reset, the turn changes nothing. Words that decode to nothing take
IllegalInstruction, a page-6 word at user level PrivilegedInstruction, and a word that cannot be fetched the fetch fault at that word's
address. -/
def Obligations.StepRunsTheDecodedInstruction : Prop :=
  ∀ (ti : SlotId) (rest : List Agent) (s : State),
    s.agenda = .thread ti :: rest → slotExists ti = true →
    let a : State := { s with agenda := rest }
    (a.boot ≠ .up → step s = .next a) ∧
    (a.boot = .up → a.canTurn ti = true → (a.thr ti).wait = .no → a.engPending ti = false → (a.mayTake ti = false ∨ a.nextDue ti = none) →
    let pc := (a.thr ti).pc
    let b (len : Nat) : State := a.at (.thread ti) pc len
    (∀ i len, a.fetchDecode ti = .ok i len → (b len).readyFor ti (select i (b len)) = true →
      (((b len).thr ti).readsPoison (select i (b len)) = false →
        step s = Out.mapNext (exec (select i (b len)) ((b len).icacheFill ti pc len)) fun t => (b len).markIssue t ti (select i (b len))) ∧
      (((b len).thr ti).readsPoison (select i (b len)) = true → step s = .next ((b len).consume ti sramPa))) ∧
    (∀ i len, a.fetchDecode ti = .ok i len → (b len).readyFor ti (select i (b len)) = false → step s = .next (b len)) ∧
    (a.fetchDecode ti = .illegal → step s = exec (.trap 1 0 pc) (b 0)) ∧
    (a.fetchDecode ti = .privileged → step s = exec (.trap 2 0 pc) (b 0)) ∧
    (∀ n, a.fetchDecode ti = .fetchFault n → step s = exec (.trap 4 0 (pc + BitVec.ofNat 64 (2 * n))) (b 0)))

/-- A Reed core, a Gleaner and a Sluice unit fetch, decode and execute their own words; an event runs its meaning (R245, R248, R268, R273, R274,
R309, R378). While the part is up: a Reed core with a task on a channel other than 14 executes the instruction its overlay holds at its pc;
a cluster's Gleaner whose job belongs to a live thread executes the instruction of its store at the job's pc; a busy Sluice unit that is not
suspended and whose window is closed executes the micro-op at UPC, unless that is a row step and a class-0 request to its bank group waits,
when it suspends there; an event's turn is exec of that event with its arguments. Before the part is up none of the units moves. -/
def Obligations.OtherAgentsRunTheirInstruction : Prop :=
  ∀ (s : State), (s.boot ≠ .up → (∀ q, q < 512 → turn (.reed q) s = .next s) ∧ (∀ d c, d < 8 → c < 96 → turn (.gleaner d c) s = .next s) ∧ (∀ q g, q < 512 → g < 4 → turn (.sluice q g) s = .next s)) ∧
    (s.boot = .up →
    (∀ q m i len, q < 512 → (s.reed q).task = some m → m.chan ≠ 14 → (s.reed q).fetchDecode = .ok i len →
      turn (.reed q) s = exec i (s.at (.reed q) (s.reed q).pc len)) ∧
    (∀ d c x i, d < 8 → c < 96 → (s.at (.gleaner d c) 0#64 0).gJob = some x → (s.thr x.ti).uid = x.uid → (s.thr x.ti).halted = false →
      decodeGleaner (x.store.getD x.pc 0) = some i → turn (.gleaner d c) s = exec i (s.at (.gleaner d c) 0#64 0)) ∧
    (∀ q g i, q < 512 → g < 4 → (s.sluice q g).busy = true → (s.sluice q g).susp = false → (s.sluice q g).win = false →
      decodeSluice ((s.sluice q g).prog.getD (s.sluice q g).upc 0) = some i →
      let b := s.at (.sluice q g) 0#64 0
      let rowStep : Prop := (∃ f, i = .rld f) ∨ ∃ f, i = .rst f
      (¬ (rowStep ∧ (q, g) ∈ s.asked) → turn (.sluice q g) s = exec i b) ∧
      (rowStep → (q, g) ∈ s.asked → turn (.sluice q g) s =
        .next { b.setSluice q g { s.sluice q g with win := false, susp := true } with asked := s.asked.filter fun k => k != (q, g) })) ∧
    (∀ i e, EvArgsExist e = true → turn (.event i e) s = exec i { s with cur := ⟨.event i e, 0#64, 0, e⟩ }))

/-- Words of the manual's encodings decode to the instructions they stand for (R141, R147, R161, R164, R167, R270, R285, R324, R331, R332, R335,
R357). Words written out from the spec's encodings decode to the instruction the spec names, with their length in bytes: LD.d w3,[w0+0] and
LD.d w5,[w0+16], ST.d [w5+0],w16, LI w9,0x89ABCDEF, LIH w9,0x01234567, SRD w3,SYS.TCAUSE, SWR SYS.TSCR0,h1, CTXSW, XINV, SAVECTX, LOADCTX,
TRET, NOP, EXIT, RET, TISSUE, the Gleaner's GLDW and the Reed core's TKEND; a word with a fifth prefix is no instruction. -/
def Obligations.WordsDecodeAsTheManualEncodesThem : Prop :=
  let d (ws : List Nat) := decode ⟨false, false⟩ (fetchList ws)
  let no : Ord := ⟨.none, .thread, false⟩
  d [0xFC01, 0x0303] = .ok (.ld .d false false no 3#5 0#5 0#64) 4 ∧
  d [0xFC01, 0x050B] = .ok (.ld .d false false no 5#5 0#5 2#64) 4 ∧
  d [0xFC01, 0xFB00, 0x10A3] = .ok (.st .d false no 16#5 5#5 0#64) 6 ∧
  d [0xFA80, 0xF822, 0xF8D5, 0xF9CD, 0x89EF] = .ok (.li 9#5 0x89ABCDEF#64) 10 ∧
  d [0xFA80, 0xF891, 0xF945, 0x9167] = .ok (.lih 9#5 0x01234567#64) 8 ∧
  d [0xFC06, 0x0303] = .ok (.srd 3#5 3#9) 4 ∧ d [0xFC06, 0xFB80, 0x0905] = .ok (.swr 5#9 25#5) 6 ∧
  d [0xFC06, 0x1395] = .ok (.ctxsw 3#5 4#5 5#5) 4 ∧ d [0xFC06, 0x1396] = .ok (.xinvPage 3#5 4#5 5#5) 4 ∧
  d [0xFC06, 0x1B94] = .ok (.savectx 3#5 4#5 5#5) 4 ∧ d [0xFC06, 0x1B95] = .ok (.loadctx 3#5 4#5 5#5) 4 ∧
  d [0xFC06, 0x1000] = .ok .tret 4 ∧ d [0xE801] = .ok .nop 2 ∧ d [0xE800] = .ok .exit 2 ∧ d [0xE002] = .ok .ret 2 ∧
  d [0xFC05, 0x1A70] = .ok (.tissue 2#5 3#5 4#5) 4 ∧
  decode ⟨false, true⟩ (fetchList [0xFC06, 0x1000]) = .privileged ∧
  decodeGleaner 0x31440000 = some (.gldw 5#4 1#4 0#18) ∧
  decode ⟨true, false⟩ (fetchList [0xFC07, 0x0802]) = .ok .tkend 4 ∧
  d [0xFA80, 0xF822, 0xF8D5, 0xF9CD, 0xF9CD, 0x89EF] = .illegal

/-- Decoding the encoding of any well-formed instruction of pages 0 to 7 gives it back (R130, R131, R132, R134, R136, R138, R139, R141). Every
well-formed instruction of pages 0 to 7, with every operand at every value its encoding admits, has words; a core of its kind that fetches
these words decodes exactly that instruction, with its length in bytes, whatever words follow. -/
def Obligations.DecodeOfEncodeIsTheInstruction : Prop :=
  ∀ (reed : Bool) (i : Instr), wfZhoru reed i = true →
    ∃ ws, encode i = some ws ∧ ∀ fetch : Nat → FetchR, (∀ n, n < ws.length → fetch n = .word (ws.getD n 0)) →
      decode ⟨reed, false⟩ fetch = .ok i (2 * ws.length)

/-- A register write is read back, changes no other register place, and is discarded for h0, which reads 0 (R18, R53, R54, R133). For every
thread of a cluster: after SetReg(r, v) with r other than h0, Reg(r) is v; a write of h0 changes nothing and h0 reads 0; every physical and
h register that r does not name keeps its value, and so does everything of the thread that is no register. The window register wi is
physical register (16·WB + i) mod 128. -/
def Obligations.RegisterWrites : Prop :=
  ∀ (t : Thread) (r : Reg) (v : W64),
    (r ≠ 24#5 → (t.setReg r v).reg r = v) ∧ t.setReg 24#5 v = t ∧ t.reg 24#5 = 0#64 ∧
    (∀ pl, pl < 136 → pl ≠ t.place r → (t.setReg r v).atPlace pl = t.atPlace pl) ∧
    (t.setReg r v).still = t.still ∧ (t.setReg r v).pc = t.pc ∧ (t.setReg r v).lc0 = t.lc0 ∧ (t.setReg r v).lc1 = t.lc1 ∧
    (r.toNat < 24 → t.reg r = t.atPlace ((16 * t.wb.toNat + r.toNat) % 128))

/-- Completion with fall-through advances pc, or acts on the hardware loops that end there (R59, R166). For every thread and instruction of n
bytes at address a: no register, pointer, flag, loop address or given count (lcN[63:32]) changes. Where no active level ends at a, pc
becomes a + n and both counts stay. Where level 1 ends there with 2 or more passes left, its count falls by one and pc is ls1; with one pass
left it is cleared, and if level 0 ends there too with 2 or more passes left, level 0's count falls by one, level 1 gets its given count
back and pc is ls0, while with one pass left both are cleared. Where only level 0 ends there it acts alone. -/
def Obligations.LoopEndsAtFallThrough : Prop :=
  ∀ (t : Thread) (a : W64) (n : Nat),
    let u := t.fallThrough a n
    let on0 := lo32 t.lc0 ≠ 0 ∧ a = t.le0
    let on1 := lo32 t.lc1 ≠ 0 ∧ a = t.le1
    u.still = t.still ∧ u.phys = t.phys ∧ u.h = t.h ∧
    u.lc0.toNat / 2 ^ 32 = t.lc0.toNat / 2 ^ 32 ∧ u.lc1.toNat / 2 ^ 32 = t.lc1.toNat / 2 ^ 32 ∧
    (¬on0 → ¬on1 → u.pc = a + BitVec.ofNat 64 n ∧ u.lc0 = t.lc0 ∧ u.lc1 = t.lc1) ∧
    (on1 → 1 < lo32 t.lc1 → u.pc = t.ls1 ∧ lo32 u.lc1 = lo32 t.lc1 - 1 ∧ u.lc0 = t.lc0) ∧
    (on1 → lo32 t.lc1 = 1 → ¬on0 → u.pc = a + BitVec.ofNat 64 n ∧ lo32 u.lc1 = 0 ∧ u.lc0 = t.lc0) ∧
    (on1 → lo32 t.lc1 = 1 → on0 → 1 < lo32 t.lc0 →
      u.pc = t.ls0 ∧ lo32 u.lc0 = lo32 t.lc0 - 1 ∧ lo32 u.lc1 = t.lc1.toNat / 2 ^ 32) ∧
    (on1 → lo32 t.lc1 = 1 → on0 → lo32 t.lc0 = 1 → u.pc = a + BitVec.ofNat 64 n ∧ lo32 u.lc0 = 0 ∧ lo32 u.lc1 = 0) ∧
    (¬on1 → on0 → 1 < lo32 t.lc0 → u.pc = t.ls0 ∧ lo32 u.lc0 = lo32 t.lc0 - 1 ∧ u.lc1 = t.lc1) ∧
    (¬on1 → on0 → lo32 t.lc0 = 1 → u.pc = a + BitVec.ofNat 64 n ∧ lo32 u.lc0 = 0 ∧ u.lc1 = t.lc1)

/-- ADD, SUB, MUL, MULH and MULHU write the integer result modulo 2^64 (R157). For every state and all registers each of the five instructions
answers the next state in which the destination holds the sum, difference, low or high half of the product of the two sources read as
integers, and the instruction completes with fall-through. A destination of h0 discards the result (RegisterWrites). -/
def Obligations.SumsAndProductsWrap : Prop :=
  ∀ (rd rs rt : Reg) (s : State),
    let a := s.reg rs
    let b := s.reg rt
    exec (.add rd rs rt) s = .next (s.setReg rd (BitVec.ofInt 64 (a.toInt + b.toInt))).fall ∧
    exec (.sub rd rs rt) s = .next (s.setReg rd (BitVec.ofInt 64 (a.toInt - b.toInt))).fall ∧
    exec (.mul rd rs rt) s = .next (s.setReg rd (BitVec.ofInt 64 (a.toInt * b.toInt))).fall ∧
    exec (.mulh rd rs rt) s = .next (s.setReg rd (BitVec.ofInt 64 (a.toInt * b.toInt / 2 ^ 64))).fall ∧
    exec (.mulhu rd rs rt) s = .next (s.setReg rd (BitVec.ofNat 64 (a.toNat * b.toNat / 2 ^ 64))).fall

/-- DIV, DIVU, REM and REMU give the truncated quotient and remainder, with fixed results for zero and overflow (R157). For every state and all
registers the four divisions answer a next state: all ones or the dividend for a divisor of 0, −2^63 or 0 for −2^63 by −1, and otherwise the
quotient truncated toward zero or the remainder with the sign of the dividend. -/
def Obligations.DivisionNeverTraps : Prop :=
  ∀ (rd rs rt : Reg) (s : State),
    let a := s.reg rs
    let b := s.reg rt
    exec (.div rd rs rt) s = .next (s.setReg rd (if b = 0#64 then BitVec.allOnes 64 else BitVec.ofInt 64 (a.toInt.tdiv b.toInt))).fall ∧
    exec (.divu rd rs rt) s = .next (s.setReg rd (if b = 0#64 then BitVec.allOnes 64 else BitVec.ofNat 64 (a.toNat / b.toNat))).fall ∧
    exec (.rem rd rs rt) s = .next (s.setReg rd (if b = 0#64 then a else BitVec.ofInt 64 (a.toInt.tmod b.toInt))).fall ∧
    exec (.remu rd rs rt) s = .next (s.setReg rd (BitVec.ofNat 64 (a.toNat % b.toNat))).fall ∧
    (a = BitVec.intMin 64 → b = BitVec.allOnes 64 →
      exec (.div rd rs rt) s = .next (s.setReg rd (BitVec.intMin 64)).fall ∧ exec (.rem rd rs rt) s = .next (s.setReg rd 0#64).fall)

/-- AND, OR, XOR, ANDN and the shifts act bit by bit, by the low six bits of the amount (R157, R160). For every state each of the logical
instructions answers the next state whose destination holds the bitwise result; SHL, SHR and SAR multiply or divide by 2 to the power b mod
64, unsigned or signed, rounding down; ROR moves bit (i + b mod 64) mod 64 to bit i. SHLI, SHRI and SARI do the same by an immediate of 0 to
63. -/
def Obligations.LogicAndShifts : Prop :=
  ∀ (rd rs rt : Reg) (m : W64) (s : State),
    let a := s.reg rs
    let b := s.reg rt
    (∃ v : W64, exec (.and rd rs rt) s = .next (s.setReg rd v).fall ∧ ∀ i, i < 64 → v.getLsbD i = (a.getLsbD i && b.getLsbD i)) ∧
    (∃ v : W64, exec (.or rd rs rt) s = .next (s.setReg rd v).fall ∧ ∀ i, i < 64 → v.getLsbD i = (a.getLsbD i || b.getLsbD i)) ∧
    (∃ v : W64, exec (.xor rd rs rt) s = .next (s.setReg rd v).fall ∧ ∀ i, i < 64 → v.getLsbD i = (a.getLsbD i != b.getLsbD i)) ∧
    (∃ v : W64, exec (.andn rd rs rt) s = .next (s.setReg rd v).fall ∧ ∀ i, i < 64 → v.getLsbD i = (a.getLsbD i && !b.getLsbD i)) ∧
    exec (.shl rd rs rt) s = .next (s.setReg rd (BitVec.ofNat 64 (a.toNat * 2 ^ (b.toNat % 64)))).fall ∧
    exec (.shr rd rs rt) s = .next (s.setReg rd (BitVec.ofNat 64 (a.toNat / 2 ^ (b.toNat % 64)))).fall ∧
    exec (.sar rd rs rt) s = .next (s.setReg rd (BitVec.ofInt 64 (a.toInt / 2 ^ (b.toNat % 64)))).fall ∧
    (∃ v : W64, exec (.ror rd rs rt) s = .next (s.setReg rd v).fall ∧ ∀ i, i < 64 → v.getLsbD i = a.getLsbD ((i + b.toNat % 64) % 64)) ∧
    (m.toNat < 64 →
      exec (.shli rd rs m) s = .next (s.setReg rd (BitVec.ofNat 64 (a.toNat * 2 ^ m.toNat))).fall ∧
      exec (.shri rd rs m) s = .next (s.setReg rd (BitVec.ofNat 64 (a.toNat / 2 ^ m.toNat))).fall ∧
      exec (.sari rd rs m) s = .next (s.setReg rd (BitVec.ofInt 64 (a.toInt / 2 ^ m.toNat))).fall)

/-- SLT, SLTU, SEQ, SNE, MIN, MAX, MINU and MAXU compare as signed or unsigned integers (R157). For every state and all registers the compares
write 1 or 0 and the extremes write the lesser or greater source, read as signed (SLT, MIN, MAX) or unsigned (SLTU, MINU, MAXU) integers,
and complete with fall-through. -/
def Obligations.ComparesAndExtremes : Prop :=
  ∀ (rd rs rt : Reg) (s : State),
    let a := s.reg rs
    let b := s.reg rt
    exec (.slt rd rs rt) s = .next (s.setReg rd (if a.toInt < b.toInt then 1#64 else 0#64)).fall ∧
    exec (.sltu rd rs rt) s = .next (s.setReg rd (if a.toNat < b.toNat then 1#64 else 0#64)).fall ∧
    exec (.seq rd rs rt) s = .next (s.setReg rd (if a = b then 1#64 else 0#64)).fall ∧
    exec (.sne rd rs rt) s = .next (s.setReg rd (if a = b then 0#64 else 1#64)).fall ∧
    exec (.min rd rs rt) s = .next (s.setReg rd (BitVec.ofInt 64 (min a.toInt b.toInt))).fall ∧
    exec (.max rd rs rt) s = .next (s.setReg rd (BitVec.ofInt 64 (max a.toInt b.toInt))).fall ∧
    exec (.minu rd rs rt) s = .next (s.setReg rd (BitVec.ofNat 64 (min a.toNat b.toNat))).fall ∧
    exec (.maxu rd rs rt) s = .next (s.setReg rd (BitVec.ofNat 64 (max a.toNat b.toNat))).fall

/-- CLZ, CTZ, POPC and BREV count and reverse the bits of a (R158). For every state CLZ and CTZ write the number of zero bits above the highest
and below the lowest 1 bit (64 for 0), POPC the number of 1 bits, and BREV moves bit i to bit 63 − i for every i; each completes with
fall-through. -/
def Obligations.BitCounts : Prop :=
  ∀ (rd rs : Reg) (s : State),
    let a := s.reg rs
    (∃ n, n ≤ 64 ∧ exec (.clz rd rs) s = .next (s.setReg rd (BitVec.ofNat 64 n)).fall ∧
      (∀ i, 64 - n ≤ i → i < 64 → a.getLsbD i = false) ∧ (n < 64 → a.getLsbD (63 - n) = true)) ∧
    (∃ n, n ≤ 64 ∧ exec (.ctz rd rs) s = .next (s.setReg rd (BitVec.ofNat 64 n)).fall ∧
      (∀ i, i < n → a.getLsbD i = false) ∧ (n < 64 → a.getLsbD n = true)) ∧
    exec (.popc rd rs) s = .next (s.setReg rd (BitVec.ofNat 64 ((List.range 64).filter fun i => a.getLsbD i).length)).fall ∧
    (∃ v : W64, exec (.brev rd rs) s = .next (s.setReg rd v).fall ∧ ∀ i, i < 64 → v.getLsbD i = a.getLsbD (63 - i))

/-- BFX, BFXU and BFI read and write the field of len bits at pos (R159). With pos = Reg(t)[5:0] and len = Reg(t)[13:8] + 1: BFXU writes the
field zero-extended, BFX writes it sign-extended from bit len − 1, where bits above 63 of the source read as zero; BFI writes bit i of the
source to bit pos + i of the destination for i < len and pos + i ≤ 63, and leaves the other bits of the destination. Each completes with
fall-through. -/
def Obligations.BitFields : Prop :=
  ∀ (rd rs rt : Reg) (s : State),
    let a := s.reg rs
    let pos := (s.reg rt).toNat % 64
    let len := (s.reg rt).toNat / 256 % 64 + 1
    (∃ v : W64, exec (.bfxu rd rs rt) s = .next (s.setReg rd v).fall ∧
      ∀ i, i < 64 → v.getLsbD i = (decide (i < len) && a.getLsbD (pos + i))) ∧
    (∃ v : W64, exec (.bfx rd rs rt) s = .next (s.setReg rd v).fall ∧
      ∀ i, i < 64 → v.getLsbD i = a.getLsbD (pos + min i (len - 1))) ∧
    (∃ v : W64, exec (.bfi rd rs rt) s = .next (s.setReg rd v).fall ∧
      ∀ i, i < 64 → v.getLsbD i = if pos ≤ i ∧ i < pos + len then a.getLsbD (i - pos) else (s.reg rd).getLsbD i)

/-- ADDI, ANDI, ORI, XORI, SLTI, SLTIU, LI and LIH use the extended immediate (R160, R161). For every state and every extended immediate m, ADDI
adds it, ANDI, ORI and XORI combine it bitwise, SLTI and SLTIU compare with it as signed and unsigned, LI writes it, and LIH writes its low
32 bits to bits [63:32] of the destination and leaves bits [31:0]; each completes with fall-through. -/
def Obligations.ImmediateForms : Prop :=
  ∀ (rd rs : Reg) (m : W64) (s : State),
    let a := s.reg rs
    exec (.addi rd rs m) s = .next (s.setReg rd (a + m)).fall ∧
    exec (.andi rd rs m) s = .next (s.setReg rd (a &&& m)).fall ∧
    exec (.ori rd rs m) s = .next (s.setReg rd (a ||| m)).fall ∧
    exec (.xori rd rs m) s = .next (s.setReg rd (a ^^^ m)).fall ∧
    exec (.slti rd rs m) s = .next (s.setReg rd (if a.toInt < m.toInt then 1#64 else 0#64)).fall ∧
    exec (.sltiu rd rs m) s = .next (s.setReg rd (if a.toNat < m.toNat then 1#64 else 0#64)).fall ∧
    exec (.li rd m) s = .next (s.setReg rd m).fall ∧
    exec (.lih rd m) s = .next (s.setReg rd (BitVec.ofNat 64 ((s.reg rd).toNat % 2 ^ 32 + m.toNat % 2 ^ 32 * 2 ^ 32))).fall

/-- Register-only instructions change their destination register and the pc, and nothing else (R157, R158, R159, R160, R161, R162, R163, R172,
R173). For every instruction i of R157 to R161 and MOVFS with destination rd, issued by a cluster thread ti, the next state changes of the
thread only register rd, the pc and the loop counts, and of the rest of the machine nothing: no byte of memory, no other thread, no flag, no
special register. The six branches and JMP change no register at all. RDSTAT outside deterministic mode changes rd alone. -/
def Obligations.ScalarFrame : Prop :=
  ∀ (ti : SlotId) (rd rs rt : Reg) (m off : W64) (sr : SReg) (s t : State), s.issues ti →
    (∀ i ∈ [Instr.add rd rs rt, .sub rd rs rt, .mul rd rs rt, .mulh rd rs rt, .mulhu rd rs rt, .div rd rs rt, .divu rd rs rt, .rem rd rs rt,
        .remu rd rs rt, .and rd rs rt, .or rd rs rt, .xor rd rs rt, .andn rd rs rt, .shl rd rs rt, .shr rd rs rt, .sar rd rs rt, .ror rd rs rt,
        .slt rd rs rt, .sltu rd rs rt, .seq rd rs rt, .sne rd rs rt, .min rd rs rt, .max rd rs rt, .minu rd rs rt, .maxu rd rs rt,
        .clz rd rs, .ctz rd rs, .popc rd rs, .brev rd rs, .bfx rd rs rt, .bfxu rd rs rt, .bfi rd rs rt,
        .addi rd rs m, .andi rd rs m, .ori rd rs m, .xori rd rs m, .shli rd rs m, .shri rd rs m, .sari rd rs m, .slti rd rs m, .sltiu rd rs m,
        .li rd m, .lih rd m, .movfs rd sr],
      exec i s = .next t → RegFrame ti [rd] s t) ∧
    (∀ i ∈ [Instr.beq rs rt off, .bne rs rt off, .blt rs rt off, .bge rs rt off, .bltu rs rt off, .bgeu rs rt off, .jmp off, .nop],
      exec i s = .next t → RegFrame ti [] s t) ∧
    ((s.thr ti).det = false → exec (.rdstat rd) s = .next t → RegFrame ti [rd] s t)

/-- The branches compare as R162 says and go to FirstByte + 2·ImmS or fall through (R132, R143, R162, R163). For every cluster thread and every
state: each of the six branches answers the next state whose pc is the first-byte address plus twice the offset when its condition holds on
the two registers (signed for BLT and BGE, unsigned for BLTU and BGEU), and completes with fall-through otherwise. JMP always transfers; JR
transfers to an even register value, and raises InstructionAlignment at its own first byte for an odd one. -/
def Obligations.BranchesAndJumps : Prop :=
  ∀ (ti : SlotId) (rs rt : Reg) (off : W64) (s : State), s.issues ti →
    let a := (s.thr ti).reg rs
    let b := (s.thr ti).reg rt
    let go (t : W64) : State := s.modThr ti fun x => { x with pc := t, ph := Phase.zero, wait := .no }
    let on := s.modThr ti fun x => x.fallThrough s.cur.addr s.cur.len
    let tgt := s.cur.addr + 2#64 * off
    exec (.beq rs rt off) s = .next (if a = b then go tgt else on) ∧
    exec (.bne rs rt off) s = .next (if a ≠ b then go tgt else on) ∧
    exec (.blt rs rt off) s = .next (if a.toInt < b.toInt then go tgt else on) ∧
    exec (.bge rs rt off) s = .next (if b.toInt ≤ a.toInt then go tgt else on) ∧
    exec (.bltu rs rt off) s = .next (if a.toNat < b.toNat then go tgt else on) ∧
    exec (.bgeu rs rt off) s = .next (if b.toNat ≤ a.toNat then go tgt else on) ∧
    exec (.jmp off) s = .next (go tgt) ∧
    exec (.jr rs) s = .next (if a.toNat % 2 = 1 then s.takeTrap tIAlign 0 s.cur.addr else go a)

/-- CALL, CALLR and RET move the window, check in R164's order and leave everything on a trap (R54, R55, R164). For every cluster thread. A CALL
or CALLR raises IllegalInstruction at DEPTH 0xFFFF, then (CALLR) InstructionAlignment for an odd target, then WindowSpill with 6 frames
between BOT and WB; otherwise it completes: WB and DEPTH rise by one, pc is the target, the callee's w8 is the return address, the callee's
w0 to w7 are the caller's w16 to w23, and BOT, h registers and memory stay. RET raises IllegalInstruction at DEPTH 0, then
InstructionAlignment for an odd w8, then WindowFill with WB = BOT; otherwise pc is w8 and WB and DEPTH fall by one. -/
def Obligations.CallsMoveTheWindow : Prop :=
  ∀ (ti : SlotId) (rs : Reg) (off : W64) (s : State), s.issues ti →
    let x := s.thr ti
    let pc := s.cur.addr
    let ret := pc + BitVec.ofNat 64 s.cur.len
    let call (odd : Bool) (tgt : W64) (o : Out) : Prop :=
      (x.depth = 0xFFFF#16 → o = .next (s.takeTrap tIllegal 0 pc)) ∧
      (x.depth ≠ 0xFFFF#16 → odd = true → o = .next (s.takeTrap tIAlign 0 pc)) ∧
      (x.depth ≠ 0xFFFF#16 → odd = false → x.wb - x.bot = 6#3 → o = .next (s.takeTrap tSpill 0 pc)) ∧
      (x.depth ≠ 0xFFFF#16 → odd = false → x.wb - x.bot ≠ 6#3 → ∃ t, o = .next t ∧ OnlyThread ti s t ∧
        let y := t.thr ti
        y.pc = tgt ∧ y.wb = x.wb + 1#3 ∧ y.bot = x.bot ∧ y.depth = x.depth + 1#16 ∧ y.reg 8#5 = ret ∧ y.h = x.h ∧
        (∀ k : Nat, k < 8 → y.reg (BitVec.ofNat 5 k) = x.reg (BitVec.ofNat 5 (16 + k))))
    call ((pc + 2#64 * off).getLsbD 0) (pc + 2#64 * off) (exec (.call off) s) ∧
    call ((x.reg rs).getLsbD 0) (x.reg rs) (exec (.callr rs) s) ∧
    (x.depth = 0#16 → exec .ret s = .next (s.takeTrap tIllegal 0 pc)) ∧
    (x.depth ≠ 0#16 → (x.reg 8#5).getLsbD 0 = true → exec .ret s = .next (s.takeTrap tIAlign 0 pc)) ∧
    (x.depth ≠ 0#16 → (x.reg 8#5).getLsbD 0 = false → x.wb = x.bot → exec .ret s = .next (s.takeTrap tFill 0 pc)) ∧
    (x.depth ≠ 0#16 → (x.reg 8#5).getLsbD 0 = false → x.wb ≠ x.bot → ∃ t, exec .ret s = .next t ∧ OnlyThread ti s t ∧
      (t.thr ti).pc = x.reg 8#5 ∧ (t.thr ti).wb = x.wb - 1#3 ∧ (t.thr ti).depth = x.depth - 1#16 ∧ (t.thr ti).bot = x.bot ∧
      (t.thr ti).phys = x.phys ∧ (t.thr ti).h = x.h)

/-- LOOP writes the count into both halves of lcN, sets lsN and leN, or skips the body for a count of 0 (R165). For every cluster thread: LOOP
with an end before the next instruction raises IllegalInstruction. With a nonzero count cnt = Reg(c)[31:0] it completes with fall-through
after lcN := cnt ‖ cnt, lsN := the next address and leN := the end. With a count of 0, where the instruction at the end has length n by its
words, lcN := 0, lsN and leN are set and pc is the end plus n. -/
def Obligations.LoopSetUp : Prop :=
  ∀ (ti : SlotId) (lvl : BitVec 1) (rc : Reg) (off : W64) (s : State), s.issues ti →
    let nxt := s.cur.addr + BitVec.ofNat 64 s.cur.len
    let le := s.cur.addr + 2#64 * off
    let cnt := ((s.thr ti).reg rc).toNat % 2 ^ 32
    (le.toNat < nxt.toNat → exec (.loop lvl rc off) s = .next (s.takeTrap tIllegal 0 s.cur.addr)) ∧
    (nxt.toNat ≤ le.toNat → cnt ≠ 0 → exec (.loop lvl rc off) s =
      .next (s.modThr ti fun t => (t.setLoop lvl (BitVec.ofNat 64 (cnt * 2 ^ 32 + cnt)) nxt le).fallThrough s.cur.addr s.cur.len)) ∧
    (∀ n, nxt.toNat ≤ le.toNat → cnt = 0 → loopLen (fun k => s.fetchWord ti (wordAt le k)) 5 0 = .ok .nop n →
      exec (.loop lvl rc off) s = .next (s.modThr ti fun t =>
        { t.setLoop lvl 0#64 nxt le with pc := le + BitVec.ofNat 64 n, ph := Phase.zero, wait := .no }))

/-- NOP, EXIT, SETVL, RDSTAT, WRSTAT, MOVFS and MOVTS (R50, R58, R167, R169, R172, R173). NOP completes with fall-through. SETVL writes vl for 1
to 4,096 and otherwise raises IllegalOperation with vl unchanged. RDSTAT writes the status word, whose bits [8:0] are the flags and whose
fields WB, BOT, DEPTH, LOADS, UPDATES, COPIES and TILES stand where R58 puts them; in deterministic mode it does so only with all four
counters 0, and until then changes nothing. WRSTAT writes flags [8:0]. MOVFS reads vl and each of the six loop registers. MOVTS writes each
of the six, whole; one of an odd value to lsN or leN raises IllegalOperation, and one of vl IllegalInstruction. EXIT of a group's thread
with no operation outstanding frees the slot and takes the thread from its group's live threads. -/
def Obligations.ThreadControl : Prop :=
  ∀ (ti : SlotId) (rd rs : Reg) (s : State), s.issues ti →
    let x := s.thr ti
    let a := x.reg rs
    exec .nop s = .next s.fall ∧
    (1 ≤ a.toNat → a.toNat ≤ 4096 → exec (.setvl rs) s = .next (s.modThr ti fun t => { t with vl := BitVec.ofNat 13 a.toNat }).fall) ∧
    (a.toNat = 0 ∨ 4096 < a.toNat → exec (.setvl rs) s = .next (s.takeTrap tOp 0 s.cur.addr)) ∧
    (x.det = true → x.loads + x.updates + x.copies + x.tiles ≠ 0 → exec (.rdstat rd) s = .next s) ∧
    (x.det = false ∨ x.loads + x.updates + x.copies + x.tiles = 0 → ∃ v, exec (.rdstat rd) s = .next (s.setReg rd v).fall ∧
      v.toNat % 2 ^ 9 = x.flags.toNat ∧ v.toNat / 2 ^ 16 % 8 = x.wb.toNat ∧ v.toNat / 2 ^ 20 % 8 = x.bot.toNat ∧
      v.toNat / 2 ^ 24 % 2 ^ 16 = x.depth.toNat ∧ v.toNat / 2 ^ 40 % 2 = (if x.det then 1 else 0) ∧ v.toNat / 2 ^ 41 % 2 = ti.ctx % 2 ∧ v.toNat / 2 ^ 48 % 16 = x.loads % 16 ∧
      v.toNat / 2 ^ 52 % 16 = x.updates % 16 ∧ v.toNat / 2 ^ 56 % 16 = x.copies % 16 ∧ v.toNat / 2 ^ 60 = x.tiles % 16) ∧
    exec (.wrstat rs) s = .next (s.modThr ti fun t => { t with flags := BitVec.ofNat 9 a.toNat }).fall ∧
    (∀ sr v, (sr, v) ∈ ([(.vl, BitVec.ofNat 64 x.vl.toNat), (.lc0, x.lc0), (.ls0, x.ls0), (.le0, x.le0), (.lc1, x.lc1), (.ls1, x.ls1), (.le1, x.le1)] : List (SReg × W64)) →
      exec (.movfs rd sr) s = .next (s.setReg rd v).fall) ∧
    exec (.movts .lc0 rs) s = .next (s.modThr ti fun t => { t with lc0 := a }).fall ∧
    exec (.movts .lc1 rs) s = .next (s.modThr ti fun t => { t with lc1 := a }).fall ∧
    (a.toNat % 2 = 0 → exec (.movts .ls0 rs) s = .next (s.modThr ti fun t => { t with ls0 := a }).fall ∧
      exec (.movts .le0 rs) s = .next (s.modThr ti fun t => { t with le0 := a }).fall ∧
      exec (.movts .ls1 rs) s = .next (s.modThr ti fun t => { t with ls1 := a }).fall ∧
      exec (.movts .le1 rs) s = .next (s.modThr ti fun t => { t with le1 := a }).fall) ∧
    exec (.movts .vl rs) s = .next (s.takeTrap tIllegal 0 s.cur.addr) ∧
    (∀ sr, sr = .ls0 ∨ sr = .le0 ∨ sr = .ls1 ∨ sr = .le1 → a.toNat % 2 = 1 → exec (.movts sr rs) s = .next (s.takeTrap tOp 0 s.cur.addr)) ∧
    (x.kind ≠ .group → exec .exit s = .next (s.takeTrap tOp 0 s.cur.addr)) ∧
    (∀ g, x.kind = .group → x.loads + x.updates + x.copies + x.tiles = 0 → s.grp x.grp = some g → g.ended = false →
      ∃ t, exec .exit s = .next t ∧ (t.thr ti).live = false ∧
        ∃ h, t.grp x.grp = some h ∧ x.tidx ∉ h.live ∧ (h.ended = true ↔ g.live.all (· == x.tidx) = true))

/-- Taking a trap saves return and faulting address, cause and level, raises the level and goes to TVEC + 64·code (R322, R323). For a thread of
a cluster that is no ferry-slot handler, with INTRAP = 0 and SYS.TVEC nonzero: a precise trap of code 1 to 11 saves the instruction's
first-byte address, SVC the address after it and its code in SUB; TADDR, TCAUSE (with ROWSLOT in a row handler) and TSTAT (PPRIV, INTRAP)
are written, the level becomes supervisor and the next issue is TVEC + 64·code. An engine fault or a fault record that is due is taken the
same way with ASYNC set, the record's address in TADDR and the boundary's address in TPC, and leaves the due list. Nothing else of the
thread changes, no other thread changes, and no byte of memory. -/
def Obligations.TrapEntry : Prop :=
  ∀ (ti : SlotId) (s : State),
    let x := s.thr ti
    let tvec := (s.cx ti).tvec
    let taken (t : State) (code sub : Nat) (async : Bool) (fa ret : W64) (y : Thread) : Prop :=
      t.thr ti = { y with
        tpc := ret, taddr := fa
        tcause := BitVec.ofNat 64 (code + 2 ^ 8 * sub + (if async then 2 ^ 16 else 0) + (if x.kind = .rowH then 2 ^ 17 else 0))
        tstat := if x.sup then 5#64 else 4#64
        sup := true, pc := tvec + BitVec.ofNat 64 (64 * code), ph := Phase.zero, wait := .no } ∧
      (∀ tj, tj ≠ ti → t.thr tj = s.thr tj) ∧ t.mem = s.mem ∧ t.cells = s.cells ∧ t.full = s.full ∧ t.runs = s.runs
    x.kind ≠ .ferryH → x.tstat.getLsbD 2 = false → tvec ≠ 0#64 →
      (s.issues ti →
        (∀ code sub fa, 1 ≤ code → code ≤ 11 → sub < 256 →
          ∃ t, exec (.trap code sub fa) s = .next t ∧ taken t code sub false fa s.cur.addr x) ∧
        (∀ n : BitVec 5, x.kind = .group →
          ∃ t, exec (.svc n) s = .next t ∧ taken t 12 n.toNat false s.cur.addr (s.cur.addr + BitVec.ofNat 64 s.cur.len) x)) ∧
      (∀ a rest, s.cur.ev.ti = ti → s.mayTake ti = true → s.isAgent ti = false → x.due = (tEng, a) :: rest →
        ∃ t, exec .engineFault s = .next t ∧ taken t 14 0 true (BitVec.ofNat 64 a) x.pc { x with due := rest }) ∧
      (∀ a rest, s.cur.ev.ti = ti → s.mayTake ti = true → s.isAgent ti = true → x.due = [] → (s.cx ti).dueAgent = a :: rest →
        ∃ t, exec .faultRecordDelivery s = .next t ∧ taken t 13 0 true (BitVec.ofNat 64 a) x.pc x ∧ (t.cx ti).dueAgent = rest)

/-- TRET restores the level, clears INTRAP and goes to SYS.TPC (R143, R317, R324, R337). For a supervisor-level thread of a cluster: with INTRAP
= 1, TRET answers the next state whose level is PPRIV, whose TSTAT keeps every bit but INTRAP and whose next issue is SYS.TPC, with nothing
else changed but the waiting state of the thread, when SYS.TPC is even; an odd SYS.TPC takes InstructionAlignment like any other target of a
transfer (an inference from R143); with INTRAP = 0 it raises IllegalOperation at its own first byte. Below supervisor level it raises
PrivilegedInstruction. -/
def Obligations.TrapReturn : Prop :=
  ∀ (ti : SlotId) (s : State), s.issues ti →
    let x := s.thr ti
    (x.sup = true → x.tstat.getLsbD 2 = true → x.tpc.getLsbD 0 = false → exec .tret s = .next (s.setThr ti
      { x with sup := x.tstat.getLsbD 0, tstat := x.tstat &&& ~~~(4#64), pc := x.tpc, ph := Phase.zero, wait := .no })) ∧
    (x.sup = true → x.tstat.getLsbD 2 = true → x.tpc.getLsbD 0 = true → exec .tret s = .next (s.takeTrap tIAlign 0 x.tpc)) ∧
    (x.sup = true → x.tstat.getLsbD 2 = false → exec .tret s = .next (s.takeTrap tOp 0 s.cur.addr)) ∧
    (x.sup = false → exec .tret s = .next (s.takeTrap tPriv 0 s.cur.addr))

/-- A trap with no vector, or inside a trap, contains the fault domain and records KIND 4 (R325). For a live thread of a containing group that
is no ferry-slot handler: a trap raised while INTRAP is 1 or SYS.TVEC is 0 answers the next state in which the thread and every other live
thread of the group has stopped, the group has ended as contained, and the last record queued for the context is one of KIND 4 with the
trap's code as CAUSE. A trap of a ferry-slot handler (its source holding at most 64 call ids there, R265) ends its call with status 1
(REMOTE_FAULT) and the code in bits [15:8], and frees the slot. -/
def Obligations.TrapWithoutVectorContains : Prop :=
  ∀ (ti : SlotId) (code sub : Nat) (fa : W64) (g : Group) (s : State), s.issues ti → 1 ≤ code → code ≤ 11 →
    let x := s.thr ti
    (x.kind ≠ .ferryH → x.live = true → (x.tstat.getLsbD 2 = true ∨ (s.cx ti).tvec = 0#64) →
      s.grp x.grp = some g → g.contains = true → g.ended = false →
      ∃ t, exec (.trap code sub fa) s = .next t ∧
        (∀ tj, (s.thr tj).live = true → (s.thr tj).grp = x.grp → (t.thr tj).live = false ∧ (t.thr tj).halted = true) ∧
        ((t.grp x.grp).map fun h => (h.ended, h.contained)) = some (true, true) ∧
        ∃ r, (t.ctx (s.pOf ti) ti.ctx).recq.getLast? = some r ∧ r.kind = 4 ∧ fld (r.words.getD 1 0#64) 0 8 = 4 ∧ fld (r.words.getD 1 0#64) 8 8 = code) ∧
    (∀ src id, x.kind = .ferryH → x.call = some (src, id) → (aget [] (s.half ti.die ti.clu ti.ctx).ids (srcKey src ti.ctx)).length ≤ 64 →
      ∃ t, exec (.trap code sub fa) s = .next t ∧ (t.thr ti).live = false ∧
        idState (t.half ti.die ti.clu ti.ctx).ids (srcKey src ti.ctx) id = some (.finished (1 + 2 ^ 8 * code) ([fa, s.cur.addr] ++ List.replicate 6 0#64)))

/-- Every Gleaner instruction's and every Sluice micro-op's word decodes to it (R247, R248, R273). The word of every Gleaner instruction fits 32
bits and decodes to that instruction, for every register and immediate; the word of every Sluice micro-op whose unused fields are 0 exists,
fits 16 bits and decodes to that micro-op. -/
def Obligations.EngineWordsRoundTrip : Prop :=
  (∀ (i : Instr) (w : Nat), encodeGleaner i = some w → w < 2 ^ 32 ∧ decodeGleaner w = some i) ∧
  (∀ i : Instr, wfSluice i = true → ∃ w, encodeSluice i = some w ∧ w < 2 ^ 16 ∧ decodeSluice w = some i)

/-- A memory operand is checked for Alignment, then Translation, then PhysicalAddress or ScratchpadRange (R32, R87, R156, R175, R194, R320,
R350, R353, R354, R355, R356). For every cluster thread and every load and keyed update: a misaligned effective address raises Alignment; an
aligned one at or above 2^56, one whose page a walk has answered with a fault, one whose lowest matching range entry is malformed, or one
whose range entry does not grant the access, raises Translation with the access in SUB; one that maps to an address that does not exist
raises PhysicalAddress; each reports the effective address, and each traps on the state before the instruction. A mapping that grants the
access to device memory gives the key. A scratchpad form raises Alignment, then ScratchpadRange. -/
def Obligations.AddressChecks : Prop :=
  ∀ (ti : SlotId) (wd : Width) (f : FFmt) (o : Ord) (rd rs : Reg) (off : W64) (s : State), s.issues ti →
    let at_ (n : Nat) : W64 := (s.thr ti).reg rs + off * BitVec.ofNat 64 n
    let traps (i : Instr) (code sub : Nat) (ea : W64) : Prop := exec i s = .next (s.takeTrap code sub ea)
    let checks (n : Nat) (k : Need) (sub : Nat) (i : Instr) : Prop :=
      let ea := at_ n
      (ea.toNat % n ≠ 0 → traps i tAlign 0 ea) ∧
      (ea.toNat % n = 0 → 2 ^ 56 ≤ ea.toNat ∨ (s.thr ti).ph.xfault = some (ea.toNat / 4096) → traps i tXlate sub ea) ∧
      (ea.toNat % n = 0 → ea.toNat < 2 ^ 56 → (s.thr ti).ph.xfault = none →
        (s.rangeLook ti.die ti.ctx ea.toNat = .fault → traps i tXlate sub ea) ∧
        ∀ m, s.rangeLook ti.die ti.ctx ea.toNat = .hit m →
          (m.grants k (s.thr ti).sup = false → traps i tXlate sub ea) ∧
          (m.grants k (s.thr ti).sup = true → s.classify (s.pOf ti) m.pa = .none → traps i tPhys 0 ea) ∧
          (∀ lin, m.grants k (s.thr ti).sup = true → s.classify (s.pOf ti) m.pa = .dram lin →
            s.keyAt ea n k sub = .ok (⟨m.pa, .dram lin⟩, s)))
    let spChecks (n : Nat) (i : Instr) : Prop :=
      let ea := at_ n
      (ea.toNat % n ≠ 0 → traps i tAlign 0 ea) ∧
      (ea.toNat % n = 0 → (2 ^ 32 ≤ ea.toNat ∨ s.spBad (s.thr ti).grp ea.toNat n ≠ none) → traps i tSp 0 ea)
    (∀ nb, ∀ i ∈ [Instr.ld wd false nb o rd rs off, .ldS wd false nb o rd rs off], checks wd.bytes .read subLoad i) ∧
    (∀ i ∈ [Instr.st wd false o rd rs off, .iadd wd o rd rs off, .smin wd o rd rs off, .smax wd o rd rs off, .umin wd o rd rs off,
        .umax wd o rd rs off, .andUpdate wd o rd rs off, .orUpdate wd o rd rs off, .xorUpdate wd o rd rs off],
      checks wd.bytes .write subUpd i) ∧
    (∀ i ∈ [Instr.fsum f o rd rs off, .fmin f o rd rs off, .fmax f o rd rs off], checks f.width.bytes .write subUpd i) ∧
    (∀ i ∈ [Instr.fill false o rd rs off, .take false o rd rs off, .empty false o rs off, .fadd64 o rd rs off], checks 8 .write subUpd i) ∧
    checks 8 .read subLoad (.peek false o rd rs off) ∧
    (∀ i ∈ [Instr.ld wd true false o rd rs off, .ldS wd true false o rd rs off, .st wd true o rd rs off], spChecks wd.bytes i) ∧
    (∀ i ∈ [Instr.fill true o rd rs off, .take true o rd rs off, .peek true o rd rs off, .empty true o rs off], spChecks 8 i)

/-- LD and LD.s of device memory fold the key, extend it into rd, acquire and complete; a held key makes the load wait (R83, R98, R106, R108,
R109, R177, R274, R364). For a cluster thread whose load passes its checks: the load writes the folded value into rd, zero-extended for LD
and sign-extended for LD.s, performs the acquire of its order, and completes with fall-through; only rd, the granary, the translation caches
and the note that a class-0 request waits for a Sluice unit change, no byte of memory does. Over a held entry nothing changes but the
translation caches and the note that the load has begun to wait: the load waits. Over a poisoned datum no register is written. A word that
no entry, cell or line stands over reads as its bytes of memory in little-endian order. A load of host memory, with no operation of the
thread's own still at work on the word, reads host memory with no run folded. -/
def Obligations.Loads : Prop :=
  ∀ (ti : SlotId) (wd : Width) (o : Ord) (rd rs : Reg) (off : W64) (s s1 : State) (pa : Nat),
    let n := wd.bytes
    let ea := (s.thr ti).reg rs + off * BitVec.ofNat 64 n
    (DramAccess s ti ea n .read subLoad pa s1 →
      (∀ v s2, s1.loadKey (pathOf ti) pa n true = .ok v s2 →
        exec (.ld wd false false o rd rs off) s = .next ((s2.setReg rd (BitVec.ofNat 64 (v % 2 ^ (8 * n)))).ordAcquire o).fall ∧
        exec (.ldS wd false false o rd rs off) s = .next ((s2.setReg rd (sext64 (8 * n) v)).ordAcquire o).fall ∧
        (∀ t, exec (.ld wd false false o rd rs off) s = .next t → LoadFrame ti [rd] s t) ∧
        (∀ t, exec (.ldS wd false false o rd rs off) s = .next t → LoadFrame ti [rd] s t)) ∧
      (s1.loadKey (pathOf ti) pa n true = .held →
        exec (.ld wd false false o rd rs off) s = .next s1.keepLen ∧ exec (.ldS wd false false o rd rs off) s = .next s1.keepLen) ∧
      (s1.loadKey (pathOf ti) pa n true = .poison →
        exec (.ld wd false false o rd rs off) s = .next (s1.consume ti pa) ∧ exec (.ldS wd false false o rd rs off) s = .next (s1.consume ti pa))) ∧
    (∀ q, pa % n = 0 → (pa < 0xA000000000 ∨ bankBase ≤ pa ∧ pa < bankBase + 2 ^ 40) → Plain s q (wordOf pa) → ∃ lin t,
      linOf pa = some lin ∧ s.loadKey q pa n true = .ok (leNat (s.mem.readN lin n)) t) ∧
    (s.issues ti → ∀ rc a, s.keyAt ea n .read subLoad = .ok (⟨pa, .host rc a⟩, s1) → s1.busyWords ti [wordOf pa] = false → s1.hostBusy ti rc = false →
      exec (.ld wd false false o rd rs off) s = .next ((s1.setReg rd (BitVec.ofNat 64 (s1.hostRead a n % 2 ^ (8 * n)))).ordAcquire o).fall)

/-- A scratchpad load or store reads or writes the group's own bytes in place, and changes nothing else (R32, R85, R118, R152, R177, R179,
R364). For a cluster thread whose scratchpad operand is valid: LD and LD.s write the bytes that stand there, extended, into rd, unless one
of them is poisoned, which contains the thread (R364; that scratchpad words carry a mark, and no address in the record, is log 46); ST, once
the release its order asks for is done, writes the low bytes of the register at that view address and completes. Reading the bytes just
stored gives the low bytes of the register; every other valid byte of the group's view that is not stored to reads as before; no byte of
memory, no entry and no counter changes, and a store changes no register. On a Reed core the scratchpad forms raise IllegalInstruction. -/
def Obligations.ScratchpadLoadsAndStores : Prop :=
  ∀ (ti : SlotId) (wd : Width) (o : Ord) (rd rs : Reg) (off : W64) (s : State),
    let n := wd.bytes
    let g := (s.thr ti).grp
    let ea := (s.thr ti).reg rs + off * BitVec.ofNat 64 n
    let v := (s.thr ti).reg rd
    (SpAccess s ti ea n → s.spPoisoned g ea.toNat n = true →
      exec (.ld wd true false o rd rs off) s = .next (s.consume ti sramPa) ∧ exec (.ldS wd true false o rd rs off) s = .next (s.consume ti sramPa)) ∧
    (SpAccess s ti ea n → s.spPoisoned g ea.toNat n = false →
      exec (.ld wd true false o rd rs off) s =
        .next ((s.setReg rd (BitVec.ofNat 64 (leNat (s.spRead g ea.toNat n) % 2 ^ (8 * n)))).ordAcquire o).fall ∧
      exec (.ldS wd true false o rd rs off) s = .next ((s.setReg rd (sext64 (8 * n) (leNat (s.spRead g ea.toNat n)))).ordAcquire o).fall ∧
      ∀ t, exec (.ld wd true false o rd rs off) s = .next t ∨ exec (.ldS wd true false o rd rs off) s = .next t → LoadFrame ti [rd] s t) ∧
    (SpAccess s ti ea n → ∀ s2, s.ordRelease o = .ok s2 →
        exec (.st wd true o rd rs off) s = .next (s2.spWrite g ea.toNat (leBytes n v.toNat)).fall) ∧
    (∀ (x : Group) (a b : Nat) (bs : List Byte), aget? s.groups g = some x → s.spBad g a bs.length = none → s.spBad g b 1 = none →
      a + bs.length ≤ 2 ^ 32 → b < 2 ^ 32 →
      let t := s.spWrite g a bs
      t.spRead g a bs.length = bs ∧ (b < a ∨ a + bs.length ≤ b → t.spRead g b 1 = s.spRead g b 1) ∧
      t.mem = s.mem ∧ t.slots = s.slots ∧ t.runs = s.runs ∧ t.ins = s.ins ∧ t.groups = s.groups) ∧
    (∀ q, s.cur.who = .reed q → ∀ i ∈ [Instr.ld wd true false o rd rs off, .ldS wd true false o rd rs off, .st wd true o rd rs off],
      exec i s = .next (s.takeTrap tIllegal 0 s.cur.addr))

/-- LD.nb only counts at issue; at completion it writes the register fixed at issue, over a held entry the default result with MF (R98, R106,
R120, R127, R178, R364). LD.nb and LD.s.nb of a cluster thread, past their checks, complete with fall-through, add one to LOADS, keep a load
in flight for the physical place of rd and change no register. When that load, its place one of the 136, completes over the key in device
memory it writes its place, sign-extended for LD.s, takes one from LOADS, leaves the pc, every other place, every other thread and memory
alone, and sets MF only where a held entry's bytes overlap, in which case the value is the fold's default. Where what the fold takes is
poisoned it writes nothing and its thread consumes the poison, over a held entry too. -/
def Obligations.NonBlockingLoads : Prop :=
  ∀ (ti : SlotId) (wd : Width) (o : Ord) (rd rs : Reg) (off : W64) (s s1 : State) (pa : Nat),
    let n := wd.bytes
    let ea := (s.thr ti).reg rs + off * BitVec.ofNat 64 n
    let inFlight (sg : Bool) (out : Out) : Prop := ∃ t, out = .next t ∧
      t.loads = s1.loads ++ [{ id := s1.fresh, ti := ti, uid := (s.thr ti).uid, grp := (s.thr ti).grp, reg := some ((s.thr ti).place rd), signed := sg, width := wd, acq := if o.ord.isAcq then some o.sc else none, elems := [⟨pa, 0, 0, none, false⟩] }] ∧
      (t.thr ti).loads = (s.thr ti).loads + 1 ∧ (∀ pl, (t.thr ti).atPlace pl = (s.thr ti).atPlace pl) ∧
      (t.thr ti).pc = ((s.thr ti).fallThrough s.cur.addr s.cur.len).pc ∧ (∀ tj, tj ≠ ti → t.thr tj = s.thr tj) ∧ t.mem = s.mem
    (DramAccess s ti ea n .read subLoad pa s1 →
      inFlight false (exec (.ld wd false true o rd rs off) s) ∧ inFlight true (exec (.ldS wd false true o rd rs off) s)) ∧
    (∀ (l : LoadOp) (el : LElem) (pl lin : Nat),
      (s.loads.find? fun x => x.id == s.cur.ev.q && x.reg.isSome) = some l → l.elems = [el] → l.reg = some pl → pl < 136 →
      (s.thr l.ti).uid = l.uid → s.classify (s.pOf l.ti) el.key = .dram lin →
      let key := el.key
      let m := l.width.bytes
      let done (v : Nat) (mf : Bool) : Prop := ∃ t, exec .ldnbComplete s = .next t ∧
        (t.thr l.ti).loads = (s.thr l.ti).loads - 1 ∧
        (t.thr l.ti).flags = (s.thr l.ti).flags ||| (if mf then Flags.MF else Flags.no) ∧
        (pl ≠ 128 → (t.thr l.ti).atPlace pl = if l.signed then sext64 (8 * m) v else BitVec.ofNat 64 (v % 2 ^ (8 * m))) ∧
        (∀ x, x < 136 → x ≠ pl → (t.thr l.ti).atPlace x = (s.thr l.ti).atPlace x) ∧
        (t.thr l.ti).pc = (s.thr l.ti).pc ∧ (∀ tj, tj ≠ l.ti → t.thr tj = s.thr tj) ∧ t.mem = s.mem ∧
        ∀ x ∈ t.loads, x.id ≠ l.id
      (∀ v s', s.loadKey (pathOf l.ti) key m true = .ok v s' → done v false) ∧
      (s.loadKey (pathOf l.ti) key m true = .poison ∨ (s.loadKey (pathOf l.ti) key m true = .held ∧ s.foldPoison (pathOf l.ti) (wordOf key) true = true) →
        exec .ldnbComplete s = .next (({ s with loads := s.loads.filter fun x => x.id != l.id } : State).consume l.ti key)) ∧
      (s.loadKey (pathOf l.ti) key m true = .held → s.foldPoison (pathOf l.ti) (wordOf key) true = false → done (s.foldDefault (pathOf l.ti) key m).1 (s.foldDefault (pathOf l.ti) key m).2) ∧
      ((s.foldDefault (pathOf l.ti) key m).2 = true ↔ s.loadKey (pathOf l.ti) key m true = .held))

/-- A keyed update forms one entry from the low bytes of rd for its key, counts in UPDATES and completes; memory stays (R87, R88, R108, R109,
R179, R370). For a cluster thread whose ST, IADD, SMIN, SMAX, UMIN, UMAX, AND, OR, XOR, FSUM, FMIN, FMAX or FADD64 passes its checks, once
the release of its order is done: one update with the instruction's operator, its width, its format and Reg(d)[8n−1:0] is formed for exactly
the key, it waits behind the core's earlier updates, UPDATES rises by one, and the instruction completes with fall-through. No register, no
flag, no byte of memory, no full bit and no other thread changes. FADD64 under DET raises IllegalOperation. A key in host memory joins its
root complex's stream in order. The integer operators combine as R88 says, modulo 2^(8n). -/
def Obligations.KeyedUpdates : Prop :=
  ∀ (ti : SlotId) (wd : Width) (f : FFmt) (o : Ord) (rd rs : Reg) (off : W64) (s : State), s.issues ti →
    let core := (ti.die, ti.clu, ti.core)
    let v := (s.thr ti).reg rd
    let at_ (n : Nat) : W64 := (s.thr ti).reg rs + off * BitVec.ofNat 64 n
    let val (wx : Width) : W64 := BitVec.ofNat 64 (v.toNat % 2 ^ (8 * wx.bytes))
    let forms (i : Instr) (op : KOp) (wx : Width) (bf : Bool) : Prop := ∀ (s1 s2 : State) (pa : Nat),
      DramAccess s ti (at_ wx.bytes) wx.bytes .write subUpd pa s1 → s1.ordRelease o = .ok s2 →
      ∃ t, exec i s = .next t ∧
        aget [] t.ins core = aget [] s.ins core ++ [{ ti := ti, owner := s.owner ti, uop := s2.fresh, key := pa, op := op, width := wx, bf := bf, ctx := ti.ctx, qtag := s.qtagOf ti, src := .val (val wx), req := 0, stands := false }] ∧
        (∀ c, c ≠ core → aget [] t.ins c = aget [] s.ins c) ∧
        (t.thr ti).updates = (s.thr ti).updates + 1 ∧ (t.thr ti).pc = ((s.thr ti).fallThrough s.cur.addr s.cur.len).pc ∧
        (∀ pl, (t.thr ti).atPlace pl = (s.thr ti).atPlace pl) ∧
        (t.thr ti).still = { (s.thr ti).still with updates := (s.thr ti).updates + 1 } ∧
        (∀ tj, tj ≠ ti → t.thr tj = s.thr tj) ∧ (∀ a, t.mem.read a = s.mem.read a) ∧
        t.full = s.full ∧ t.cells = s.cells ∧ t.halves = s.halves ∧ t.ctxs = s.ctxs ∧ t.parts = s.parts
    let toHost (i : Instr) (op : KOp) (wx : Width) (bf : Bool) : Prop := ∀ (s1 s2 : State) (pa rc a : Nat),
      s.keyAt (at_ wx.bytes) wx.bytes .write subUpd = .ok (⟨pa, .host rc a⟩, s1) → s1.busyWords ti [wordOf pa] = false →
      s1.ordRelease o = .ok s2 →
      exec i s = .next ({ s2 with hostq := aset s2.hostq rc (aget [] s2.hostq rc ++ [⟨s2.fresh, a, op, wx, bf, val wx, s2.owner ti, true, none⟩]), fresh := s2.fresh + 1 } : State).fall
    let both (i : Instr) (op : KOp) (wx : Width) (bf : Bool) : Prop := forms i op wx bf ∧ toHost i op wx bf
    both (.st wd false o rd rs off) .replace wd false ∧ both (.iadd wd o rd rs off) .iadd wd false ∧
    both (.smin wd o rd rs off) .smin wd false ∧ both (.smax wd o rd rs off) .smax wd false ∧
    both (.umin wd o rd rs off) .umin wd false ∧ both (.umax wd o rd rs off) .umax wd false ∧
    both (.andUpdate wd o rd rs off) .and wd false ∧ both (.orUpdate wd o rd rs off) .or wd false ∧
    both (.xorUpdate wd o rd rs off) .xor wd false ∧
    both (.fsum f o rd rs off) .fsum f.width (f == .bf16) ∧ both (.fmin f o rd rs off) .fmin f.width (f == .bf16) ∧
    both (.fmax f o rd rs off) .fmax f.width (f == .bf16) ∧
    ((s.thr ti).det = false → both (.fadd64 o rd rs off) .fadd64 .d false) ∧
    ((s.thr ti).det = true → ∀ k s1, s.keyAt (at_ 8) 8 .write subUpd = .ok (k, s1) → (∀ x, k.cls ≠ .steading x) →
      exec (.fadd64 o rd rs off) s = .next (s.takeTrap tOp 0 s.cur.addr)) ∧
    (∀ (x u : Nat),
      laneOp .replace wd false x u = .ok u ∧ laneOp .iadd wd false x u = .ok ((x + u) % 2 ^ (8 * wd.bytes)) ∧
      laneOp .smin wd false x u = .ok (if sint (8 * wd.bytes) x ≤ sint (8 * wd.bytes) u then x else u) ∧
      laneOp .smax wd false x u = .ok (if sint (8 * wd.bytes) x ≤ sint (8 * wd.bytes) u then u else x) ∧
      laneOp .umin wd false x u = .ok (Nat.min x u) ∧ laneOp .umax wd false x u = .ok (Nat.max x u) ∧
      laneOp .and wd false x u = .ok (x &&& u) ∧ laneOp .or wd false x u = .ok (x ||| u) ∧ laneOp .xor wd false x u = .ok (x ^^^ u))

/-- An update enters the sheaf run, merges move entries outward, the home die admits them, and the barn applies the operator (R87, R90, R91,
R92, R93, R95, R96, R112, R119, R120, R360). SHEAF_INSERT brings the oldest waiting update of a core into its sheaf run, asks for a merge at
the threshold and keeps it there until every element of its instruction stands, and then takes one from UPDATES. An entry brought into a
sheaf or stook run that holds nothing for its word and has room stands there in word order. RUN_MERGE starts the merge that is asked for
over every entry not held and moves up to its number of keys, each of them one entry; it moves a stook run's entry to the die's rick run, or
sends it where the die is its home. ENTRY_AGE_TIMEOUT asks for a merge of a run with an entry 65,536 clk old. ADMIT_UPDATE admits the oldest
entry a die sent, when the stamp allows it for the dies of its partition (R360), and not before. DONE_RING_PASS shows every die's DONE to
every die. At the barn an operator other than FSUM writes its lane, and no other byte of memory changes. That a merge moves as many entries
in one step as the step's argument says, and that DONE passes every die in one step, are the model's pieces (log 11, a design choice). -/
def Obligations.UpdatesTravelToTheBarn : Prop :=
  (∀ (s s' : State) (u : Ins) (us : List Ins) (v : W64),
    let e := s.cur.ev
    let k := (e.die, e.clu, e.core)
    let r := RunId.sheaf e.die e.clu e.core
    aget [] s.ins k = u :: us → u.stands = false → u.src = .val v → (s.run r).hasHeld (wordOf u.key) = false → s.insertOne r u v = .ok s' →
    let t := { s' with ins := aset s'.ins k ({ u with stands := true } :: us) }
    let t := if 384 ≤ (t.run r).occ then t.wantMerge r else t
    let past := { t with ins := aset t.ins k (us.filter fun x => x.uop != u.uop) }
    exec .sheafInsert s = .next
      (if us.any (fun x => x.uop == u.uop && !x.stands) then t
       else if (past.thr u.ti).uid != u.owner.uid then past else past.modThr u.ti fun x => { x with updates := x.updates - 1 })) ∧
  (∀ (s : State) (r : RunId) (e : Entry) (b : Bool), r.level ≠ 2 → (s.run r).hasHeld e.word = false → (s.run r).resident e.word = none →
    (s.run r).occ + e.size ≤ r.cap →
    State.put levels s r e b = .ok (s.setRun r { s.run r with ents := insSorted { e with born := s.clk } (s.run r).ents })) ∧
  (∀ s : State,
    let r := s.cur.ev.run
    exec .runMerge s = .next (State.mergeKeys (s.cur.ev.n + 1)
      (if (s.run r).todo.isEmpty && ((s.run r).want || decide (r.threshold ≤ (s.run r).occ)) then
        s.setRun r { s.run r with todo := (s.run r).keys, want := false } else s) r)) ∧
  (∀ (s : State) (d c wd : Nat) (e : Entry), (s.run (.stook d c)).ofWord wd = [e] →
    let rest := (s.run (.stook d c)).take e
    (homeOf wd = d → s.moveWord (.stook d c) wd = (s.setRun (.stook d c) rest).send d e) ∧
    (homeOf wd ≠ d → (s.run (.rick d)).hasHeld wd = false → (s.run (.rick d)).resident wd = none → e.qtag = 0 →
      (s.run (.rick d)).occ + e.size ≤ 2097152 →
      (s.moveWord (.stook d c) wd).run (.rick d) = { s.run (.rick d) with ents := insSorted { e with born := s.clk } (s.run (.rick d)).ents } ∧
      (s.moveWord (.stook d c) wd).run (.stook d c) = rest)) ∧
  (∀ s : State,
    exec .entryAgeTimeout s = .next
      (if (s.run s.cur.ev.run).ents.any (fun e => !e.held && decide (e.born + 65536 ≤ s.clk)) then s.wantMerge s.cur.ev.run else s)) ∧
  (∀ (s : State) (x : Sent), ((s.die s.cur.ev.u).sent.find? fun x => x.home == s.cur.ev.die) = some x →
    let h := s.cur.ev.die
    let allowed := (s.partDies (s.partOf h)).all fun i => decide (x.stamp.getD i 0 ≤ (s.die h).dview.getD i 0)
    (allowed = false → exec .admitUpdate s = .next s) ∧
    (∀ s', allowed = true → State.put levels s (.rick h) x.e false = .ok s' → exec .admitUpdate s = .next (s'.admitted x))) ∧
  (∀ s : State, ∃ t, exec .doneRingPass s = .next t ∧ t.mem = s.mem ∧ t.slots = s.slots ∧
    ∀ d h, d < 8 → h < 8 → (t.die d).dview.getD h 0 = (s.die h).done ∧ (t.die d).done = (s.die d).done) ∧
  (∀ (s : State) (pa lin c q x v : Nat) (wd : Width) (op : KOp) (bf : Bool) (u : W64) (own : List Owner),
    s.Inv → op ≠ .fsum → pa % wd.bytes = 0 → linOf pa = some lin → s.cellsAt lin = [] → s.isPoison lin = false → (s.reed (lin / 2 ^ 31)).retired = false →
    x = leNat (s.mem.readN lin wd.bytes) → laneOp op wd (bf && wd == .h && (op == .fmin || op == .fmax)) x (u.toNat % 2 ^ (8 * wd.bytes)) = .ok v →
    ∃ t, s.barnApply (mkEntry pa op wd bf c q u own s.clk) = .ok t ∧
      leNat (t.mem.readN lin wd.bytes) = v % 2 ^ (8 * wd.bytes) ∧ (∀ a, a < lin ∨ lin + wd.bytes ≤ a → t.mem.read a = s.mem.read a) ∧
      t.slots = s.slots ∧ t.runs = s.runs ∧ t.full = s.full)

/-- ATOM applies its operator to the key's bytes at the barn and returns what stood there before (R101, R105, R108, R180, R181, R194, R268). For
a cluster thread whose ATOM passes its checks and whose release is done, and with no entry for the word left on its path (held ones among
them) and no poison there: if the operator gives x on the old bytes and the low bytes of Reg(d), the next state has the old bytes,
zero-extended, in rd, x in the key's bytes, every other byte of memory as before where the word holds no cell, and the acquire of the order
performed; if the operator faults, or the key is in host memory, or FADD64 meets DET, it raises IllegalOperation. On a Reed core ATOM acts
on the core's own pseudo-channel. -/
def Obligations.Atom : Prop :=
  ∀ (ti : SlotId) (op : KOp) (wd : Width) (bf : Bool) (o : Ord) (rd rs : Reg) (s s1 s2 : State) (pa lin : Nat),
    let n := wd.bytes
    let ea := (s.thr ti).reg rs
    let v := BitVec.ofNat 64 (((s.thr ti).reg rd).toNat % 2 ^ (8 * n))
    let wx := wordOf pa
    let e := mkEntry pa op wd bf ti.ctx 0 v [] s2.clk
    (DramAccess s ti ea n .write subUpd pa s1 → (op = .fadd64 → (s.thr ti).det = false) → s1.ordRelease o = .ok s2 →
      s2.pathLeft ti.die ti.clu ti.core wx = false →
      linOf pa = some lin → s2.isPoison lin = false →
      (∀ s3, s2.barnApply e = .ok s3 →
        exec (.atom op wd bf o rd rs) s =
          .next (((s3.afterBarn ti.die wx).setReg rd (BitVec.ofNat 64 (leNat (s.mem.readN lin n)))).ordAcquire o).fall ∧
        (s.Inv → op ≠ .fsum → s2.cellsAt lin = [] → ∀ x t,
          laneOp op wd (bf && wd == .h && (op == .fmin || op == .fmax)) (leNat (s.mem.readN lin n)) v.toNat = .ok x →
          (s.reed (lin / 2 ^ 31)).retired = false → exec (.atom op wd bf o rd rs) s = .next t →
          leNat (t.mem.readN lin n) = x % 2 ^ (8 * n) ∧ (∀ a, a < lin ∨ lin + n ≤ a → t.mem.read a = s.mem.read a) ∧
          (t.thr ti).reg rd = (if rd = 24#5 then 0#64 else BitVec.ofNat 64 (leNat (s.mem.readN lin n))) ∧
          (∀ pl, pl < 136 → pl ≠ (s.thr ti).place rd → (t.thr ti).atPlace pl = (s.thr ti).atPlace pl) ∧
          (t.thr ti).still = (s.thr ti).still ∧ (∀ tj, tj ≠ ti → t.thr tj = s.thr tj) ∧ t.full = s.full ∧ t.halves = s.halves)) ∧
      (∀ g dv dc, s2.barnApply e = .opFault g dv dc → exec (.atom op wd bf o rd rs) s = .next (s2.takeTrap tOp 0 s.cur.addr))) ∧
    (s.issues ti → ∀ rc a, s.keyAt ea n .write subUpd = .ok (⟨pa, .host rc a⟩, s1) →
      exec (.atom op wd bf o rd rs) s = .next (s.takeTrap tOp 0 s.cur.addr)) ∧
    (DramAccess s ti ea n .write subUpd pa s1 → op = .fadd64 → (s.thr ti).det = true →
      exec (.atom op wd bf o rd rs) s = .next (s.takeTrap tOp 0 s.cur.addr)) ∧
    (∀ (q : Nat) (s3 : State) (old : Nat), s.cur.who = .reed q → s.reedAt q (s.reg rs) n = .ok lin → s.reedRead q lin n = .ok old →
      s.barnApply (reedEntry lin op wd bf (BitVec.ofNat 64 ((s.reg rd).toNat % 2 ^ (8 * n))) s.clk) = .ok s3 →
      exec (.atom op wd bf o rd rs) s = .next (s3.setReg rd (BitVec.ofNat 64 old)).fall)

/-- FILL, TAKE, PEEK and EMPTY act on one word at its barn or in scratchpad; the wrong state parks the thread, a change wakes it (R100, R101,
R102, R108, R181, R182, R183). For a cluster thread past its checks, with the release done, no entry of the word left on its path and no
poison in the word: FILL of an empty word writes Reg(d) there, sets it full and completes; TAKE of a full word returns it, sets it empty and
completes; PEEK of a full word returns it and completes; in the wrong state each parks and writes nothing. EMPTY sets the word empty, leaves
its value, and completes; only a change wakes the parked threads. The acquire of the order follows. The scratchpad forms do the same in the
cluster. FILL wakes the word's parked threads; WAITER_RETRY lets the first woken listed waiter try again, a peer's request among them,
WAIT_LIST_POLL one that found the list full. A host key raises IllegalOperation. No other byte of memory and no other full bit changes. -/
def Obligations.FullEmptyWords : Prop :=
  ∀ (ti : SlotId) (o : Ord) (rd rs : Reg) (off : W64) (s : State),
    let x := s.thr ti
    let ea := x.reg rs + off * 8#64
    let key : ThreadKey := ⟨ti.die, ti.clu, ti.core⟩
    let op (kind : Nat) (sp : Bool) (a : Nat) : FeOp := ⟨kind, sp, a, rd.toNat, x.reg rd, if o.ord.isAcq then some o.sc else none, none, false, false, 0⟩
    let acq (s : State) : State := if o.ord.isAcq then s.acqAt ti o.sc else s
    let fin (s : State) : State := (acq s).fallOf ti
    let unl (s : State) : State := s.unlist ti
    let keep (s : State) : State := s.modThr ti fun t => { t with ph := { t.ph with len := s.cur.len } }
    (∀ (k : Need) (sub pa lin : Nat) (s1 s2 : State), DramAccess s ti ea 8 k sub pa s1 → s1.ordRelease o = .ok s2 → key.quiet s2 (wordOf pa) →
      linOf pa = some lin → s2.isPoison lin = false →
      let c := keep s2
      let old := BitVec.ofNat 64 (leNat (s.mem.readN lin 8))
      let bd (s : State) : State := unl (s.afterBarn ti.die (wordOf pa))
      (k = .write → sub = subUpd →
        (s2.isFull lin = false → exec (.fill false o rd rs off) s = .next (fin (bd ((c.barnFill lin (x.reg rd)).wakeWord lin)))) ∧
        (s2.isFull lin = true → exec (.fill false o rd rs off) s = .next (c.park ti (op 0 false pa))) ∧
        (s2.isFull lin = true → exec (.take false o rd rs off) s = .next (fin ((bd ((c.setFull lin false).wakeWord lin)).modThr ti fun t => t.setReg rd old))) ∧
        (s2.isFull lin = false → exec (.take false o rd rs off) s = .next (c.park ti (op 1 false pa))) ∧
        (s2.isFull lin = true → exec (.empty false o rs off) s = .next (((s2.setFull lin false).wakeWord lin).afterBarn ti.die (wordOf pa) |>.ordAcquire o).fall) ∧
        (s2.isFull lin = false → exec (.empty false o rs off) s = .next ((s2.afterBarn ti.die (wordOf pa)).ordAcquire o).fall)) ∧
      (k = .read → sub = subLoad →
        (s2.isFull lin = true → exec (.peek false o rd rs off) s = .next (fin ((bd c).modThr ti fun t => t.setReg rd old))) ∧
        (s2.isFull lin = false → exec (.peek false o rd rs off) s = .next (c.park ti (op 2 false pa))))) ∧
    (∀ (s2 : State) (b : Nat), SpAccess s ti ea 8 → s.spPhys x.grp ea.toNat = some b → s.ordRelease o = .ok s2 →
      let c := keep s2
      let full := (s.half ti.die ti.clu ti.ctx).isFull b
      let put (f : Bool) (s : State) : State := (s.setHalf ti.die ti.clu ti.ctx ((s.half ti.die ti.clu ti.ctx).setFull b f)).wakeSp ti.die ti.clu ti.ctx b
      let old := BitVec.ofNat 64 (leNat (s.spRead x.grp ea.toNat 8))
      (full = false → exec (.fill true o rd rs off) s = .next (fin (unl (put true (c.spWrite x.grp ea.toNat (leBytes 8 (x.reg rd).toNat)))))) ∧
      (full = true → s.spPoisoned x.grp ea.toNat 8 = false → exec (.take true o rd rs off) s = .next (fin ((unl (put false c)).modThr ti fun t => t.setReg rd old))) ∧
      (full = true → s.spPoisoned x.grp ea.toNat 8 = false → exec (.peek true o rd rs off) s = .next (fin ((unl c).modThr ti fun t => t.setReg rd old))) ∧
      (full = true → exec (.fill true o rd rs off) s = .next (c.park ti (op 0 true ea.toNat))) ∧
      (full = false → exec (.take true o rd rs off) s = .next (c.park ti (op 1 true ea.toNat)) ∧ exec (.peek true o rd rs off) s = .next (c.park ti (op 2 true ea.toNat))) ∧
      (full = true → exec (.empty true o rs off) s = .next ((put false s2).ordAcquire o).fall) ∧
      (full = false → exec (.empty true o rs off) s = .next (s2.ordAcquire o).fall)) ∧
    (s.issues ti → ∀ (pa rc a : Nat) (s1 : State), s.keyAt ea 8 .write subUpd = .ok (⟨pa, .host rc a⟩, s1) →
      ∀ i ∈ [Instr.fill false o rd rs off, .take false o rd rs off, .empty false o rs off], exec i s = .next (s.takeTrap tOp 0 s.cur.addr)) ∧
    (∀ (lin a : Nat) (v : W64), s.Inv → lin % 8 = 0 →
      let t := (s.barnFill lin v).wakeWord lin
      t.isFull lin = true ∧ leNat (t.mem.readN lin 8) = v.toNat ∧ (a < lin ∨ lin + 8 ≤ a → t.mem.read a = s.mem.read a ∧ t.isFull a = s.isFull a) ∧
      ((s.setFull lin false).isFull lin = false)) ∧
    (∀ f : FeOp, (s.thr s.cur.ev.ti).wait = .word f →
      (s.cur.ev.flag = false → f.listed = true → f.woken = true → s.canTurn s.cur.ev.ti = true → s.wokenBefore s.cur.ev.ti f f.ord = false → s.peerBefore f f.ord = false →
        exec .waiterRetry s = .next (s.feAct s.cur.ev.ti f)) ∧
      (s.cur.ev.flag = false → f.listed = true → f.woken = false → exec .waiterRetry s = .next s) ∧
      (f.listed = false → s.canTurn s.cur.ev.ti = true → s.wokenBefore s.cur.ev.ti f s.fresh = false → s.peerBefore f s.fresh = false →
        exec .waitListPoll s = .next (s.feAct s.cur.ev.ti f)))

/-- FENCE releases and acquires, SETTLE ends when nothing marked is left in its extent, WAIT ends within its limits (R91, R108, R116, R127,
R184, R185, R186). For every cluster thread. A release that is not cumulative asks, as it begins, for a merge of each run on the thread's
path inside the scope that holds entries. It is done at once when the thread has no load in flight, no update waiting and no own entry
inside the scope; otherwise the thread waits with its pc and memory unchanged, and RELEASE_COMPLETE marks it done when that holds. FENCE
completes with the acquire of its order once its release is done, waits until then, and raises IllegalInstruction without an order.
SETTLE.core completes at once (R116). SETTLE at a wider scope first waits until the thread's own formed updates have been inserted (log 38,
DEDUCED); it then completes at once over an extent with no entries, at device and system scope with nothing sent by the partition's dies and
with an acquire; with entries marked it completes exactly when none of them is left. WAIT completes when the counters are within L, U, C and
T and does the acquires of R127; WAIT.nb writes 1 then, and otherwise 0 without an acquire, but under DET it waits. -/
def Obligations.FencesSettleAndWait : Prop :=
  ∀ (ti : SlotId) (o : Ord) (sc : Scope) (rd : Reg) (lim : BitVec 16) (s : State), s.issues ti →
    let x := s.thr ti
    let p := s.partOf ti.die
    let path : List RunId := match o.sc with
      | .thread | .core => []
      | .clu => [.sheaf ti.die ti.clu ti.core]
      | .die => [.sheaf ti.die ti.clu ti.core, .stook ti.die ti.clu]
      | .dev | .sys => [.sheaf ti.die ti.clu ti.core, .stook ti.die ti.clu, .rick ti.die]
    let merges (t : State) : Prop :=
      (∀ r, (t.run r).ents = (s.run r).ents ∧ (t.run r).todo = (s.run r).todo) ∧ ∀ r ∈ path, (s.run r).ents ≠ [] → (t.run r).want = true
    let ok : Bool := decide (x.loads ≤ lim.toNat / 2 ^ 12) && decide (x.updates ≤ lim.toNat / 2 ^ 8 % 16) && decide (x.copies ≤ lim.toNat / 2 ^ 4 % 16) && decide (x.tiles ≤ lim.toNat % 16)
    (o.ord.isRel = false → s.ordRelease o = .ok s) ∧
    (o.ord.isRel = true → o.cum = false → o.sc ≠ .thread → x.ph.rel = 0 →
      (s.relReady ti o.sc false 0 = true → ∃ t, s.ordRelease o = .ok t ∧ t.mem = s.mem ∧ merges t ∧ (t.thr ti).ph.rel = 2 ∧ (t.thr ti).still = x.still ∧ (t.thr ti).pc = x.pc) ∧
      (s.relReady ti o.sc false 0 = false → ∃ t, s.ordRelease o = .error (.hold t) ∧ exec (.fence o) s = .next t ∧ t.mem = s.mem ∧ merges t ∧
        (t.thr ti).ph.rel = 1 ∧ (t.thr ti).pc = x.pc ∧ (t.thr ti).still = x.still)) ∧
    (o.ord ≠ .none → ∀ t, s.ordRelease o = .ok t → exec (.fence o) s = .next (t.ordAcquire o).fall) ∧
    (o.ord = .none → exec (.fence o) s = .next (s.takeTrap tIllegal 0 s.cur.addr)) ∧
    (exec (.settle .thread) s = .next (s.takeTrap tIllegal 0 s.cur.addr)) ∧
    (sc ≠ .thread → (sc = .core ∨ s.inserted ti = true) →
      let acq (s : State) : State := if sc = .dev ∨ sc = .sys then s.acquire ti.die .dev else s
      (x.ph.stage = 1 → s.settleLeft x.ph.mark p ti.die ti.clu sc = false → exec (.settle sc) s = .next (acq s).fall) ∧
      (x.ph.stage = 1 → s.settleLeft x.ph.mark p ti.die ti.clu sc = true →
        exec (.settle sc) s = .next (s.settleWant x.ph.mark p ti.die ti.clu sc)) ∧
      (x.ph.stage = 0 → (∀ r ∈ s.settleRuns p ti.die ti.clu sc, (s.run r).ents = []) → ((sc = .dev ∨ sc = .sys) → ∀ d ∈ s.partDies p, (s.die d).sent = []) →
        ∃ t, exec (.settle sc) s = .next t ∧ t.mem = s.mem ∧ (t.thr ti).pc = (x.fallThrough s.cur.addr s.cur.len).pc ∧
          (t.thr ti).still = x.still ∧ ((sc = .dev ∨ sc = .sys) → (t.die ti.die).granary = []))) ∧
    (∃ t, exec (.settle .core) s = .next t ∧ t.mem = s.mem ∧ t.runs = s.runs ∧ t.dies = s.dies ∧
      (t.thr ti).pc = (x.fallThrough s.cur.addr s.cur.len).pc ∧ (t.thr ti).still = x.still) ∧
    (sc ≠ .thread → sc ≠ .core → s.inserted ti = false → exec (.settle sc) s = .next s) ∧
    ((ok = true → exec (.wait false rd lim) s = .next (s.countOps ti).fall ∧ exec (.wait true rd lim) s = .next ((s.countOps ti).setReg rd 1#64).fall) ∧
      (ok = false → exec (.wait false rd lim) s = .next s) ∧
      (ok = false → x.det = false → exec (.wait true rd lim) s = .next (s.setReg rd 0#64).fall) ∧
      (ok = false → x.det = true → exec (.wait true rd lim) s = .next s)) ∧
    ((s.countOps ti).mem = s.mem ∧ ((s.countOps ti).thr ti) = { x with doneOps := [] } ∧
      (.dev ∈ x.doneOps ∨ .sys ∈ x.doneOps → ((s.countOps ti).die ti.die).granary = [])) ∧
    (∀ u : State, let y := u.thr u.cur.ev.ti
      (y.ph.rel = 1 → u.relReady u.cur.ev.ti y.ph.relSc y.ph.cum y.ph.mark = true →
        ∃ t, exec .releaseComplete u = .next t ∧ (t.thr u.cur.ev.ti).ph = { y.ph with rel := 2 } ∧ t.mem = u.mem ∧ t.runs = u.runs) ∧
      (y.ph.rel ≠ 1 ∨ u.relReady u.cur.ev.ti y.ph.relSc y.ph.cum y.ph.mark = false → exec .releaseComplete u = .next u))

/-- BAR waits for every live thread of the group, BARP for every thread of the mask that has not exited; then each goes on (R187, R188, R194).
For a thread of a group. A thread that has not arrived arrives once its release is done; it goes on in the same turn if that opens the
barrier, and otherwise waits; one that has arrived waits; one that an opening released goes on with the acquire of its order. The
whole-group barrier opens when every live thread has arrived, a named one when every thread of its mask has arrived or exited. BARP raises
IllegalOperation when the mask leaves the thread out, names a thread the group has not, or meets an open barrier of another tag or mask; BAR
and BARP raise it in a handler. -/
def Obligations.Barriers : Prop :=
  ∀ (ti : SlotId) (o : Ord) (rs rt : Reg) (s : State) (g : Group), s.issues ti → s.grp (s.thr ti).grp = some g →
    let x := s.thr ti
    let ix := x.tidx
    let id := (x.reg rs).toNat % 4
    let tag := (x.reg rs).toNat / 256 % 256
    let mask := x.reg rt
    let op : Out := .next (s.takeTrap tOp 0 s.cur.addr)
    let goBar (s : State) : State := ((s.modGrp x.grp fun g => { g with barRel := g.barRel.filter (· != ix) }).ordAcquire o).fall
    let goBarp (s : State) : State := ((s.modGrp x.grp fun g => { g with barpRel := g.barpRel.filter (· != (id, ix)) }).ordAcquire o).fall
    let arrive (g : Group) : Group := ({ g with barArr := g.barArr ++ [ix] } : Group).tryOpen
    let fresh : BarP := ⟨tag, mask, []⟩
    let join (g : Group) : Group :=
      let b := (aget? g.barps id).getD fresh
      ({ g with barps := aset g.barps id { b with arrived := b.arrived ++ [ix] } } : Group).tryOpen
    let named : Prop := mask.getLsbD ix = true ∧ ∀ i, g.n ≤ i → i < 64 → mask.getLsbD i = false
    let same : Prop := ∀ b, aget? g.barps id = some b → b.tag = tag ∧ b.mask = mask
    (x.kind ≠ .group → exec (.bar o) s = op ∧ exec (.barp o rs rt) s = op) ∧
    (x.kind = .group →
      (g.barRel.contains ix = true → exec (.bar o) s = .next (goBar s)) ∧
      (g.barRel.contains ix = false → g.barArr.contains ix = true → exec (.bar o) s = .next s) ∧
      (g.barRel.contains ix = false → g.barArr.contains ix = false → ∀ s2, s.barRelease o = .ok s2 →
        ((arrive g).barRel.contains ix = true → exec (.bar o) s = .next (goBar (s2.modGrp x.grp arrive))) ∧
        ((arrive g).barRel.contains ix = false → exec (.bar o) s = .next (s2.modGrp x.grp arrive)))) ∧
    (x.kind = .group → ix < 64 →
      (¬ named → exec (.barp o rs rt) s = op) ∧
      (named → g.barpRel.contains (id, ix) = true → exec (.barp o rs rt) s = .next (goBarp s)) ∧
      (named → g.barpRel.contains (id, ix) = false → ¬ same → exec (.barp o rs rt) s = op) ∧
      (named → g.barpRel.contains (id, ix) = false → same →
        (∀ b, aget? g.barps id = some b → b.arrived.contains ix = true → exec (.barp o rs rt) s = .next s) ∧
        (((aget? g.barps id).map fun b => b.arrived.contains ix) ≠ some true → ∀ s2, s.barRelease o = .ok s2 →
          ((join g).barpRel.contains (id, ix) = true → exec (.barp o rs rt) s = .next (goBarp (s2.modGrp x.grp join))) ∧
          ((join g).barpRel.contains (id, ix) = false → exec (.barp o rs rt) s = .next (s2.modGrp x.grp join))))) ∧
    (∀ h : Group, h.barps = [] →
      (h.barArr ≠ [] → (∀ i ∈ h.live, i ∈ h.barArr) → h.tryOpen.barArr = [] ∧ ∀ i, i ∈ h.tryOpen.barRel ↔ i ∈ h.barRel ∨ i ∈ h.barArr) ∧
      ((∃ i ∈ h.live, i ∉ h.barArr) → h.tryOpen = h)) ∧
    (∀ (h : Group) (k : Nat) (b : BarP), h.barArr = [] → h.barps = [(k, b)] →
      ((∀ i, i < 64 → b.mask.getLsbD i = true → i ∈ b.arrived ∨ i ∉ h.live) →
        h.tryOpen.barps = [] ∧ h.tryOpen.barpRel = h.barpRel ++ b.arrived.map fun i => (k, i)) ∧
      ((∃ i, i < 64 ∧ b.mask.getLsbD i = true ∧ i ∉ b.arrived ∧ i ∈ h.live) → h.tryOpen = h))

/-- CHPUSH fills and CHPOP takes the word of the handle, once the ring is bound, and moves the handle one item round the ring (R101, R190, R191,
R192, R194). For a thread of a group: a handle with LOG_N outside 1 to 12 or a reserved bit set raises IllegalOperation, and so does a ring
whose role is bound to another thread. Past its checks, bound and released, with no entry for the word left on its path and no poison:
CHPUSH of an empty word writes Reg(t) there, sets it full, writes the next handle to Reg(s) and completes; CHPOP of a full word writes its
value into Reg(d), empties it, writes the next handle and completes with its acquire; in the wrong state each parks with the handle
unchanged. The scratchpad rings do the same in the cluster. The next handle keeps bits [63:LOG_N+3] and steps its item index modulo 2^LOG_N.
The first push or pop of a ring binds its role while the table has room. That a ring is named by the physical address of its base,
translated on its own, is log 71 (a design choice); that the table is kept by base and context is log 34 (DEDUCED). -/
def Obligations.Channels : Prop :=
  ∀ (ti : SlotId) (o : Ord) (rs rt rd : Reg) (s : State), s.issues ti →
    let x := s.thr ti
    let h := x.reg rs
    let l := h.toNat / 2 ^ 56 % 16
    let a : W64 := BitVec.ofNat 64 (h.toNat % 2 ^ 56)
    let nx : W64 := BitVec.ofNat 64 (h.toNat / 2 ^ (l + 3) * 2 ^ (l + 3) + (h.toNat / 8 % 2 ^ l + 1) % 2 ^ l * 8)
    let base := h.toNat % 2 ^ 56 / 2 ^ (l + 3) * 2 ^ (l + 3)
    let key : ThreadKey := ⟨ti.die, ti.clu, ti.core⟩
    let bad : Out := .next (s.takeTrap tOp 0 s.cur.addr)
    let okHandle : Prop := 1 ≤ l ∧ l ≤ 12 ∧ h.toNat / 2 ^ 60 % 8 = 0
    let opo : Ord := { o with ord := if o.ord.isAcq then .acq else .none }
    let push (sp : Bool) (k : Nat) : FeOp := ⟨0, sp, k, 0, x.reg rt, if o.ord.isAcq then some o.sc else none, some (rs.toNat, nx), false, false, 0⟩
    let pop (sp : Bool) (k : Nat) : FeOp := ⟨1, sp, k, rd.toNat, 0#64, if opo.ord.isAcq then some o.sc else none, some (rs.toNat, nx), false, false, 0⟩
    let keep (s : State) : State := s.modThr ti fun t => { t with ph := { t.ph with len := s.cur.len } }
    let acq (s : State) : State := if o.ord.isAcq then s.acqAt ti o.sc else s
    let fin (s : State) : State := (acq (s.modThr ti fun t => t.setReg rs nx)).fallOf ti
    x.kind = .group →
    (¬ okHandle → exec (.chpush o rs rt) s = bad) ∧
    (¬ okHandle → rd ≠ rs → exec (.chpop o rd rs) s = bad) ∧
    (exec (.chpop o rs rs) s = .next (s.takeTrap tIllegal 0 s.cur.addr)) ∧
    (okHandle → h.getLsbD 63 = false → ∀ (pa lin b : Nat) (s1 s2 : State), DramAccess s ti a 8 .write subUpd pa s1 →
      s1.xlate (BitVec.ofNat 64 base) .write subUpd = .ok (b, s2) → s2.busyWords ti [wordOf pa] = false →
      let c (p : Bool) : Option State := s2.bindGlobal b ti.ctx p (s.binder ti)
      (c false = none → exec (.chpush o rs rt) s = bad) ∧ (rd ≠ rs → c true = none → exec (.chpop o rd rs) s = bad) ∧
      (∀ s3 s4, linOf pa = some lin → c false = some s3 → s3.ordRelease o = .ok s4 → key.quiet s4 (wordOf pa) → s4.isPoison lin = false →
        (s4.isFull lin = false → exec (.chpush o rs rt) s =
          .next (fin (((((keep s4).barnFill lin (x.reg rt)).wakeWord lin).afterBarn ti.die (wordOf pa)).unlist ti))) ∧
        (s4.isFull lin = true → exec (.chpush o rs rt) s = .next ((keep s4).park ti (push false pa)))) ∧
      (∀ s3 s4, rd ≠ rs → linOf pa = some lin → c true = some s3 → s3.ordRelease opo = .ok s4 → key.quiet s4 (wordOf pa) → s4.isPoison lin = false →
        (s4.isFull lin = true → exec (.chpop o rd rs) s =
          .next (fin ((((((keep s4).setFull lin false).wakeWord lin).afterBarn ti.die (wordOf pa)).unlist ti).modThr ti fun t =>
            t.setReg rd (BitVec.ofNat 64 (leNat (s.mem.readN lin 8)))))) ∧
        (s4.isFull lin = false → exec (.chpop o rd rs) s = .next ((keep s4).park ti (pop false pa))))) ∧
    (okHandle → h.getLsbD 63 = true → SpAccess s ti a 8 → ∀ b, s.spPhys x.grp a.toNat = some b →
      let full := (s.half ti.die ti.clu ti.ctx).isFull b
      let c (p : Bool) : Option State := s.bindSp ti (b - (a.toNat - base)) p
      let put (f : Bool) (s : State) : State := (s.setHalf ti.die ti.clu ti.ctx ((s.half ti.die ti.clu ti.ctx).setFull b f)).wakeSp ti.die ti.clu ti.ctx b
      (c false = none → exec (.chpush o rs rt) s = bad) ∧ (rd ≠ rs → c true = none → exec (.chpop o rd rs) s = bad) ∧
      (∀ s3 s4, c false = some s3 → s3.ordRelease o = .ok s4 →
        (full = false → exec (.chpush o rs rt) s = .next (fin ((put true ((keep s4).spWrite x.grp a.toNat (leBytes 8 (x.reg rt).toNat))).unlist ti))) ∧
        (full = true → exec (.chpush o rs rt) s = .next ((keep s4).park ti (push true a.toNat)))) ∧
      (∀ s3 s4, rd ≠ rs → c true = some s3 → s3.ordRelease opo = .ok s4 →
        (full = true → s.spPoisoned x.grp a.toNat 8 = false → exec (.chpop o rd rs) s = .next (fin (((put false (keep s4)).unlist ti).modThr ti fun t =>
          t.setReg rd (BitVec.ofNat 64 (leNat (s.spRead x.grp a.toNat 8)))))) ∧
        (full = false → exec (.chpop o rd rs) s = .next ((keep s4).park ti (pop true a.toNat))))) ∧
    (∀ (cap k b : Nat) (mine : Nat → Bool) (m : List (Nat × Bind)) (p : Bool) (w v : Nat × Nat × Nat),
      (aget? m k = none → (m.filter fun x => mine x.1).length < cap →
        ∃ m' y, bindIn cap mine m k b p w = some m' ∧ aget? m' k = some y ∧ (if p then y.rd else y.wr) = some w ∧
          (v ≠ w → bindIn cap mine m' k b p v = none) ∧ bindIn cap mine m' k b p w = some m') ∧
      (aget? m k = none → cap ≤ (m.filter fun x => mine x.1).length → bindIn cap mine m k b p w = some m))

/-- MRESOLVE retries, drops or commits the held entry its record names and writes 0, or writes 1 or 2 and changes nothing else (R104, R105,
R107, R193, R194). For a cluster thread whose record address is 64-byte aligned and whose load of HANDLE answers: HANDLE 0, or one that
names no held entry, writes status 1; an entry of the other context writes status 2 at user level; otherwise RETRY gives the entry the
register's lanes (for FSUM the exact cell) and clears HELD, DROP takes the entry out of its run, and COMMIT takes it out and brings REPLACE
of the register's lanes to the entry's destination, waiting while another entry there is held; each then writes status 0. An address that is
not aligned to 64 bytes raises Alignment (for an 8-aligned one this is the model's choice, log 71, as is the wait of a COMMIT whose
destination run has no slot). Nothing but rd, the entry and what the commit writes changes. -/
def Obligations.ResolvingHeldEntries : Prop :=
  ∀ (ti : SlotId) (rd rs : Reg) (s : State), s.issues ti →
    let x := s.thr ti
    let a := x.reg rs
    let v := x.reg rd
    let status (n : Nat) (s : State) : Out := .next (s.setReg rd (BitVec.ofNat 64 n)).fall
    (a.toNat % 64 ≠ 0 → ∀ i ∈ [Instr.mresolveRetry rd rs, .mresolveDrop rd rs, .mresolveCommit rd rs], exec i s = .next (s.takeTrap tAlign 0 a)) ∧
    (a.toNat % 64 = 0 → ∀ (hd : Nat) (s1 : State), s.fenLoad a 8 false = .ok (hd, s1) →
      (hd = 0 ∨ s1.heldBy hd = none → ∀ i ∈ [Instr.mresolveRetry rd rs, .mresolveDrop rd rs, .mresolveCommit rd rs], exec i s = status 1 s1) ∧
      (hd ≠ 0 → ∀ r e, s1.heldBy hd = some (r, e) →
        (e.ctx ≠ ti.ctx → x.sup = false →
          ∀ i ∈ [Instr.mresolveRetry rd rs, .mresolveDrop rd rs, .mresolveCommit rd rs], exec i s = status 2 s1) ∧
        (e.ctx = ti.ctx ∨ x.sup = true →
          let gone := s1.setRun r { s1.run r with ents := (s1.run r).ents.filter fun y => !decide (y = e) }
          let now (y : Entry) : State := s1.setRun r { s1.run r with ents := (s1.run r).ents.map fun z => if z = e then y else z }
          let mask := (List.range 8).foldl (fun m o => if e.be.getLsbD o then m + 255 * 2 ^ (8 * o) else m) 0
          (e.op ≠ .fsum → exec (.mresolveRetry rd rs) s = status 0 (now { e with held := false, val := BitVec.ofNat 64 (v.toNat &&& mask) })) ∧
          (e.op = .fsum → exec (.mresolveRetry rd rs) s = status 0 (now { e with
            held := false, cell := cellOf (laneFF e.width e.bf) (laneGet v.toNat (e.lanes.headD 0) e.width.bytes) })) ∧
          exec (.mresolveDrop rd rs) s = status 0 gone ∧
          let y : Entry := { e with op := .replace, width := .b, bf := false, held := false, val := BitVec.ofNat 64 (v.toNat &&& mask), cell := Cell.zero, pendHome := false, poison := false }
          let put : Put := if e.pendHome then State.put levels gone r y false else State.out levels gone r y
          (∀ t, put = .ok t → exec (.mresolveCommit rd rs) s = status 0 t) ∧
          (∀ t, put = .behind t → exec (.mresolveCommit rd rs) s = .next s1) ∧
          (∀ t, put = .noRoom t → exec (.mresolveCommit rd rs) s = .next s1))))

/-- Elementwise vector arithmetic writes each unmasked element from the elements as they stood, collects flags and moves pointers (R65, R196,
R197, R198, R199, R204, R205, R220, R364). For a cluster thread whose operands pass the checks of R197: VADD, VSUB, VMUL, VFMA, VMIN, VMAX,
VABS, VNEG, VAND, VOR, VXOR and VSHL complete, unless a source or mask word is poisoned, which contains the thread (R364; that scratchpad
words carry a mark and which words a masked read meets is log 46, a design choice). That all steps take effect in the step that issues is
log 31; they change only the destination's bytes, the flags and the post-incremented pointers, and hold the vector unit. Where every source
lies apart from the destination or starts with it, and the mask lies apart, every unmasked element is the operation of its own sources,
every masked one is as before, and the flags collect the OR. Integer sums, differences and products wrap modulo 2^w or clamp with SAT under
.sat (SAT and no NX: the model's choice, log 68). VAND, VOR, VXOR and VSHL of a float format raise IllegalInstruction. -/
def Obligations.VectorElementwise : Prop :=
  ∀ (ti : SlotId) (f : EFmt) (r : Rnd) (mk : Bool) (pd pa pb : PtrOp) (s : State), s.issues ti → f ≠ .q4x →
    let x := s.thr ti
    let n := f.bytes
    let k : VKind := .el n
    let d := s.vop k pd
    let a := fun i => s.elem (s.vop k pa) n i
    let b := fun i => s.elem (s.vop k pb) n i
    let runsOf (i : Instr) (ps : List PtrOp) (reads : List VOp) (g : Nat → Nat × Flags) : Prop :=
      let srcs := ps.map (s.vop k)
      s.vcheck (s.vmask mk ++ d :: srcs) = .ok () →
        (s.vread mk reads = .ok () → ∃ t, exec i s = .next t ∧
          VectorDone ti [] ((pd, k) :: ps.map fun p => (p, k)) [d] s t ∧
          ((∀ c ∈ srcs, c.apart d x.vl.toNat ∨ c.ptr = d.ptr) → (∀ m ∈ s.vmask mk, m.apart d x.vl.toNat) → VectorMap ti mk d n g s t)) ∧
        (s.vread mk reads ≠ .ok () → exec i s = .next (s.consume ti sramPa))
    let runs (i : Instr) (ps : List PtrOp) (g : Nat → Nat × Flags) : Prop := runsOf i ps (ps.map (s.vop k)) g
    runs (.vadd f r mk pd pa pb) [pa, pb] (fun i => elAdd f r x.ftz (a i) (b i)) ∧
    runs (.vsub f r mk pd pa pb) [pa, pb] (fun i => elSub f r x.ftz (a i) (b i)) ∧
    runs (.vmul f r mk pd pa pb) [pa, pb] (fun i => elMul f r x.ftz (a i) (b i)) ∧
    runsOf (.vfma f r mk pd pa pb) [pa, pb] [s.vop k pa, s.vop k pb, d] (fun i => elFma f r x.ftz (a i) (b i) (s.elem d n i)) ∧
    runs (.vmin f mk pd pa pb) [pa, pb] (fun i => elMinMax false f x.ftz (a i) (b i)) ∧
    runs (.vmax f mk pd pa pb) [pa, pb] (fun i => elMinMax true f x.ftz (a i) (b i)) ∧
    runs (.vabs f r mk pd pa) [pa] (fun i => elAbs f r (a i)) ∧
    runs (.vneg f r mk pd pa) [pa] (fun i => elNeg f r (a i)) ∧
    (f.isInt = true →
      runs (.vand f mk pd pa pb) [pa, pb] (fun i => (a i &&& b i, Flags.no)) ∧
      runs (.vor f mk pd pa pb) [pa, pb] (fun i => (a i ||| b i, Flags.no)) ∧
      runs (.vxor f mk pd pa pb) [pa, pb] (fun i => (a i ^^^ b i, Flags.no)) ∧
      runs (.vshl f r mk pd pa pb) [pa, pb] (fun i => elShl f r (a i) (b i))) ∧
    (f.isInt = false → ∀ i ∈ [Instr.vand f mk pd pa pb, .vor f mk pd pa pb, .vxor f mk pd pa pb, .vshl f r mk pd pa pb],
      exec i s = .next (s.takeTrap tIllegal 0 s.cur.addr)) ∧
    (∀ u v : Nat, f.isInt = true → u < 2 ^ (8 * n) → v < 2 ^ (8 * n) →
      let z := sint (8 * n)
      let wrap (e : Int) : Nat := (e % (2 ^ (8 * n) : Nat)).toNat
      let top : Int := (2 ^ (8 * n - 1) : Nat) - 1
      let bot : Int := -((2 ^ (8 * n - 1) : Nat) : Int)
      let clamp (e : Int) : Nat × Flags := if top < e then (wrap top, Flags.SAT) else if e < bot then (wrap bot, Flags.SAT) else (wrap e, Flags.no)
      (r ≠ .sat → elAdd f r x.ftz u v = (wrap (z u + z v), Flags.no) ∧ elSub f r x.ftz u v = (wrap (z u - z v), Flags.no) ∧
        elMul f r x.ftz u v = (wrap (z u * z v), Flags.no) ∧ elNeg f r u = (wrap (-(z u)), Flags.no)) ∧
      elAdd f .sat x.ftz u v = clamp (z u + z v) ∧ elSub f .sat x.ftz u v = clamp (z u - z v) ∧
      elMul f .sat x.ftz u v = clamp (z u * z v) ∧ elNeg f .sat u = clamp (-(z u)))

/-- Compares, reductions, VSCAN, VFILL, VCOPY, VSEL, VNNZ, VCVT and the transcendentals give the bits, values and elements of their rules (R72,
R197, R199, R206, R207, R208, R209, R210, R211, R218, R219, R364). For a cluster thread whose operands pass R197 and read no poisoned word,
each completes, changes only its destination's bytes or register, the flags and the pointers, and holds the vector unit. With the
destination apart from the sources and the mask: a compare writes bit i as the comparison of element i, 0 when masked and 0 above vl; VFILL,
VCOPY, VSEL, VCVT and the transcendentals write each unmasked element; VNNZ writes the bit of each unmasked nonzero element and counts them
into rd. VSUM and VDOT of integers write the sum modulo 2^64 and of floats the group sums of R208; VMAXR writes the greatest unmasked
element; VSCAN of integers writes the inclusive prefix sums. A source or mask word that is poisoned contains the thread instead, for every
one of these forms (R364; that scratchpad words carry a mark is log 46, a design choice). VNNZ's count and bits are R212. VCVT to the format
of its source raises IllegalInstruction. -/
def Obligations.VectorComparesReductionsAndMoves : Prop :=
  ∀ (ti : SlotId) (f g : EFmt) (r : Rnd) (mk : Bool) (rd rs : Reg) (pd pa pb : PtrOp) (s : State), s.issues ti → f ≠ .q4x →
    let x := s.thr ti
    let vl := x.vl.toNat
    let n := f.bytes
    let k : VKind := .el n
    let d := s.vop k pd
    let va := s.vop k pa
    let vb := s.vop k pb
    let a := fun i => s.elem va n i
    let b := fun i => s.elem vb n i
    let on := (List.range vl).filter fun i => s.unmasked mk i
    let orF (g : Nat → Flags) (ix : List Nat) : Flags := ix.foldl (fun fl i => fl ||| g i) x.flags
    let maps (i : Instr) (ms : List VOp) (mk : Bool) (d : VOp) (m : Nat) (srcs : List VOp) (bumps : List (PtrOp × VKind)) (h : Nat → Nat × Flags) : Prop :=
      s.vcheck (ms ++ d :: srcs) = .ok () →
        ((if mk then s.vread true srcs else s.vread false (ms ++ srcs)) = .ok () → ∃ t, exec i s = .next t ∧ VectorDone ti [] bumps [d] s t ∧
          ((∀ c ∈ ms ++ srcs, c.apart d vl) → VectorMap ti mk d m h s t)) ∧
        ((if mk then s.vread true srcs else s.vread false (ms ++ srcs)) ≠ .ok () → exec i s = .next (s.consume ti sramPa))
    let stops (i : Instr) (ops reads : List VOp) : Prop :=
      s.vcheck ops = .ok () → s.vread mk reads ≠ .ok () → exec i s = .next (s.consume ti sramPa)
    let bitmap (t : State) (p : VOp) (h : Nat → Bool) : Prop :=
      ∀ i, i < (vl + 7) / 8 * 8 → t.bitAt p.ptr i = (decide (i < vl) && s.unmasked mk i && h i)
    let compares (i : Instr) (op : CmpOp) : Prop :=
      let p := s.vop .bits pd
      stops i (s.vmask mk ++ [p, va, vb]) [va, vb] ∧
      (s.vcheck (s.vmask mk ++ [p, va, vb]) = .ok () → s.vread mk [va, vb] = .ok () → ∃ t, exec i s = .next t ∧
        VectorDone ti [] [(pd, .bits), (pa, k), (pb, k)] [p] s t ∧
        ((∀ c ∈ s.vmask mk ++ [va, vb], c.apart p vl) →
          bitmap t p (fun i => (elCmp op f x.ftz (a i) (b i)).1) ∧ (t.thr ti).flags = orF (fun i => (elCmp op f x.ftz (a i) (b i)).2) on))
    let reduces (i : Instr) (ops : List VOp) (bumps : List (PtrOp × VKind)) (v : W64) (fl : Flags) : Prop :=
      stops i (s.vmask mk ++ ops) ops ∧
      (s.vcheck (s.vmask mk ++ ops) = .ok () → s.vread mk ops = .ok () → ∃ t, exec i s = .next t ∧ VectorDone ti [rd] bumps [] s t ∧
        (rd ≠ 24#5 → (t.thr ti).reg rd = v) ∧ (t.thr ti).flags = x.flags ||| fl)
    let sum (h : Nat → Int) : Int := on.foldl (fun c i => c + h i) 0
    let some' (h : Nat → Sys2Proof.Machine.Num × Flags) : Nat → Option (Sys2Proof.Machine.Num × Flags) := fun i => if s.unmasked mk i then some (h i) else none
    let z := sint (8 * n)
    compares (.vcmpeq f mk pd pa pb) .eq ∧ compares (.vcmpne f mk pd pa pb) .ne ∧
    compares (.vcmplt f mk pd pa pb) .lt ∧ compares (.vcmple f mk pd pa pb) .le ∧
    (f.isInt = true → ∀ u v : Nat, elCmp .eq f x.ftz u v = (decide (z u = z v), Flags.no) ∧ elCmp .ne f x.ftz u v = (decide (z u ≠ z v), Flags.no) ∧
      elCmp .lt f x.ftz u v = (decide (z u < z v), Flags.no) ∧ elCmp .le f x.ftz u v = (decide (z u ≤ z v), Flags.no)) ∧
    (f.isInt = true → reduces (.vsum f r mk rd pa) [va] [(pa, k)] (BitVec.ofInt 64 (sum fun i => z (a i))) Flags.no ∧
      reduces (.vdot f r mk rd pa pb) [va, vb] [(pa, k), (pb, k)] (BitVec.ofInt 64 (sum fun i => z (a i) * z (b i))) Flags.no ∧
      reduces (.vmaxr f mk rd pa) [va] [(pa, k)] (BitVec.ofInt 64 (on.foldl (fun m i => max m (z (a i))) (-((2 ^ (8 * n - 1) : Nat) : Int)))) Flags.no) ∧
    (f.isInt = false →
      (let q := sumGroups r x.ftz (some' fun i => ((elemValue f x.ftz (a i)).quiet, Flags.when (elemValue f x.ftz (a i)).sig Flags.NV)) vl
       reduces (.vsum f r mk rd pa) [va] [(pa, k)] (BitVec.ofNat 64 q.1) q.2) ∧
      (let q := sumGroups r x.ftz (some' fun i => (elemValue f x.ftz (a i)).mul (elemValue f x.ftz (b i))) vl
       reduces (.vdot f r mk rd pa pb) [va, vb] [(pa, k), (pb, k)] (BitVec.ofNat 64 q.1) q.2) ∧
      (let vs := on.map fun i => elemValue f x.ftz (a i)
       let q := f.ff.round .rne (x.ftz && f.ftzOn) (vs.foldl Sys2Proof.Machine.Num.maximum (.inf true)).quiet
       reduces (.vmaxr f mk rd pa) [va] [(pa, k)] (BitVec.ofNat 64 q.1) (q.2 ||| Flags.when (vs.any Sys2Proof.Machine.Num.sig) Flags.NV))) ∧
    stops (.vscan f r mk pd pa) (s.vmask mk ++ [d, va]) [va] ∧
    (s.vcheck (s.vmask mk ++ [d, va]) = .ok () → s.vread mk [va] = .ok () → ∃ t, exec (.vscan f r mk pd pa) s = .next t ∧ VectorDone ti [] [(pd, k), (pa, k)] [d] s t ∧
      (f.isInt = true → r ≠ .sat → (va.apart d vl ∨ va.ptr = d.ptr) → (∀ m ∈ s.vmask mk, m.apart d vl) →
        VectorMap ti mk d n (fun i => (((on.filter (· ≤ i)).foldl (fun c j => c + a j) 0) % 2 ^ (8 * n), Flags.no)) s t)) ∧
    maps (.vfill f mk pd rs) (s.vmask mk) mk d n [] [(pd, k)] (fun _ => ((x.reg rs).toNat % 2 ^ (8 * n), Flags.no)) ∧
    maps (.vcopy f mk pd pa) (s.vmask mk) mk d n [va] [(pd, k), (pa, k)] (fun i => (a i, Flags.no)) ∧
    maps (.vsel f pd pa pb) [⟨.bits, x.ptr 7#3⟩] false d n [va, vb] [(pd, k), (pa, k), (pb, k)]
      (fun i => (if s.bitAt (x.ptr 7#3) i then a i else b i, Flags.no)) ∧
    (g ≠ f → g ≠ .q4x → maps (.vcvt f g r mk pd pa) (s.vmask mk) mk (s.vop (.el g.bytes) pd) g.bytes [va] [(pd, .el g.bytes), (pa, k)]
      (fun i => let q := cvtTo g r x.ftz (elemValue f x.ftz (a i))
        (q.1, if f = .fe4 ∧ (elemValue f x.ftz (a i)).isNan = true then Flags.no else q.2))) ∧
    (exec (.vcvt g g r mk pd pa) s = .next (s.takeTrap tIllegal 0 s.cur.addr)) ∧
    (∀ i fn, (i, fn) ∈ [(Instr.vexp2 f mk pd pa, TFn.exp2), (.vlog2 f mk pd pa, .log2), (.vrcp f mk pd pa, .rcp), (.vrsqrt f mk pd pa, .rsqrt),
        (.vsin2pi f mk pd pa, .sin2pi), (.vtanh f mk pd pa, .tanh)] →
      maps i (s.vmask mk) mk d n [va] [(pd, k), (pa, k)] (fun i => elTrans fn f x.ftz (a i))) ∧
    (let p := s.vop .bits pb
     stops (.vnnz f mk rd pa pb) (s.vmask mk ++ [va, p]) [va] ∧
     (s.vcheck (s.vmask mk ++ [va, p]) = .ok () → s.vread mk [va] = .ok () → (∀ c ∈ s.vmask mk ++ [va], c.apart p vl) → ∃ t, exec (.vnnz f mk rd pa pb) s = .next t ∧
      VectorDone ti [rd] [(pa, k), (pb, .bits)] [p] s t ∧ bitmap t p (fun i => elNonzero f (a i)) ∧
      (rd ≠ 24#5 → (t.thr ti).reg rd = BitVec.ofNat 64 (on.filter fun i => elNonzero f (a i)).length) ∧ (t.thr ti).flags = x.flags))

/-- VLD and VGATH start one load of all unmasked elements, VST, VUPD and VSCAT form one update per unmasked element; beats read the sources
(R87, R88, R197, R200, R202, R214, R215, R216, R217, R364). For a cluster thread whose scratchpad operands pass R197, whose base is a
multiple of n below 2^56 and whose unmasked elements all translate: VLD (element i at Reg(s)+i·n) and VGATH (at Reg(t)+idx·n) keep one load
in flight with a destination per element, raise LOADS by one, move the pointers and complete. Once the release is done, VST, VUPD and VSCAT
form one update per unmasked element in element order whose source is the element in scratchpad, raise UPDATES by one, move the pointers,
hold the vector unit and complete; while the release waits they keep the keys they have translated, and go on with those. Past the checks of
the operands and of the base, a poisoned mask or index word contains the thread instead (R364; log 46, a design choice). VSCAT looks at its
descriptor before the base's alignment (log 64). No memory byte, register or flag changes. VLOAD_COMPLETE writes each of the elements it is
given (how many is the model's piece, log 11) that can be read, passes over one that waits, and takes one from LOADS when every element is
written. A VECTOR_BEAT grants a beat that the banks have room for and reads its sources. -/
def Obligations.VectorLoadsAndUpdates : Prop :=
  ∀ (ti : SlotId) (wd : Width) (op : KOp) (f : EFmt) (mk : Bool) (o : Ord) (pd pa : PtrOp) (rs : Reg) (s : State), s.issues ti →
    let x := s.thr ti
    let core := (ti.die, ti.clu, ti.core)
    let b := x.reg rs
    let on := (List.range x.vl.toNat).filter fun i => s.unmasked mk i
    let ix := s.vop (.el 4) pa
    let lin (n : Nat) : List (Nat × W64) := on.map fun i => (i, b + BitVec.ofNat 64 (n * i))
    let idx (n : Nat) (base : W64) : List (Nat × W64) := on.map fun i => (i, base + BitVec.ofNat 64 (n * s.elem ix 4 i))
    let same (t : State) : Prop := t.mem = s.mem ∧ (∀ tj, tj ≠ ti → t.thr tj = s.thr tj) ∧ (∀ pl, (t.thr ti).atPlace pl = x.atPlace pl) ∧
      (t.thr ti).flags = x.flags ∧ (t.thr ti).pc = (x.fallThrough s.cur.addr s.cur.len).pc ∧ t.full = s.full ∧ t.halves = s.halves
    let loads (i : Instr) (wx : Width) (ops : List VOp) (ad : List (Nat × W64)) (base : W64) (bumps : List (PtrOp × VKind)) (reads : List VOp) : Prop :=
      let d := s.vop (.el wx.bytes) pd
      (s.vcheck (s.vmask mk ++ ops) = .ok () → base.toNat % wx.bytes = 0 → base.toNat < 2 ^ 56 → s.vread mk reads ≠ .ok () → exec i s = .next (s.consume ti sramPa)) ∧
      ∀ ks s1, s.vcheck (s.vmask mk ++ ops) = .ok () → s.vread mk reads = .ok () → base.toNat % wx.bytes = 0 → base.toNat < 2 ^ 56 →
        s.keysAt wx.bytes .read subLoad ad = .ok (ks, s1) → s1.busyWords ti (ks.map fun y => wordOf y.2.pa) = false →
        ∃ t, exec i s = .next t ∧ same t ∧ t.ins = s.ins ∧ (t.thr ti).loads = x.loads + 1 ∧ (t.thr ti).updates = x.updates ∧
          (t.thr ti).p = (bumps.foldl (fun y q => y.bump q.1 q.2) x).p ∧
          ∃ es : List LElem, t.loads = s.loads ++ [{ id := t.fresh - 1, ti := ti, uid := x.uid, grp := x.grp, reg := none, signed := false, width := wx, acq := none, elems := es }] ∧
            es.map (fun e => (e.key, e.dst, e.ans, e.done)) = ks.map (fun y => (y.2.pa, d.addr + wx.bytes * y.1, none, false)) ∧
            ((∀ y ∈ ks, ∀ d a, y.2.cls ≠ .peer d a) → ∀ e ∈ es, e.req = 0)
    let forms (i : Instr) (op : KOp) (wx : Width) (bf : Bool) (ops : List VOp) (ad : List (Nat × W64)) (base : W64) (bumps : List (PtrOp × VKind)) (reads : List VOp) : Prop :=
      let d := s.vop (.el wx.bytes) pd
      (s.vcheck (s.vmask mk ++ ops) = .ok () → base.toNat % wx.bytes = 0 → base.toNat < 2 ^ 56 → x.ph.rel = 0 → s.vread mk reads ≠ .ok () →
        exec i s = .next (s.consume ti sramPa)) ∧
      ∀ ks s1, s.vcheck (s.vmask mk ++ ops) = .ok () → base.toNat % wx.bytes = 0 → base.toNat < 2 ^ 56 →
        (x.ph.rel = 0 ∧ s.vread mk reads = .ok () ∧ s.keysAt wx.bytes .write subUpd ad = .ok (ks, s1)) ∨ (x.ph.rel ≠ 0 ∧ ks = s.keptKeys x.ph.copied ∧ s1 = s) →
        (∀ y ∈ ks, ∃ l, y.2.cls = .dram l) → s1.busyWords ti (ks.map fun y => wordOf y.2.pa) = false →
        (∀ s2, (s1.keepKeys ks).ordRelease o = .error (.hold s2) → exec i s = .next s2) ∧
        ∀ s2, (s1.keepKeys ks).ordRelease o = .ok s2 →
        ∃ t, exec i s = .next t ∧ same t ∧ t.loads = s.loads ∧ (t.thr ti).updates = x.updates + (if ks = [] then 0 else 1) ∧ (t.thr ti).loads = x.loads ∧
          (t.thr ti).p = (bumps.foldl (fun y q => y.bump q.1 q.2) x).p ∧ (aget? t.vunit core).map (·.ti) = some ti ∧
          aget [] t.ins core = aget [] s.ins core ++ ks.map fun y =>
            { ti := ti, owner := s.owner ti, uop := s2.fresh, key := y.2.pa, op := op, width := wx, bf := bf, ctx := ti.ctx, qtag := s.qtagOf ti, src := .sp x.grp (d.addr + wx.bytes * y.1), req := 0, stands := false }
    let dOf (wx : Width) : VOp := s.vop (.el wx.bytes) pd
    let dbase : W64 := BitVec.ofNat 64 (b.toNat % 2 ^ 56)
    loads (.vld wd mk pd rs) wd [dOf wd] (lin wd.bytes) b [(pd, .el wd.bytes)] [] ∧
    loads (.vgath wd mk pd pa rs) wd [dOf wd, ix] (idx wd.bytes b) b [(pd, .el wd.bytes), (pa, .el 4)] [ix] ∧
    forms (.vst wd mk o pd rs) .replace wd false [dOf wd] (lin wd.bytes) b [(pd, .el wd.bytes)] [] ∧
    (vupdOk op f = true → forms (.vupd op f mk o pd rs) op (vupdWidth f) (f == .bf16) [dOf (vupdWidth f)] (lin (vupdWidth f).bytes) b [(pd, .el (vupdWidth f).bytes)] []) ∧
    (vupdOk op f = false → exec (.vupd op f mk o pd rs) s = .next (s.takeTrap tIllegal 0 s.cur.addr)) ∧
    (let bf := b.getLsbD 61
     let good : Bool := opWidthOk op wd && (!bf || (wd == .h && (op == .fsum || op == .fmin || op == .fmax))) && b.toNat / 2 ^ 62 == 0 && !(op == .fadd64 && x.det)
     kopOf (b.toNat / 2 ^ 56 % 32) = some op →
      (good = true → forms (.vscat wd mk o pd pa rs) op wd bf [dOf wd, ix] (idx wd.bytes dbase) dbase [(pd, .el wd.bytes), (pa, .el 4)] [ix]) ∧
      (good = false → s.vcheck (s.vmask mk ++ [dOf wd, ix]) = .ok () → exec (.vscat wd mk o pd pa rs) s = .next (s.takeTrap tOp 0 s.cur.addr))) ∧
    (kopOf (b.toNat / 2 ^ 56 % 32) = none → s.vcheck (s.vmask mk ++ [dOf wd, ix]) = .ok () →
      exec (.vscat wd mk o pd pa rs) s = .next (s.takeTrap tOp 0 s.cur.addr)) ∧
    (∀ (u u' : State) (l : LoadOp) (es : List LElem), (u.loads.find? fun l => l.id == u.cur.ev.q && l.reg.isNone) = some l →
      u.loadElemsOf l u.cur.ev.u (u.cur.ev.n + 1) l.elems = (u', es, none) →
        (es.all (·.done) = true → (u.thr l.ti).uid = l.uid → ∃ t, exec .vloadComplete u = .next t ∧
          (t.thr l.ti).loads = (u.thr l.ti).loads - 1 ∧ (∀ y ∈ t.loads, y.id ≠ l.id) ∧ t.mem = u.mem ∧ (∀ tj, tj ≠ l.ti → t.thr tj = u.thr tj) ∧ t.halves = u'.halves) ∧
        (es.all (·.done) = false → exec .vloadComplete u = .next { u' with loads := u'.loads.map fun y => if y.id = l.id then { y with elems := es } else y })) ∧
    (∀ (u u' : State) (l : LoadOp) (e : LElem) (v : Nat), e.done = false → (u.thr l.ti).uid = l.uid →
      (u.loadElem l.ti l.width.bytes e = .ok v u' → (u'.thr l.ti).uid = l.uid →
        u.loadElemsOf l 0 1 [e] = (u'.spWrite l.grp e.dst (leBytes l.width.bytes v), [{ e with done := true }], none)) ∧
      (u.loadElem l.ti l.width.bytes e = .wait → u.loadElemsOf l 0 1 [e] = (u, [e], none))) ∧
    (∀ (u : State) (c n : Nat) (v : VUnit) (acc : List Nat) (rest : List (List Nat × Nat)),
      let k := (u.cur.ev.die, u.cur.ev.clu, c)
      c < 4 → (∀ j, j < 4 → j ≠ c → aget? u.vunit (u.cur.ev.die, u.cur.ev.clu, j) = none) →
      aget? u.vunit k = some v → v.beats = (acc, n) :: rest → (∀ y ∈ acc, y ≤ 2) → u.cur.ev.wr = [] →
      ∀ us, readSources u v.uop n (aget [] u.ins k) false = (us, false) → ∃ t, exec .vectorBeat u = .next t ∧
        t.mem = u.mem ∧ t.slots = u.slots ∧ aget [] t.ins k = us ∧
        (rest ≠ [] → aget? t.vunit k = some { v with beats := rest }) ∧ (rest = [] → aget? t.vunit k = none))

/-- CVT in its three forms, PSET, PGET and PADD act in their issue slot; the .q4x forms of VCOPY, VNNZ and VCVT work by whole blocks (R64, R66,
R67, R68, R72, R73, R211, R212, R213, R218). For a cluster thread: CVT converts the low bytes of Reg(s), collects the flags (none for an FE4
NaN) and writes rd, sign-extended for an integer and zero-extended for a float target; to FP64 all 64 bits, from FP64 all 64 bits read; a
.q4x or equal format raises IllegalInstruction. PSET writes a pointer, PADD adds to it modulo 2^32, PGET reads it. None of them touches
memory, scratchpad or the vector unit. With vl a multiple of 32 and destinations apart and no poisoned word read: a .q4x VCOPY copies each
block that has an unmasked element; VNNZ decodes each block and marks its nonzero elements; VCVT from .q4x writes the decoded unmasked
elements, and to .q4x writes the encoding of each block that has an unmasked element, masked elements entering as 0. -/
def Obligations.ConversionsPointersAndQ4X : Prop :=
  ∀ (ti : SlotId) (f g : EFmt) (r : Rnd) (p : BitVec 3) (mk : Bool) (rd rs : Reg) (pd pa : PtrOp) (s : State), s.issues ti →
    let x := s.thr ti
    let vl := x.vl.toNat
    let v := x.reg rs
    let low (f : EFmt) : Nat := v.toNat % 2 ^ (8 * f.bytes)
    let ext (f : EFmt) (c : Nat) : W64 := if f.isInt then sext64 (8 * f.bytes) c else BitVec.ofNat 64 c
    let done (w : W64) (fl : Flags) : Out := .next ((s.modThr ti fun t => { t with flags := t.flags ||| fl }).setReg rd w).fall
    let bad : Out := .next (s.takeTrap tIllegal 0 s.cur.addr)
    (f ≠ g → f ≠ .q4x → g ≠ .q4x →
      exec (.cvt f g r rd rs) s = done (ext g (cvtTo g r x.ftz (elemValue f x.ftz (low f))).1)
        (if f = .fe4 ∧ (elemValue f x.ftz (low f)).isNan = true then Flags.no else (cvtTo g r x.ftz (elemValue f x.ftz (low f))).2)) ∧
    (f = g ∨ f = .q4x ∨ g = .q4x → exec (.cvt f g r rd rs) s = bad) ∧
    (f ≠ .q4x → exec (.cvtToF64 f r rd rs) s =
      done (BitVec.ofNat 64 (ff64.round r false (elemValue f x.ftz (low f))).1) (ff64.round r false (elemValue f x.ftz (low f))).2) ∧
    (g ≠ .q4x → exec (.cvtFromF64 g r rd rs) s = done (ext g (cvtTo g r x.ftz (ff64.value v.toNat)).1) (cvtTo g r x.ftz (ff64.value v.toNat)).2) ∧
    (exec (.cvtToF64 .q4x r rd rs) s = bad ∧ exec (.cvtFromF64 .q4x r rd rs) s = bad) ∧
    (exec (.pset p rs) s = .next (s.modThr ti fun t => { t with p := t.p.set p.toNat (BitVec.ofNat 32 v.toNat) p.isLt }).fall) ∧
    (exec (.padd p rs) s = .next (s.modThr ti fun t => { t with p := t.p.set p.toNat (t.p[p.toNat]'p.isLt + BitVec.ofNat 32 v.toNat) p.isLt }).fall) ∧
    (exec (.pget rd p) s = .next (s.setReg rd (BitVec.ofNat 64 (x.p[p.toNat]'p.isLt).toNat)).fall) ∧
    (∀ i ∈ [Instr.cvt f g r rd rs, .cvtToF64 f r rd rs, .cvtFromF64 g r rd rs, .pget rd p], f ≠ g → f ≠ .q4x → g ≠ .q4x → ∀ t, exec i s = .next t →
      OnlyThread ti s t ∧ ∀ pl, pl < 136 → pl ≠ x.place rd → (t.thr ti).atPlace pl = x.atPlace pl) ∧
    (let d := s.vop .q4x pd
     let a := s.vop .q4x pa
     let wb := s.vop .bits pd
     let e := s.vop (vkind g) pd
     let c := s.vop (vkind g) pa
     let any (b : Nat) : Bool := (List.range 32).any fun i => s.unmasked mk (32 * b + i)
     let dec (i : Nat) : Sys2Proof.Machine.Num := (q4xDecode (s.blockAt a (i / 32))).1.getD (i % 32) Sys2Proof.Machine.Num.zero
     let bads : Flags := (List.range (vl / 32)).foldl (fun fl b => fl ||| Flags.when (any b && (q4xDecode (s.blockAt a b)).2) Flags.FORMAT) x.flags
     vl % 32 = 0 →
      (s.vcheck (s.vmask mk ++ [d, a]) = .ok () → s.vread mk [a] = .ok () → (∀ m ∈ s.vmask mk ++ [a], m.apart d vl) → ∃ t, exec (.vcopy .q4x mk pd pa) s = .next t ∧
        VectorDone ti [] [(pd, .q4x), (pa, .q4x)] [d] s t ∧ (t.thr ti).flags = x.flags ∧
        ∀ b, b < vl / 32 → t.blockAt d b = if any b then s.blockAt a b else s.blockAt d b) ∧
      (s.vcheck (s.vmask mk ++ [a, wb]) = .ok () → s.vread mk [a] = .ok () → (∀ m ∈ s.vmask mk ++ [a], m.apart wb vl) → ∃ t, exec (.vnnz .q4x mk rd pa pd) s = .next t ∧
        VectorDone ti [rd] [(pa, .q4x), (pd, .bits)] [wb] s t ∧ (t.thr ti).flags = bads ∧
        (∀ i, i < vl → t.bitAt wb.ptr i = (s.unmasked mk i && !(dec i).isZero)) ∧
        (rd ≠ 24#5 → (t.thr ti).reg rd = BitVec.ofNat 64 ((List.range vl).filter fun i => s.unmasked mk i && !(dec i).isZero).length)) ∧
      (g ≠ .q4x → s.vcheck (s.vmask mk ++ [e, a]) = .ok () → s.vread mk [a] = .ok () → (∀ m ∈ s.vmask mk ++ [a], m.apart e vl) → ∃ t, exec (.vcvt .q4x g r mk pd pa) s = .next t ∧
        VectorDone ti [] [(pd, vkind g), (pa, .q4x)] [e] s t ∧
        ∀ i, i < vl → t.elem e g.bytes i = if s.unmasked mk i then (cvtTo g r x.ftz (dec i)).1 % 2 ^ (8 * g.bytes) else s.elem e g.bytes i) ∧
      (g ≠ .q4x → s.vcheck (s.vmask mk ++ [d, c]) = .ok () → s.vread mk [c] = .ok () → (∀ m ∈ s.vmask mk ++ [c], m.apart d vl) → ∃ t, exec (.vcvt g .q4x r mk pd pa) s = .next t ∧
        VectorDone ti [] [(pd, .q4x), (pa, vkind g)] [d] s t ∧
        ∀ b, b < vl / 32 → t.blockAt d b = if any b then
          (q4xEncode ((List.range 32).map fun i => if s.unmasked mk (32 * b + i) then elemValue g x.ftz (s.elem c g.bytes (32 * b + i)) else Sys2Proof.Machine.Num.zero) r).1 % 2 ^ 144
          else s.blockAt d b))

/-- Every vector instruction checks the .q4x length, then alignment, then range, reporting the lowest faulting address, then the global base
(R56, R196, R197, R214, R215, R216, R218, R220). For a cluster thread: a vector instruction one of whose operands is misaligned raises
Alignment at the lowest misaligned pointer; with all aligned, one with an invalid byte raises ScratchpadRange at the lowest invalid byte;
each on the state before the instruction, masked elements included. With these passed, and before any mask or index word is read, VLD,
VGATH, VST, VUPD and VSCAT whose base is no multiple of n raise Alignment, and one at or above 2^56 raises Translation, at the base (VSCAT's
base is bits [55:0] of its descriptor, which must be good first: log 64). VUPD of an operator its format has not, and VCVT to its source's
format, raise IllegalInstruction first. A .q4x operand with vl no multiple of 32 raises IllegalOperation before either. The check passes
exactly when every operand is aligned and valid. -/
def Obligations.VectorChecks : Prop :=
  ∀ (ti : SlotId) (op : KOp) (f g : EFmt) (r : Rnd) (wd : Width) (mk : Bool) (o : Ord) (rd rs : Reg) (pd pa pb : PtrOp) (s : State), s.issues ti →
    let x := s.thr ti
    let vl := x.vl.toNat
    let k := vkind f
    let m := s.vmask mk
    let d := s.vop k pd
    let a := s.vop k pa
    let b := s.vop k pb
    let pbit := s.vop .bits pd
    let e := s.vop (.el wd.bytes) pd
    let ix := s.vop (.el 4) pa
    let ud := s.vop (.el (vupdWidth f).bytes) pd
    let desc := (x.reg rs).toNat
    let sb : W64 := BitVec.ofNat 64 (desc % 2 ^ 56)
    let traps (i : Instr) (code sub : Nat) (fa : W64) : Prop := exec i s = .next (s.takeTrap code sub fa)
    let mis (q : VOp) : Prop := q.addr % q.kind.align ≠ 0
    let inv (q : VOp) (v : Nat) : Prop := s.spBad x.grp q.addr (q.kind.size vl) = some v
    let checks (i : Instr) (ops : List VOp) : Prop :=
      ((∃ q ∈ ops, q.kind = .q4x) → vl % 32 ≠ 0 → traps i tOp 0 s.cur.addr) ∧
      ((∀ q ∈ ops, q.kind ≠ .q4x) ∨ vl % 32 = 0 →
        (∀ q ∈ ops, mis q → (∀ q' ∈ ops, mis q' → q.addr ≤ q'.addr) → traps i tAlign 0 (BitVec.ofNat 64 q.addr)) ∧
        ((∀ q ∈ ops, ¬ mis q) → ∀ q ∈ ops, ∀ v, inv q v → (∀ q' ∈ ops, ∀ v', inv q' v' → v ≤ v') → traps i tSp 0 (BitVec.ofNat 64 v)) ∧
        (s.vcheck ops = .ok () ↔ ∀ q ∈ ops, ¬ mis q ∧ s.spBad x.grp q.addr (q.kind.size vl) = none))
    (∀ i ∈ [Instr.vadd f r mk pd pa pb, .vsub f r mk pd pa pb, .vmul f r mk pd pa pb, .vfma f r mk pd pa pb, .vmin f mk pd pa pb, .vmax f mk pd pa pb],
      checks i (m ++ [d, a, b])) ∧
    (f.isInt = true → ∀ i ∈ [Instr.vand f mk pd pa pb, .vor f mk pd pa pb, .vxor f mk pd pa pb, .vshl f r mk pd pa pb], checks i (m ++ [d, a, b])) ∧
    (∀ i ∈ [Instr.vabs f r mk pd pa, .vneg f r mk pd pa, .vscan f r mk pd pa, .vcopy f mk pd pa, .vexp2 f mk pd pa, .vlog2 f mk pd pa, .vrcp f mk pd pa,
        .vrsqrt f mk pd pa, .vsin2pi f mk pd pa, .vtanh f mk pd pa], checks i (m ++ [d, a])) ∧
    (∀ i ∈ [Instr.vcmpeq f mk pd pa pb, .vcmpne f mk pd pa pb, .vcmplt f mk pd pa pb, .vcmple f mk pd pa pb], checks i (m ++ [pbit, a, b])) ∧
    checks (.vsel f pd pa pb) [⟨.bits, x.ptr 7#3⟩, d, a, b] ∧ checks (.vfill f mk pd rs) (m ++ [d]) ∧
    checks (.vsum f r mk rd pa) (m ++ [a]) ∧ checks (.vmaxr f mk rd pa) (m ++ [a]) ∧ checks (.vdot f r mk rd pa pb) (m ++ [a, b]) ∧
    checks (.vnnz f mk rd pa pd) (m ++ [a, pbit]) ∧
    checks (.vld wd mk pd rs) (m ++ [e]) ∧ checks (.vst wd mk o pd rs) (m ++ [e]) ∧ checks (.vgath wd mk pd pa rs) (m ++ [e, ix]) ∧
    checks (.vscat wd mk o pd pa rs) (m ++ [e, ix]) ∧
    (f ≠ g → checks (.vcvt f g r mk pd pa) (m ++ [s.vop (vkind g) pd, a])) ∧ traps (.vcvt g g r mk pd pa) tIllegal 0 s.cur.addr ∧
    (vupdOk op f = true → checks (.vupd op f mk o pd rs) (m ++ [ud])) ∧ (vupdOk op f = false → traps (.vupd op f mk o pd rs) tIllegal 0 s.cur.addr) ∧
    (s.vcheck (m ++ [e]) = .ok () →
      ((x.reg rs).toNat % wd.bytes ≠ 0 → traps (.vld wd mk pd rs) tAlign 0 (x.reg rs) ∧ traps (.vst wd mk o pd rs) tAlign 0 (x.reg rs)) ∧
      ((x.reg rs).toNat % wd.bytes = 0 → 2 ^ 56 ≤ (x.reg rs).toNat →
        traps (.vld wd mk pd rs) tXlate subLoad (x.reg rs) ∧ traps (.vst wd mk o pd rs) tXlate subUpd (x.reg rs))) ∧
    (vupdOk op f = true → s.vcheck (m ++ [ud]) = .ok () →
      ((x.reg rs).toNat % (vupdWidth f).bytes ≠ 0 → traps (.vupd op f mk o pd rs) tAlign 0 (x.reg rs)) ∧
      ((x.reg rs).toNat % (vupdWidth f).bytes = 0 → 2 ^ 56 ≤ (x.reg rs).toNat → traps (.vupd op f mk o pd rs) tXlate subUpd (x.reg rs))) ∧
    (s.vcheck (m ++ [e, ix]) = .ok () → kopOf (desc / 2 ^ 56 % 32) = some op →
      (!(opWidthOk op wd && (!((x.reg rs).getLsbD 61) || (wd == .h && (op == .fsum || op == .fmin || op == .fmax))) && desc / 2 ^ 62 == 0 && !(op == .fadd64 && x.det))) = false →
      sb.toNat % wd.bytes ≠ 0 → traps (.vscat wd mk o pd pa rs) tAlign 0 sb) ∧
    (s.vcheck (m ++ [e, ix]) = .ok () →
      ((x.reg rs).toNat % wd.bytes ≠ 0 → traps (.vgath wd mk pd pa rs) tAlign 0 (x.reg rs)) ∧
      ((x.reg rs).toNat % wd.bytes = 0 → 2 ^ 56 ≤ (x.reg rs).toNat → traps (.vgath wd mk pd pa rs) tXlate subLoad (x.reg rs)))

/-- OCLAIM claims the lowest free run, OREL frees a claimed run that is not held, OFILL moves bytes between scratchpad and claimed slots (R222,
R223, R224, R225, R226, R237, R364). For a thread of a group: OCLAIM of 1 to 16 slots writes the lowest group slot from which that many are
free and claims exactly these, or writes all ones and claims nothing; any other count raises IllegalOperation. OREL of a run that is all
claimed and not held marks it free; it waits while one is held, and otherwise raises IllegalOperation. OFILL past its checks copies COUNT
bytes at SPA to byte OFFSET of the run (DIR 0, waiting while a slot it writes is held) or back (DIR 1), holds the vector unit and completes,
or contains the thread where a byte it reads is poisoned (R364; that SRAM words carry a mark is log 46, a design choice); no other byte of
operand memory or of the group's scratchpad, no register and no byte of memory changes. Its checks are Alignment, ScratchpadRange, then
IllegalOperation; the bits above SPA and COUNT are ignored (log 64). In a row handler OCLAIM and OREL raise IllegalOperation. -/
def Obligations.OperandSlots : Prop :=
  ∀ (ti : SlotId) (rd rs rt : Reg) (s : State) (g : Group), s.issues ti → s.grp (s.thr ti).grp = some g →
    let x := s.thr ti
    let n := (x.reg rs).toNat
    let m := (x.reg rt).toNat
    let op : Out := .next (s.takeTrap tOp 0 s.cur.addr)
    let h := s.half ti.die ti.clu ti.ctx
    let runFree (i : Nat) : Prop := i + n ≤ g.opPhys.length ∧ ∀ k, k < n → i + k ∉ g.claimed
    let allClaimed (i n : Nat) : Prop := i + n ≤ g.opPhys.length ∧ ∀ k, k < n → i + k ∈ g.claimed
    let same (t : State) : Prop := t.mem = s.mem ∧ t.runs = s.runs ∧ (∀ tj, tj ≠ ti → t.thr tj = s.thr tj) ∧ (t.thr ti).still = x.still ∧
      (t.thr ti).pc = (x.fallThrough s.cur.addr s.cur.len).pc
    let keeps (rds : List Reg) (t : State) : Prop := ∀ pl, pl < 136 → pl ∉ rds.map x.place → (t.thr ti).atPlace pl = x.atPlace pl
    (x.kind ≠ .group → exec (.oclaim rd rs) s = op ∧ exec (.orel rs rt) s = op) ∧
    (x.kind = .group → n = 0 ∨ 16 < n → exec (.oclaim rd rs) s = op) ∧
    (x.kind = .group → 1 ≤ n → n ≤ 16 →
      (∀ i, runFree i → (∀ j, j < i → ¬ runFree j) → ∃ t, exec (.oclaim rd rs) s = .next t ∧ same t ∧ keeps [rd] t ∧
        (rd ≠ 24#5 → (t.thr ti).reg rd = BitVec.ofNat 64 i) ∧
        ∃ g', t.grp x.grp = some g' ∧ g' = { g with claimed := g'.claimed } ∧ ∀ c, c ∈ g'.claimed ↔ c ∈ g.claimed ∨ (i ≤ c ∧ c < i + n)) ∧
      ((∀ i, ¬ runFree i) → exec (.oclaim rd rs) s = .next (s.setReg rd (BitVec.allOnes 64)).fall)) ∧
    (x.kind = .group → ¬ (m ≠ 0 ∧ allClaimed n m) → exec (.orel rs rt) s = op) ∧
    (x.kind = .group → m ≠ 0 → allClaimed n m →
      ((∃ k, k < m ∧ g.opPhys.getD (n + k) 0 ∈ h.held) → exec (.orel rs rt) s = .next s) ∧
      ((∀ k, k < m → g.opPhys.getD (n + k) 0 ∉ h.held) → ∃ t, exec (.orel rs rt) s = .next t ∧ same t ∧ keeps [] t ∧
        (∃ g', t.grp x.grp = some g' ∧ g' = { g with claimed := g'.claimed } ∧ ∀ c, c ∈ g'.claimed ↔ c ∈ g.claimed ∧ ¬ (n ≤ c ∧ c < n + m)) ∧
        (SortedBytes h.opm → ∀ a, (∀ k, k < m → a / 8192 ≠ g.opPhys.getD (n + k) 0) → (t.half ti.die ti.clu ti.ctx).opByte a = h.opByte a))) ∧
    (∀ (l : List (Nat × Byte)) (a k : Nat) (b : Byte), SortedBytes l → SortedBytes (swrite l a b) ∧ SortedBytes (sforget l a k)) ∧
    (let d := x.reg rd
     let slot := d.toNat % 32
     let off := d.toNat / 2 ^ 8 % 2 ^ 13
     let a : W64 := BitVec.ofNat 64 (n % 2 ^ 32)
     let len := m % 2 ^ 16
     let first := off / 8192
     let cnt := (off + len - 1) / 8192 + 1 - first
     let good : Prop := d.toNat / 32 % 4 = 0 ∧ d.toNat / 2 ^ 21 = 0 ∧ off % 64 = 0 ∧ len % 64 = 0 ∧ 64 ≤ len ∧ len ≤ 32768 ∧ allClaimed slot (first + cnt)
     let sp (t : State) (v k : Nat) : List Byte := t.spRead x.grp v k
     let ob (t : State) (k : Nat) : Byte := (t.half ti.die ti.clu ti.ctx).opByte (g.opPhys.getD (slot + k / 8192) 0 * 8192 + k % 8192)
     (a.toNat % 64 ≠ 0 → exec (.ofill rd rs rt) s = .next (s.takeTrap tAlign 0 a)) ∧
     (∀ b, a.toNat % 64 = 0 → s.spBad x.grp a.toNat len = some b → exec (.ofill rd rs rt) s = .next (s.takeTrap tSp 0 (BitVec.ofNat 64 b))) ∧
     (a.toNat % 64 = 0 → s.spBad x.grp a.toNat len = none →
      (¬ good → exec (.ofill rd rs rt) s = op) ∧
      (good → (if d.getLsbD 7 then h.opPoisoned g slot off len else s.spPoisoned x.grp a.toNat len) = true → exec (.ofill rd rs rt) s = .next (s.consume ti sramPa)) ∧
      (good → d.getLsbD 7 = true → h.opPoisoned g slot off len = false → ∃ t, exec (.ofill rd rs rt) s = .next t ∧ same t ∧ keeps [] t ∧
        (∀ k, k < len → sp t (a.toNat + k) 1 = [ob s (off + k)]) ∧
        (∀ v, v < 2 ^ 32 → s.spBad x.grp v 1 = none → v < a.toNat ∨ a.toNat + len ≤ v → sp t v 1 = sp s v 1) ∧
        (aget? t.vunit (coreKey ti)).map (·.ti) = some ti) ∧
      (good → d.getLsbD 7 = false → s.spPoisoned x.grp a.toNat len = false → (∃ k, first ≤ k ∧ k < first + cnt ∧ g.opPhys.getD (slot + k) 0 ∈ h.held) → exec (.ofill rd rs rt) s = .next s) ∧
      (good → d.getLsbD 7 = false → s.spPoisoned x.grp a.toNat len = false → (∀ k, first ≤ k → k < first + cnt → g.opPhys.getD (slot + k) 0 ∉ h.held) → (g.physRun slot (first + cnt)).Nodup →
        ∃ t, exec (.ofill rd rs rt) s = .next t ∧ same t ∧ keeps [] t ∧
        (∀ k, k < len → [ob t (off + k)] = sp s (a.toNat + k) 1) ∧ (t.half ti.die ti.clu ti.ctx).sp = h.sp ∧
        (∀ b, (∀ k, k < len → b ≠ g.opPhys.getD (slot + (off + k) / 8192) 0 * 8192 + (off + k) % 8192) →
          (t.half ti.die ti.clu ti.ctx).opByte b = h.opByte b) ∧
        (aget? t.vunit (coreKey ti)).map (·.ti) = some ti)))

/-- MLATCH, MSTREAM, MDEND and MCURVE check in order, hold their slots and join the array's queue with the thread out of the rotation (R221,
R228, R229, R230, R231, R237, R239, R243). For a thread of a group whose form passes its checks: MLATCH (claimed weight slots, a weight
format the array accepts), MSTREAM and MDEND (claimed activation slot, an output area in range, a latch that will be the group's own at the
head, no group thread on slot 15 in handler mode; MDEND also ACC 0, DRAIN 1, TAP only with a handler, two configuration slots) and MCURVE
each append exactly one entry with its registers to the context's queue, hold its slots, leave the rotation, and keep every register;
streams add one to TILES. A breach, or the use in a handler (R237), raises IllegalOperation, a format of no array IllegalInstruction, a
misaligned OUT Alignment, an OUT area that is not valid ScratchpadRange (with the reserved OFMT 3 the area is that of 2-byte elements: the
model's choice, log 69). -/
def Obligations.MatrixIssue : Prop :=
  ∀ (ti : SlotId) (f : EFmt) (rd rs rt : Reg) (s : State) (g : Group), s.issues ti → s.grp (s.thr ti).grp = some g →
    let x := s.thr ti
    let S := (x.reg rs).toNat
    let T := (x.reg rt).toNat
    let H := (x.reg rd).toNat
    let wide : Bool := decide (64 ≤ ti.clu)
    let kk : Nat := if wide then 64 else 128
    let h := s.half ti.die ti.clu ti.ctx
    let op : Out := .next (s.takeTrap tOp 0 s.cur.addr)
    let ill : Out := .next (s.takeTrap tIllegal 0 s.cur.addr)
    let phys (i n : Nat) : List Nat := (List.range n).map fun k => g.opPhys.getD (i + k) 0
    let mine (i n : Nat) : Bool := (List.range n).all fun k => decide (i + k < g.opPhys.length) && g.claimed.contains (i + k)
    let joins (i : Instr) (kind : Nat) (f : EFmt) (a b c : W64) (tiles : Nat) (holds : List Nat) : Prop :=
      ∃ t o, exec i s = .next t ∧ o.kind = kind ∧ o.ti = ti ∧ o.uid = x.uid ∧ o.grp = x.grp ∧ o.fmt = f ∧ o.s = a ∧ o.t = b ∧ o.hentry = c ∧
        o.begun = false ∧ o.rows = [] ∧ o.consumed = false ∧
        t.half ti.die ti.clu ti.ctx = { h with held := h.held ++ holds, arr := { h.arr with queue := h.arr.queue ++ [o] } } ∧
        (t.thr ti).wait = .engine ∧ (t.thr ti).ph.len = s.cur.len ∧ (t.thr ti).pc = x.pc ∧ (t.thr ti).still = { x.still with tiles := x.tiles + tiles } ∧
        (∀ pl, (t.thr ti).atPlace pl = x.atPlace pl) ∧ (∀ tj, tj ≠ ti → t.thr tj = s.thr tj) ∧ t.mem = s.mem
    let wSlots : Nat := match f with | .q4x => 2 | .i8 => 2 | .fe4 => if wide then 1 else 2 | .fe5 => if wide then 1 else 2 | _ => 1
    let wOk : Bool := match f with | .q4x => !wide | .i8 => !wide | .fe4 => true | .fe5 => true | .bf16 => wide | .f16 => wide | _ => false
    let aOk : Bool := match f with | .i8 => !wide | .fe4 => true | .fe5 => true | .bf16 => true | .f16 => true | _ => false
    let mlOk : Bool := S / 32 == 0 && wOk && mine (S % 32) wSlots
    let drain : Bool := S / 2 ^ 6 % 2 == 1
    let t' := if drain then x.reg rt else 0#64
    let T' := t'.toNat
    let rb := kk * (match T' / 2 ^ 20 % 4 with | 0 => 4 | _ => 2)
    let area := if H = 0 then 32 * rb else (T' / 2 ^ 22 % 4 + 1) * rb
    let out := T' % 2 ^ 20
    let areaOk : Prop := drain = true → out % 64 = 0 ∧ s.spBad x.grp out area = none
    let stream (md : Bool) : Bool :=
      S / 2 ^ 7 % 2 == 0 && (if md then S / 2 ^ 46 % 4 == 0 else S / 2 ^ 40 % 2 ^ 8 == 0) && T' / 2 ^ 24 == 0 && T' / 2 ^ 20 % 4 != 3 &&
      H % 2 == 0 && decide (H < 2 ^ 56) && aOk && mine (S % 32) 1 && h.arr.latchAhead == some x.grp &&
      (H == 0 || !((s.thr { ti with slot := 15 }).live && (s.thr { ti with slot := 15 }).kind == .group)) &&
      (!md || (S / 32 % 2 == 0 && drain && (S / 2 ^ 45 % 2 == 0 || H != 0) && mine (S / 2 ^ 40 % 32) 2))
    let actF : Prop := f = .i8 ∨ f = .fe4 ∨ f = .fe5 ∨ f = .f16 ∨ f = .bf16
    (f = .f32 ∨ f = .i32 → exec (.mlatch f rs) s = ill) ∧
    (¬ actF → exec (.mstream f rd rs rt) s = ill ∧ exec (.mdend f rd rs rt) s = ill) ∧
    (x.kind ≠ .group → exec (.mcurve rs rt) s = op ∧ (f ≠ .f32 → f ≠ .i32 → exec (.mlatch f rs) s = op) ∧
      (actF → exec (.mstream f rd rs rt) s = op ∧ exec (.mdend f rd rs rt) s = op)) ∧
    (x.kind = .group →
      (f ≠ .f32 → f ≠ .i32 → (mlOk = true → joins (.mlatch f rs) 0 f (x.reg rs) 0#64 0#64 0 (phys (S % 32) wSlots)) ∧ (mlOk = false → exec (.mlatch f rs) s = op)) ∧
      (actF → drain = true → out % 64 ≠ 0 → exec (.mstream f rd rs rt) s = .next (s.takeTrap tAlign 0 (BitVec.ofNat 64 out)) ∧
        exec (.mdend f rd rs rt) s = .next (s.takeTrap tAlign 0 (BitVec.ofNat 64 out))) ∧
      (∀ b, actF → drain = true → out % 64 = 0 → s.spBad x.grp out area = some b →
        exec (.mstream f rd rs rt) s = .next (s.takeTrap tSp 0 (BitVec.ofNat 64 b)) ∧ exec (.mdend f rd rs rt) s = .next (s.takeTrap tSp 0 (BitVec.ofNat 64 b))) ∧
      (actF → areaOk →
        (stream false = true → joins (.mstream f rd rs rt) 1 f (x.reg rs) t' (x.reg rd) 1 (phys (S % 32) 1)) ∧
        (stream false = false → exec (.mstream f rd rs rt) s = op) ∧
        (stream true = true → joins (.mdend f rd rs rt) 2 f (x.reg rs) t' (x.reg rd) 1 (phys (S % 32) 1 ++ phys (S / 2 ^ 40 % 32) 2)) ∧
        (stream true = false → exec (.mdend f rd rs rt) s = op)) ∧
      (T % 16 ≠ 0 → exec (.mcurve rs rt) s = .next (s.takeTrap tAlign 0 (x.reg rt))) ∧
      (T % 16 = 0 → T < 2 ^ 32 → s.spBad x.grp T 528 = none →
        (S / 16 = 0 → joins (.mcurve rs rt) 3 .f32 (x.reg rs) (x.reg rt) 0#64 0 []) ∧ (S / 16 ≠ 0 → exec (.mcurve rs rt) s = op)))

/-- The head of the array's queue acts, rows enter, drain and reach their handler, and ROWDONE ends it, as the matrix chapter says (R74, R228,
R229, R231, R234, R235, R236, R239, R240, R243, R244, R364). Each of the five completes in every state that meets the conditions named, and
a poisoned source contains the group instead (R364; log 46, a design choice). A row's drained flags are OR-ed into the issuer's status as it
drains (log 21), and a tapped or dendritic row's columns are R240 and R242. ARRAY_QUEUE_HEAD acts for the first queued operation whose
operands are not consumed: MLATCH replaces the latched tile, format and owner, frees its slots and returns its thread; MCURVE replaces its
curve; MSTREAM and a well-formed MDEND start with the unmasked rows, ill-formed ones trap; a tile empties the latch. ROW_ENTRY computes the
lowest remaining row and passes it to the drain: each accumulator of an MSTREAM is MatAcc of its old value (ACC) or +0, no other row
changes; the last row frees the slots and returns the thread. ROW_READY writes a drained row at OUT + m·RB, or to buffer j mod D when that
is free. ROW_HANDLER_DISPATCH starts an empty slot 15 (a slot of a placed group's row that no thread of it takes is empty too: log 72) with
buffer, row, thread index and TAG in w0 to w3, after writing a tapped row's words. ROWDONE ORs the handler's flags into the issuer's, frees
the buffer and ends the handler; outside one it raises IllegalOperation. -/
def Obligations.MatrixArrayAtWork : Prop :=
  (∀ (s : State) (o : MOp) (pre rest : List MOp),
    let e := s.cur.ev
    let k : AKey := (e.die, e.clu, e.ctx)
    let h := s.half e.die e.clu e.ctx
    let kk := arrK e.clu
    let g := s.grpD o.grp
    let wa := fld o.s 0 5
    let ca := fld o.s 40 5
    let bs := h.opRead g wa 0 (tileBytes kk o.fmt)
    let cv := s.spRead o.grp o.t.toNat 528
    let cfg := h.opRead g ca 0 160
    let rows := (List.range 32).filter fun m => o.s.getLsbD (8 + m)
    let started (o : MOp) : Out := .next ((s.modArr k fun a => a.setAct (some o)).consumed k o)
    let arr (t : State) : MArray := (t.half e.die e.clu e.ctx).arr
    let clean (x : Nat × Nat) : List (Nat × Nat) := h.arr.bad.filter fun y => !(y == x)
    splitAct h.arr.queue = (pre, some o, rest) → o.begun = false →
      (o.kind = 0 → h.opPoisoned g wa 0 (tileBytes kk o.fmt) = true → exec .arrayQueueHead s = .next (s.opPoison k o)) ∧
      (o.kind = 0 → h.opPoisoned g wa 0 (tileBytes kk o.fmt) = false → ∃ t, exec .arrayQueueHead s = .next t ∧
        arr t = { h.arr with queue := pre ++ rest, tile := bs, fmt := some o.fmt, owner := o.grp, bad := clean (0, 0) } ∧
        (t.half e.die e.clu e.ctx).held = (o.slots g e.clu).foldl List.erase h.held ∧ t.mem = s.mem ∧
        ((s.thr o.ti).uid = o.uid → (t.thr o.ti).wait = .no ∧ (t.thr o.ti).pc = ((s.thr o.ti).fallThrough (s.thr o.ti).pc (s.thr o.ti).ph.len).pc ∧
          (o.fmt ≠ .q4x → (t.thr o.ti).flags = (s.thr o.ti).flags))) ∧
      (o.kind = 3 → s.spPoisoned o.grp o.t.toNat 528 = true → exec .arrayQueueHead s = .next (s.opPoison k o)) ∧
      (o.kind = 3 → s.spPoisoned o.grp o.t.toNat 528 = false → curveOk cv = true → ∃ t, exec .arrayQueueHead s = .next t ∧ (arr t).curve (fld o.s 0 4) = cv ∧
        (∀ i, i ≠ fld o.s 0 4 → (arr t).curve i = h.arr.curve i) ∧ (arr t).queue = pre ++ rest ∧ t.mem = s.mem ∧ ((s.thr o.ti).uid = o.uid → (t.thr o.ti).wait = .no)) ∧
      (o.kind = 3 → s.spPoisoned o.grp o.t.toNat 528 = false → curveOk cv = false → exec .arrayQueueHead s = .next (s.opTrap k o false)) ∧
      (o.kind = 1 → rows ≠ [] → ∃ t, exec .arrayQueueHead s = .next t ∧ arr t = { h.arr with queue := pre ++ { o with begun := true, rows := rows } :: rest } ∧ t.slots = s.slots) ∧
      (o.kind = 1 → rows = [] → exec .arrayQueueHead s = started { o with begun := true, rows := [] }) ∧
      (o.kind = 2 → h.opPoisoned g ca 0 160 = false → h.opPoisoned g (ca + 1) 0 8192 = false →
        let y := { o with begun := true, rows := rows, cfg := cfg, bw := h.opRead g (ca + 1) 0 8192 }
        ((mdOk cfg kk && (!o.s.getLsbD 45 || g.slotOk (mdTslot cfg))) = false → exec .arrayQueueHead s = .next (s.opTrap k o true)) ∧
        ((mdOk cfg kk && (!o.s.getLsbD 45 || g.slotOk (mdTslot cfg))) = true → rows ≠ [] → ∃ t, exec .arrayQueueHead s = .next t ∧ t.slots = s.slots ∧
          arr t = { h.arr with queue := pre ++ y :: rest }) ∧
        ((mdOk cfg kk && (!o.s.getLsbD 45 || g.slotOk (mdTslot cfg))) = true → rows = [] → exec .arrayQueueHead s = started y)) ∧
      (o.kind = 4 → ∃ t, exec .arrayQueueHead s = .next t ∧ t.slots = s.slots ∧
        arr t = { h.arr with queue := pre ++ { o with begun := true } :: rest, tile := [], fmt := none, owner := 0, bad := clean (0, 0) })) ∧
  (∀ (s : State) (o : MOp) (m : Nat) (more : List Nat) (pre rest : List MOp),
    let e := s.cur.ev
    let k : AKey := (e.die, e.clu, e.ctx)
    let hs : SlotId := ⟨e.die, e.clu, e.ctx, 0, 0⟩
    let h := s.half e.die e.clu e.ctx
    let kk := arrK e.clu
    let g := s.grpD o.grp
    let act := actRow kk o.fmt (h.opRead g (fld o.s 0 5) 0 (32 * kk * o.fmt.bytes)) m
    let ps (n : Nat) : List Sys2Proof.Machine.Num := (act.zip (weightCol kk (h.arr.fmt.getD .f32) h.arr.tile n).1).map fun q => (q.1.mul q.2).1
    let bad : Bool := h.opPoisoned g (fld o.s 0 5) (m * kk * o.fmt.bytes) (kk * o.fmt.bytes) || (o.reads m).any h.arr.bad.contains
    splitAct h.arr.queue = (pre, some o, rest) → o.begun = true → o.rows = m :: more → s.rotating hs = true → (s.cx hs).halted = false →
      (bad = true → exec .rowEntry s = .next (s.opPoison k o)) ∧
      (bad = false → ∃ t codes taps, exec .rowEntry s = .next t ∧ t.mem = s.mem ∧
        let b := (t.half e.die e.clu e.ctx).arr
        let y := { o with rows := more, out := o.out ++ [(m, codes, taps)] }
        (∀ r, r ≠ m → aget? b.acc r = aget? h.arr.acc r) ∧ b.tile = h.arr.tile ∧
        (more ≠ [] → t.slots = s.slots ∧ b.queue = pre ++ y :: rest) ∧
        (more = [] → { y with consumed := true } ∈ b.queue ∧ (t.half e.die e.clu e.ctx).held = (o.slots g e.clu).foldl List.erase h.held ∧
          ((s.thr o.ti).uid = o.uid → (t.thr o.ti).wait = .no)) ∧
        (o.kind = 1 → aget? b.acc m = some codes ∧ taps = [] ∧ ∀ n, n < kk → codes.getD n 0 =
          matAcc (if o.s.getLsbD 5 then ((aget? h.arr.acc m).getD (List.replicate kk 0)).getD n 0 else 0) (ps n)) ∧
        (o.kind = 2 → b.acc = h.arr.acc ∧ (∀ n, n < kk → codes.getD n 0 = (mdColumn o.cfg o.bw h.arr.curve kk n (ps n)).1) ∧
          taps = (List.range kk).flatMap fun n => (mdColumn o.cfg o.bw h.arr.curve kk n (ps n)).2))) ∧
  (∀ (s : State) (o : MOp) (m : Nat) (cs taps : List Nat) (more : List (Nat × List Nat × List Nat)),
    let e := s.cur.ev
    let q := (s.half e.die e.clu e.ctx).arr.queue
    let out := o.t.toNat % 2 ^ 20
    let d := o.t.toNat / 2 ^ 22 % 4 + 1
    let bs := (drainRow (ofmt o.t) cs).1
    (q.find? fun o => !o.out.isEmpty) = some o → o.out = (m, cs, taps) :: more →
      (o.s.getLsbD 6 = true → o.hentry ≠ 0#64 → o.bufUse.contains (o.drained % d) = true → exec .rowReady s = .next s) ∧
      (∀ a, o.s.getLsbD 6 = true → (o.hentry = 0#64 → a = out + m * bs.length) → (o.hentry ≠ 0#64 → a = out + o.drained % d * bs.length ∧ o.bufUse.contains (o.drained % d) = false) →
        ∃ t, exec .rowReady s = .next t ∧ t.mem = s.mem ∧ (∀ v, t.spRead o.grp v 1 = (s.spWrite o.grp a bs).spRead o.grp v 1) ∧
          ((s.thr o.ti).uid = o.uid → (t.thr o.ti).flags = (s.thr o.ti).flags ||| (drainRow (ofmt o.t) cs).2)) ∧
      (o.s.getLsbD 6 = false → ∃ t, exec .rowReady s = .next t ∧ t.mem = s.mem ∧ ∀ v, t.spRead o.grp v 1 = s.spRead o.grp v 1)) ∧
  (∀ (s : State) (o : MOp) (m j : Nat) (taps : List Nat) (more : List (Nat × Nat × List Nat)),
    let e := s.cur.ev
    let hs : SlotId := ⟨e.die, e.clu, e.ctx, e.core, 15⟩
    let h := s.half e.die e.clu e.ctx
    let q := h.arr.queue
    let g := s.grpD o.grp
    (q.find? fun o => o.ti.core == e.core && !o.ready.isEmpty) = some o → o.ready = (m, j, taps) :: more → (s.thr hs).live = false →
      (∀ y ∈ q, y.ti.core = e.core → y.inFlight = none) → s.rotating hs = true → (s.cx hs).halted = false →
      (o.s.getLsbD 45 = true → tapFree e.core q = true ∧ ∀ p ∈ g.physRun (mdTslot o.cfg) 1, p ∉ h.held) →
      ∃ t, exec .rowHandlerDispatch s = .next t ∧ t.mem = s.mem ∧ (∀ tj, tj ≠ hs → t.thr tj = s.thr tj) ∧
        (∀ b, (t.half e.die e.clu e.ctx).opByte b = (if o.s.getLsbD 45 then h.opWrite g (mdTslot o.cfg) 0 (taps.flatMap (leBytes 4)) else h).opByte b) ∧
        let y := t.thr hs
        y.live = true ∧ y.kind = .rowH ∧ y.grp = o.grp ∧ y.tidx = (s.thr o.ti).tidx ∧ y.det = (s.thr o.ti).det ∧ y.pc = o.hentry ∧ y.sup = false ∧
        y.reg 0#5 = BitVec.ofNat 64 (o.t.toNat % 2 ^ 20 + j * (arrK e.clu * (ofmt o.t).bytes)) ∧ y.reg 1#5 = BitVec.ofNat 64 m ∧
        y.reg 2#5 = BitVec.ofNat 64 (s.thr o.ti).tidx ∧ y.reg 3#5 = BitVec.ofNat 64 (o.s.toNat / 2 ^ 48) ∧ (∀ r : Reg, 3#5 < r → y.reg r = 0#64)) ∧
  (∀ (ti : SlotId) (s : State), s.issues ti →
    let x := s.thr ti
    let q (u : State) : List MOp := (u.half ti.die ti.clu ti.ctx).arr.queue
    (x.kind ≠ .rowH → exec .rowdone s = .next (s.takeTrap tOp 0 s.cur.addr)) ∧
    (x.kind = .rowH → x.loads + x.updates + x.copies + x.tiles ≠ 0 → exec .rowdone s = .next s) ∧
    (x.kind = .rowH → x.loads + x.updates + x.copies + x.tiles = 0 → ((q s).find? fun o => o.ti.core == ti.core && o.inFlight.isSome) = none →
      ∃ t, exec .rowdone s = .next t ∧ (t.thr ti).live = false ∧ t.mem = s.mem ∧ t.halves = s.halves ∧ ∀ tj, tj ≠ ti → t.thr tj = s.thr tj) ∧
    (∀ o, x.kind = .rowH → x.loads + x.updates + x.copies + x.tiles = 0 → ((q s).find? fun o => o.ti.core == ti.core && o.inFlight.isSome) = some o →
      o.ti ≠ ti → (s.thr o.ti).uid = o.uid → ∃ t, exec .rowdone s = .next t ∧ (t.thr ti).live = false ∧ (t.thr o.ti).flags = (s.thr o.ti).flags ||| x.flags ∧ t.mem = s.mem ∧
        (∀ y ∈ q t, y.finished = false) ∧
        ((o.consumed && o.out.isEmpty && o.ready.isEmpty) = false → { o with inFlight := none, bufUse := o.bufUse.filter fun b => some b != o.inFlight } ∈ q t)))

/-- GSTART hands its block and program to the Gleaner; each Gleaner instruction has the effect of R248 and R249 or stops as they say (R226,
R237, R245, R246, R247, R248, R249, R250, R364). GSTART of a group's thread past its checks, with no poisoned byte in its block or program,
queues a job with the block's registers, PC, cursor and program, and leaves the rotation. For the job that runs on a cluster: while the next
PC lies in the program, each arithmetic, load, branch and append instruction writes its register or its operand bytes and moves PC, and
nothing else; outside it, or with a bound broken, it stops with BADINSN and no effect; an append past the run stops with OVERFLOW; GEND
stops with END. A stop writes the block with the job's registers, the PC of the stopping instruction (for GEND the model's choice, log 70)
and STATUS, gives the thread its STATUS in rd and lets it go on. GAPPG's and GAPPS's sizes and alignment are bounds, their room and held
slots as for the other appends. A load, an append or a GLDS whose read faults writes the block without STATUS and raises the trap on the
GSTART (GLDS Alignment and ScratchpadRange); one that must wait for memory keeps no effect but the walks it waits for; one that meets poison
contains the group (R364; log 46). The order of an append's checks is log 63. -/
def Obligations.Gleaner : Prop :=
  (∀ (ti : SlotId) (rd rs rt : Reg) (s : State) (g : Group), s.issues ti → s.grp (s.thr ti).grp = some g →
    let x := s.thr ti
    let p := (x.reg rs).toNat
    let a := (x.reg rt).toNat
    let dw (o : Nat) : Nat := leNat (s.spRead x.grp (a + o) 8)
    let plen := dw 0x80 / 2 ^ 16 % 512
    let pc := dw 0x80 % 256
    let slot := dw 0x88 % 32
    let n := dw 0x88 / 32 % 64
    let off := dw 0x88 / 2 ^ 12 % 2 ^ 18
    let good : Prop := 1 ≤ plen ∧ plen ≤ 256 ∧ pc < plen ∧ dw 0x80 / 2 ^ 8 % 2 ^ 8 = 0 ∧ dw 0x80 / 2 ^ 25 = 0 ∧ dw 0x88 / 2 ^ 11 % 2 = 0 ∧ dw 0x88 / 2 ^ 30 = 0 ∧
      dw 0x98 / 2 ^ 8 = 0 ∧ n ≠ 0 ∧ slot + n ≤ g.opPhys.length ∧ off ≤ n * 8192 ∧ ∀ k, k < n → slot + k ∈ g.claimed
    (x.kind ≠ .group → exec (.gstart rd rs rt) s = .next (s.takeTrap tOp 0 s.cur.addr)) ∧
    (x.kind = .group → p % 4 ≠ 0 → exec (.gstart rd rs rt) s = .next (s.takeTrap tAlign 0 (x.reg rs))) ∧
    (x.kind = .group → p % 4 = 0 → a % 8 ≠ 0 → exec (.gstart rd rs rt) s = .next (s.takeTrap tAlign 0 (x.reg rt))) ∧
    (x.kind = .group → p % 4 = 0 → a % 8 = 0 → p < 2 ^ 32 → a < 2 ^ 32 → s.spBad x.grp a 160 = none → s.spBad x.grp p (4 * plen) = none →
      (¬ good → exec (.gstart rd rs rt) s = .next (s.takeTrap tOp 0 s.cur.addr)) ∧
      (good → s.spPoisoned x.grp a 160 = false → s.spPoisoned x.grp p (4 * plen) = false → ∃ t j, exec (.gstart rd rs rt) s = .next t ∧ (t.cluster ti.die ti.clu).gleaner = (s.cluster ti.die ti.clu).gleaner ++ [j] ∧
        j.ti = ti ∧ j.uid = x.uid ∧ j.grp = x.grp ∧ j.rd = rd.toNat ∧ j.block = a ∧ j.first = s.cur.addr ∧ j.pc = pc ∧ j.plen = plen ∧ j.outslot = slot ∧ j.nslot = n ∧ j.off = off ∧
        j.rows.toNat = dw 0x90 ∧ (∀ i, i < 16 → (vget j.j i).toNat = dw (8 * i)) ∧ j.store = (List.range plen).map (fun i => leNat (s.spRead x.grp (p + 4 * i) 4)) ∧
        (t.thr ti).wait = .engine ∧ (t.thr ti).pc = x.pc ∧ (t.thr ti).still = x.still ∧ (∀ pl, (t.thr ti).atPlace pl = x.atPlace pl) ∧ t.mem = s.mem ∧ t.halves = s.halves))) ∧
  (∀ (die clu : Nat) (s : State) (x : GJob) (q : List GJob) (jd ja jb : JReg) (imm : BitVec 18) (off : BitVec 14),
    s.cur.who = .gleaner die clu → (s.cluster die clu).gleaner = x :: q →
    let rest := s.setCluster die clu { s.cluster die clu with gleaner := q }
    let on (u : State) (y : GJob) : Out := .next (u.setCluster die clu { u.cluster die clu with gleaner := y :: (u.cluster die clu).gleaner.drop 1 })
    let at_ (next : Int) : GJob := { x with pc := next.toNat }
    let set (v : W64) : GJob := { x with j := vset x.j jd.toNat v, pc := x.pc + 1 }
    let a := vget x.j ja.toNat
    let b := vget x.j jb.toNat
    let d := vget x.j jd.toNat
    let im : W64 := imm.signExtend 64
    let inside (next : Int) : Prop := 0 ≤ next ∧ next < (x.plen : Int)
    let fall : Prop := x.pc + 1 < x.plen
    let blk (status : Option Nat) : State := rest.spWrite x.grp x.block (wordsBytes (x.j.toList ++
      [BitVec.ofNat 64 (x.pc % 256 + x.plen % 512 * 2 ^ 16), BitVec.ofNat 64 (x.outslot % 32 + x.nslot % 64 * 2 ^ 5 + x.off % 2 ^ 18 * 2 ^ 12), x.rows] ++
      (status.map (BitVec.ofNat 64)).toList))
    let stop (v : Nat) : Out := .next (if (s.thr x.ti).uid = x.uid then
      ((blk (some v)).modThr x.ti fun t => t.setReg (BitVec.ofNat 5 x.rd) (BitVec.ofNat 64 v)).fallOf x.ti else blk (some v))
    let br (i : Instr) (c : Bool) (y : GJob) (o : Int) : Prop :=
      let next := if c then (x.pc : Int) + o else (x.pc : Int) + 1
      (inside next → exec i s = on s { y with pc := next.toNat }) ∧ (¬ inside next → exec i s = stop 3)
    let load (i : Instr) (n : Nat) : Prop :=
      (∀ v t, s.gLoad x (a + im) n = .ok v t → exec i s = on t (set (BitVec.ofNat 64 v))) ∧
      (∀ t, s.gLoad x (a + im) n = .wait t → exec i s = .next t) ∧
      (∀ pa, s.gLoad x (a + im) n = .poison pa → exec i s = .next (rest.consume x.ti pa)) ∧
      (∀ c sub fa, s.gLoad x (a + im) n = .fault c sub fa → (s.thr x.ti).uid = x.uid → exec i s = .next ((blk none).threadTrap x.ti c sub fa x.first x.first))
    let trapAt (c sub : Nat) (fa : W64) : Out := .next ((blk none).threadTrap x.ti c sub fa x.first x.first)
    let h := s.half x.ti.die x.ti.clu x.ti.ctx
    let g := s.grpD x.grp
    let app (i : Instr) (n : Nat) (ok : Bool) (bs : List Byte) : Prop :=
      (ok = false → exec i s = stop 3) ∧ (ok = true → x.nslot * 8192 < x.off + n → exec i s = stop 2) ∧
      (ok = true → x.off + n ≤ x.nslot * 8192 →
        (∀ k ∈ g.physRun (x.outslot + x.off / 8192) ((x.off + n - 1) / 8192 + 1 - x.off / 8192), k ∉ h.held) →
        exec i s = on (s.setHalf x.ti.die x.ti.clu x.ti.ctx (h.opWrite g x.outslot x.off bs)) { x with pc := x.pc + 1, off := x.off + n, rows := x.rows + 1#64 }) ∧
      (ok = true → x.off + n ≤ x.nslot * 8192 →
        (∃ k ∈ g.physRun (x.outslot + x.off / 8192) ((x.off + n - 1) / 8192 + 1 - x.off / 8192), k ∈ h.held) → exec i s = .next s)
    let n := imm.toNat
    let nOk : Bool := decide (8 ≤ n) && decide (n ≤ 8192) && n % 8 == 0
    let run : List Nat := g.physRun (x.outslot + x.off / 8192) ((x.off + n - 1) / 8192 + 1 - x.off / 8192)
    let ok8 : Bool := nOk && a.toNat % 8 == 0
    exec .gend s = stop 0 ∧
    (fall →
      exec .gnop s = on s (at_ (x.pc + 1)) ∧ exec (.gadd jd ja jb) s = on s (set (a + b)) ∧ exec (.gsub jd ja jb) s = on s (set (a - b)) ∧
      exec (.gmul jd ja jb) s = on s (set (a * b)) ∧ exec (.gand jd ja jb) s = on s (set (a &&& b)) ∧ exec (.gor jd ja jb) s = on s (set (a ||| b)) ∧
      exec (.gxor jd ja jb) s = on s (set (a ^^^ b)) ∧ exec (.gaddi jd ja imm) s = on s (set (a + im)) ∧ exec (.gli jd imm) s = on s (set im) ∧
      (n < 64 → exec (.gshli jd ja imm) s = on s (set (a <<< n)) ∧ exec (.gshri jd ja imm) s = on s (set (a >>> n))) ∧
      (b.toNat % 64 ≠ 0 → exec (.ghash jd ja jb) s = on s (set (BitVec.ofNat 64 ((a.toNat * 0x9E3779B97F4A7C15) % 2 ^ 64 / 2 ^ (64 - b.toNat % 64))))) ∧
      (b.toNat % 64 = 0 → exec (.ghash jd ja jb) s = stop 3) ∧
      load (.gldw jd ja imm) 4 ∧ load (.gldd jd ja imm) 8 ∧
      ((a + im).toNat % 8 = 0 → (a + im).toNat < 2 ^ 32 → s.spBad x.grp (a + im).toNat 8 = none → s.spPoisoned x.grp (a + im).toNat 8 = false →
        exec (.glds jd ja imm) s = on s (set (BitVec.ofNat 64 (leNat (s.spRead x.grp (a + im).toNat 8))))) ∧
      ((a + im).toNat % 8 ≠ 0 → (s.thr x.ti).uid = x.uid → exec (.glds jd ja imm) s = trapAt tAlign 0 (a + im)) ∧
      (∀ y, (a + im).toNat % 8 = 0 → s.gSpBad x (a + im) 8 = some y → (s.thr x.ti).uid = x.uid → exec (.glds jd ja imm) s = trapAt tSp 0 y) ∧
      ((a + im).toNat % 8 = 0 → s.gSpBad x (a + im) 8 = none → s.spPoisoned x.grp (a + im).toNat 8 = true → exec (.glds jd ja imm) s = .next (rest.consume x.ti sramPa)) ∧
      app (.gappj ja) 8 true (leBytes 8 a.toNat) ∧ app (.gappz imm) n nOk (List.replicate n 0#8) ∧
      ((nOk = true → a.toNat < 2 ^ 32 ∧ s.spBad x.grp a.toNat n = none ∧ s.spPoisoned x.grp a.toNat n = false) → app (.gapps ja imm) n (nOk && a.toNat % 8 == 0) (s.spRead x.grp a.toNat n)) ∧
      (∀ i ∈ [Instr.gappg ja imm, .gapps ja imm], (ok8 = false → exec i s = stop 3) ∧ (ok8 = true → x.nslot * 8192 < x.off + n → exec i s = stop 2) ∧
        (ok8 = true → x.off + n ≤ x.nslot * 8192 → (∃ k ∈ run, k ∈ h.held) → exec i s = .next s)) ∧
      (ok8 = true → x.off + n ≤ x.nslot * 8192 → (∀ k ∈ run, k ∉ h.held) →
        (∀ y, s.gSpBad x a n = some y → (s.thr x.ti).uid = x.uid → exec (.gapps ja imm) s = trapAt tSp 0 y) ∧
        (s.gSpBad x a n = none → s.spPoisoned x.grp a.toNat n = true → exec (.gapps ja imm) s = .next (rest.consume x.ti sramPa)) ∧
        (∀ c sub fa ws, s.gLoads x a (n / 8) [] = (.fault c sub fa, ws) → (s.thr x.ti).uid = x.uid → exec (.gappg ja imm) s = trapAt c sub fa) ∧
        (∀ t ws, s.gLoads x a (n / 8) [] = (.wait t, ws) → exec (.gappg ja imm) s = .next (s.keepWalks t)) ∧
        (∀ pa ws, s.gLoads x a (n / 8) [] = (.poison pa, ws) → exec (.gappg ja imm) s = .next (rest.consume x.ti pa))) ∧
      (ok8 = true → x.off + n ≤ x.nslot * 8192 → (∀ k ∈ run, k ∉ h.held) →
        ∀ v t ws, s.gLoads x a (n / 8) [] = (.ok v t, ws) → exec (.gappg ja imm) s =
          on (t.setHalf x.ti.die x.ti.clu x.ti.ctx ((t.half x.ti.die x.ti.clu x.ti.ctx).opWrite g x.outslot x.off ((wordsBytes ws).take n))) { x with pc := x.pc + 1, off := x.off + n, rows := x.rows + 1#64 })) ∧
    (64 ≤ n → exec (.gshli jd ja imm) s = stop 3 ∧ exec (.gshri jd ja imm) s = stop 3) ∧
    (¬ fall → ∀ i ∈ [Instr.gnop, .gadd jd ja jb, .gsub jd ja jb, .gmul jd ja jb, .gand jd ja jb, .gor jd ja jb, .gxor jd ja jb, .gaddi jd ja imm, .gli jd imm,
        .gshli jd ja imm, .gshri jd ja imm, .ghash jd ja jb, .gldw jd ja imm, .gldd jd ja imm, .glds jd ja imm, .gappg ja imm, .gapps ja imm, .gappz imm, .gappj ja], exec i s = stop 3) ∧
    br (.gbeq ja jb off) (decide (a = b)) x off.toInt ∧ br (.gbne ja jb off) (decide (a ≠ b)) x off.toInt ∧
    br (.gbltu ja jb off) (decide (a.toNat < b.toNat)) x off.toInt ∧ br (.gjmp imm) true x imm.toInt ∧
    br (.gdjnz jd imm) (decide (d - 1#64 ≠ 0#64)) { x with j := vset x.j jd.toNat (d - 1#64) } imm.toInt)

/-- COPY and COPYM hand a copy to the engine with the shorter queue; it moves its pieces row by row, completes when it stands, or stops with the
cause (R125, R126, R253, R254, R255, R256, R257, R328, R364, R376). For an issue with an even pair rd of w0 to w23 and no reserved bit set,
whose sides lie where R255 asks and whose release at die scope is done: LEN 0 completes at once; otherwise the copy, with both descriptor
words, both addresses and the thread, joins the engine of its die with the shorter queue (engine 0 when equal), COPIES rises by 1 and the
thread goes on; until the release is done it waits. An odd rd raises IllegalInstruction, a reserved bit or an invalid multicast group
IllegalOperation, a member out of REACH PhysicalAddress (R376), a poisoned word of the group's table contains the thread (R364, log 46), and
a scratchpad side that is not valid raises ScratchpadRange at the lowest invalid address. That a step of the engine visits one destination
word, and that RESUME holds the row times 2^32 plus the byte, are logs 11 and 47; which engine takes a copy when both are equal, and what a
group's table outside device and host memory is, is log 44 (design choices). The engine reads each source word whole, once, and writes the
bytes of one destination word as one entry, then steps along the row and to the next; a source that faults stops the visits with cause XLATE
and ROW, BYTE as RESUME. A copy that has visited every byte, or has stopped, ends when it awaits no peer: COPIES falls, at .sys if it wrote
a peer's keys, and a stopped one faults. A multicast ends at the last member's answer, with cause MEMBER if one is lost. -/
def Obligations.CopyEngines : Prop :=
  (∀ (ti : SlotId) (rd rs rt : Reg) (s : State), s.issues ti →
    let x := s.thr ti
    let d := (x.reg rd).toNat
    let d1 := x.reg (rd + 1#5)
    let len := d % 2 ^ 24
    let rows := d / 2 ^ 24 % 2 ^ 12
    let kind := d / 2 ^ 36 % 4
    let src := x.reg rs
    let dst := x.reg rt
    let sS := d1.toNat % 2 ^ 32
    let dS := d1.toNat / 2 ^ 32
    let even : Prop := rd.toNat % 2 = 0 ∧ rd.toNat ≤ 22
    let spOk (a : W64) (st : Nat) : Prop := ∀ i, i ≤ rows → s.spBad x.grp ((a.toNat + i * st) % 2 ^ 32) len = none
    let glOk (a : W64) (st : Nat) : Prop := len = 0 ∨ (a.toNat < 2 ^ 56 ∧ (a + BitVec.ofNat 64 (rows * st + len - 1)).toNat < 2 ^ 56)
    let srcOk : Prop := if 2 ≤ kind then spOk src sS else glOk src sS
    let dstOk : Prop := if kind % 2 = 1 then spOk dst dS else glOk dst dS
    let op (u : State) (multi : Bool) (mem : List (Nat × Nat)) : CopyOp :=
      let n (e : Nat) : Nat := (u.copies.filter fun c => c.die == ti.die && c.eng == e).length
      { id := u.fresh, die := ti.die, eng := if n 0 ≤ n 1 then 0 else 1, ti := some ti, uid := (u.thr ti).uid, grp := (u.thr ti).grp, clu := ti.clu, ctx := ti.ctx
        qent := none, sup := (u.thr ti).sup, first := s.cur.addr, multi := multi, d0 := x.reg rd, d1 := d1, s := src, t := dst, row := 0, byte := 0, mem := mem, await := mem.map (·.1), lost := []
        stop := none, buf := [], want := 0#64, sys := multi }
    let queued (u : State) (multi : Bool) (mem : List (Nat × Nat)) : Out :=
      .next (({ u with copies := u.copies ++ [op u multi mem], fresh := u.fresh + 1 }.modThr ti fun t => { t with copies := t.copies + 1 }).fall)
    let empty (u : State) (sc : Scope) : Out := .next (u.modThr ti fun t => { t with doneOps := t.doneOps ++ [sc] }).fall
    (¬ even → ∀ i ∈ [Instr.copy rd rs rt, .copym rd rs rt], exec i s = .next (s.takeTrap tIllegal 0 s.cur.addr)) ∧
    (even → d / 2 ^ 38 ≠ 0 → exec (.copy rd rs rt) s = .next (s.takeTrap tOp 0 s.cur.addr)) ∧
    (even → d / 2 ^ 46 ≠ 0 ∨ kind % 2 = 1 → exec (.copym rd rs rt) s = .next (s.takeTrap tOp 0 s.cur.addr)) ∧
    (even → d / 2 ^ 38 = 0 → ∀ a,
      let bad (b : Nat) : Prop := ∃ i, i ≤ rows ∧ ((2 ≤ kind ∧ s.spBad x.grp ((src.toNat + i * sS) % 2 ^ 32) len = some b) ∨ (kind % 2 = 1 ∧ s.spBad x.grp ((dst.toNat + i * dS) % 2 ^ 32) len = some b))
      bad a → (∀ b, bad b → a ≤ b) → exec (.copy rd rs rt) s = .next (s.takeTrap tSp 0 (BitVec.ofNat 64 a))) ∧
    (even → d / 2 ^ 38 = 0 → srcOk → dstOk →
      (∀ t, s.release .die false = .error (.hold t) → exec (.copy rd rs rt) s = .next t) ∧
      (∀ u, s.release .die false = .ok u →
        (len = 0 → exec (.copy rd rs rt) s = empty u .die) ∧ (len ≠ 0 → exec (.copy rd rs rt) s = queued u false []))) ∧
    (even → d / 2 ^ 46 = 0 → kind % 2 = 0 → srcOk →
      let grp := s.groupOf (s.partOf ti.die) (d / 2 ^ 38 % 2 ^ 8) (dst.toNat + rows * dS + len)
      (grp = .invalid → exec (.copym rd rs rt) s = .next (s.takeTrap tOp 0 s.cur.addr)) ∧
      (grp = .unreach → exec (.copym rd rs rt) s = .next (s.takeTrap tPhys 0 dst)) ∧
      (grp = .held → exec (.copym rd rs rt) s = .next s) ∧
      (∀ pa, grp = .poison pa → exec (.copym rd rs rt) s = .next (s.consume ti pa)) ∧
      (∀ mem, grp = .ok mem →
        (∀ t, s.release .die false = .error (.hold t) → exec (.copym rd rs rt) s = .next t) ∧
        (∀ u, s.release .die false = .ok u →
          (len = 0 → exec (.copym rd rs rt) s = empty u .sys) ∧ (len ≠ 0 → exec (.copym rd rs rt) s = queued u true mem))))) ∧
  (∀ (s : State) (o : CopyOp), s.copies.find? (fun c => c.id == s.cur.ev.q) = some o →
    let len := o.d0.toNat % 2 ^ 24
    let rows := o.d0.toNat / 2 ^ 24 % 2 ^ 12
    let kind := o.d0.toNat / 2 ^ 36 % 4
    let sa : W64 := let a := o.s + BitVec.ofNat 64 (o.row * (o.d1.toNat % 2 ^ 32) + o.byte); if 2 ≤ kind then BitVec.ofNat 64 (a.toNat % 2 ^ 32) else a
    let da : W64 := let a := o.t + BitVec.ofNat 64 (o.row * (o.d1.toNat / 2 ^ 32) + o.byte); if o.multi = false ∧ kind % 2 = 1 then BitVec.ofNat 64 (a.toNat % 2 ^ 32) else a
    let sh := sa.toNat % 8
    let a1 := sa - BitVec.ofNat 64 sh
    let a2 : W64 := if 2 ≤ kind then BitVec.ofNat 64 ((a1 + 8#64).toNat % 2 ^ 32) else a1 + 8#64
    let m := min (len - o.byte) (8 - da.toNat % 8)
    let m1 := min m (8 - sh)
    let nx (y : CopyOp) : CopyOp := if o.byte + m < len then { y with byte := o.byte + m } else { y with row := o.row + 1, byte := 0 }
    let part1 (w : W64) : Nat := w.toNat / 2 ^ (8 * sh) % 2 ^ (8 * m1)
    let part2 (w : W64) : Nat := w.toNat % 2 ^ (8 * (m - m1)) * 2 ^ (8 * m1)
    let writes (u : State) (y : CopyOp) (v : Nat) : Prop :=
      (o.multi = true → exec .copyComplete s = .next ((u.multicast y da.toNat m v).setCopy (nx y))) ∧
      (o.multi = false → kind % 2 = 1 → exec .copyComplete s = .next ((u.spWrite o.grp da.toNat (leBytes m v)).setCopy (nx y))) ∧
      (o.multi = false → kind % 2 = 0 → ∀ r t, u.eWrite o.id o.die o.ctx o.sup ⟨(u.grpD o.grp).launch, o.id⟩ da m v = .ok r t →
        exec .copyComplete s = .next (t.setCopy (nx { y with sys := o.sys || (u.ePeer o.id o.die o.ctx .write o.sup da).isSome })))
    let gone : State := { s with copies := s.copies.filter fun c => c.id != o.id }
    let ended (ti : SlotId) : State := if (gone.thr ti).uid = o.uid then gone.modThr ti fun t => { t with copies := t.copies - 1, doneOps := t.doneOps ++ [if o.sys then Scope.sys else .die] } else gone
    let past : Prop := rows < o.row ∨ o.stop.isSome = true
    (∀ a : W64, (∀ y ∈ o.buf, y.1 ≠ a) →
      let w : W64 := BitVec.ofNat 64 (leNat (s.spRead o.grp a.toNat 8))
      (2 ≤ kind → s.spPoisoned o.grp a.toNat 8 = false → o.srcWord s a = .ok w s { o with buf := ((a, w) :: o.buf).take 2 }) ∧
      (kind < 2 → s.ePeer o.id o.die o.ctx .read o.sup a = none →
        (∀ v u, s.eRead o.id o.die o.ctx o.sup a 8 = .ok v u → o.srcWord s a = .ok (BitVec.ofNat 64 v) u { o with buf := ((a, BitVec.ofNat 64 v) :: o.buf).take 2 }) ∧
        (∀ u, s.eRead o.id o.die o.ctx o.sup a 8 = .wait u → o.srcWord s a = .wait u o) ∧
        (∀ va, s.eRead o.id o.die o.ctx o.sup a 8 = .fault va → o.srcWord s a = .fault va))) ∧
    (o.row ≤ rows → o.stop = none → s.copyTurn o = true → s.cur.ev.n = 0 →
      (∀ w u y, o.srcWord s a1 = .ok w u y →
        (m1 = m → writes u y (part1 w)) ∧
        (m1 ≠ m → ∀ w2 u2 y2, y.srcWord u a2 = .ok w2 u2 y2 → writes u2 y2 (part1 w + part2 w2))) ∧
      (∀ u y, o.srcWord s a1 = .wait u y → exec .copyComplete s = .next (u.setCopy y)) ∧
      (∀ va, o.srcWord s a1 = .fault va →
        exec .copyComplete s = .next (s.setCopy { o with stop := some (5, BitVec.ofNat 64 (o.row * 2 ^ 32 + o.byte), va) }))) ∧
    (past → o.multi = false → (∀ r ∈ s.peerq, r.owner.uid ≠ o.id) → ∀ ti, o.ti = some ti →
      (o.stop = none → exec .copyComplete s = .next (ended ti)) ∧
      (∀ c r fa, o.stop = some (c, r, fa) → (s.thr ti).uid = o.uid →
        exec .copyComplete s = .next ((ended ti).engineFaultTo ti o.uid c 0 o.first r fa 0#64))) ∧
    (past → o.multi = false → (∃ r ∈ s.peerq, r.owner.uid = o.id) → exec .copyComplete s = .next (s.setCopy o))) ∧
  (∀ (s : State) (o : CopyOp) (ti : SlotId), s.copies.find? (fun c => c.id == s.cur.ev.q && c.multi) = some o → o.ti = some ti → (s.thr ti).uid = o.uid →
    (o.d0.toNat / 2 ^ 24 % 2 ^ 12 < o.row ∨ o.stop.isSome = true) → s.cur.ev.u ∈ o.await →
    (s.cur.ev.u = (s.part (s.partOf o.die)).devid.toNat % 2 ^ 8 → s.cur.ev.flag = false ∧ ∀ y ∈ (s.die o.die).sent, ∀ w ∈ y.e.owners, w.uid ≠ o.id) →
    let away : State := { s with peerq := s.peerq.filter fun r => !(r.owner.uid == o.id && r.dev == s.cur.ev.u) }
    let left := o.await.filter (· != s.cur.ev.u)
    let lost := if s.cur.ev.flag then o.lost ++ [s.cur.ev.u] else o.lost
    let ended : State := { away with copies := s.copies.filter fun c => c.id != o.id }.modThr ti fun t => { t with copies := t.copies - 1, doneOps := t.doneOps ++ [Scope.sys] }
    (left ≠ [] → exec .copymMemberAnswer s = .next (away.setCopy { o with await := left, lost := lost })) ∧
    (left = [] → ∀ c r fa, o.stop = some (c, r, fa) → exec .copymMemberAnswer s = .next (ended.engineFaultTo ti o.uid c 1 o.first r fa 0#64)) ∧
    (left = [] → o.stop = none → lost = [] → exec .copymMemberAnswer s = .next ended) ∧
    (left = [] → o.stop = none → ∀ v r, lost = v :: r → exec .copymMemberAnswer s = .next (ended.engineFaultTo ti o.uid 7 1 o.first 0#64 0#64 (BitVec.ofNat 64 v))))

/-- WBIN, WREPLAY and WCLASS queue an operation; the engine bins a record, replays a region or sorts a row, and writes how the operation ended
(R253, R258, R259, R260, R261, R262, R364). For a thread whose addresses are aligned, whose reserved bits are 0 and whose release at die
scope is done, each of the three appends its operation to the Winnow queue, raises COPIES and goes on; WREPLAY with a count of 0 completes
at once. An address that is not aligned raises Alignment, a reserved bit or NREC above 4096 IllegalOperation, an address at or above 2^56
Translation (with SUB 3: log 53). At the engine: a record of a bin goes to BASE + 16 COUNT of its region and raises COUNT, stops with
OVERFLOW when COUNT is CAP, and with BADREC when it is invalid or lies beyond NREG; a region whose COUNT is 0 is passed over; another is
staged, and its replay writes the touched elements and clears COUNT; a row of a decreasing offset stops with BADROW, an empty one counts in
EMPTY, another goes to the list of its length's class; a header that is not in order stops with BADTABLE. The last one writes NEXT and cause
0 and COPIES falls. A stop that cannot be reported yet is kept, with nothing done again. The order BASE, COUNT, record and the free value of
WSTATUS.REGION where the spec names no region are log 16 (a design choice); a poisoned record or staged word contains the thread (R364, log
46). -/
def Obligations.Winnow : Prop :=
  (∀ (ti : SlotId) (rd rs rt : Reg) (s : State), s.issues ti →
    let x := s.thr ti
    let d := (x.reg rd).toNat
    let a := (x.reg rs).toNat
    let t := (x.reg rt).toNat
    let bad (i : Instr) (c : Nat) (fa : W64) : Prop := exec i s = .next (s.takeTrap c 0 fa)
    let op (u : State) (kind : Nat) : WinOp :=
      { id := u.fresh, kind := kind, die := ti.die, ti := ti, uid := (u.thr ti).uid, grp := (u.thr ti).grp, clu := ti.clu, ctx := ti.ctx, sup := (u.thr ti).sup, det := (u.thr ti).det
        first := s.cur.addr, d := x.reg rd, s := x.reg rs, t := x.reg rt, pos := 0, hdr := none, staged := none, own := 0 }
    let high (i : Instr) (va : W64) : Prop := exec i s = .next (s.takeTrap tXlate subEng va)
    let queued (i : Instr) (kind : Nat) : Prop :=
      (∀ u, s.release .die false = .error (.hold u) → exec i s = .next u) ∧
      (∀ u, s.release .die false = .ok u →
        exec i s = .next (({ u with winnow := u.winnow ++ [op u kind], fresh := u.fresh + 1 }.modThr ti fun t => { t with copies := t.copies + 1 }).fall))
    (a % 16 ≠ 0 → bad (.wbin rd rs rt) tAlign (x.reg rs)) ∧
    (a % 16 = 0 → t % 64 ≠ 0 → bad (.wbin rd rs rt) tAlign (x.reg rt)) ∧
    (a % 16 = 0 → t % 64 = 0 → 4096 < d → bad (.wbin rd rs rt) tOp s.cur.addr) ∧
    (a % 16 = 0 → t % 64 = 0 → d ≤ 4096 → a < 2 ^ 32 → s.spBad x.grp a (16 * d) = none →
      (2 ^ 56 ≤ t → high (.wbin rd rs rt) (x.reg rt)) ∧ (t < 2 ^ 56 → queued (.wbin rd rs rt) 0)) ∧
    (t % 64 ≠ 0 → bad (.wreplay rd rs rt) tAlign (x.reg rt)) ∧
    (t % 64 = 0 → 2 ^ 32 ≤ d ∨ 2 ^ 32 ≤ a → bad (.wreplay rd rs rt) tOp s.cur.addr) ∧
    (t % 64 = 0 → d < 2 ^ 32 → a < 2 ^ 32 → 2 ^ 56 ≤ t → high (.wreplay rd rs rt) (x.reg rt)) ∧
    (t % 64 = 0 → d < 2 ^ 32 → a < 2 ^ 32 → t < 2 ^ 56 → (d ≠ 0 → queued (.wreplay rd rs rt) 1) ∧
      (d = 0 → ∀ u, s.release .die false = .ok u → exec (.wreplay rd rs rt) s = .next (u.modThr ti fun t => { t with doneOps := t.doneOps ++ [.die] }).fall)) ∧
    (a % 4 ≠ 0 → bad (.wclass rd rs rt) tAlign (x.reg rs)) ∧
    (a % 4 = 0 → t % 32 ≠ 0 → bad (.wclass rd rs rt) tAlign (x.reg rt)) ∧
    (a % 4 = 0 → t % 32 = 0 → (2 ^ 56 ≤ a → high (.wclass rd rs rt) (x.reg rs)) ∧ (a < 2 ^ 56 → 2 ^ 56 ≤ t → high (.wclass rd rs rt) (x.reg rt)) ∧
      (a < 2 ^ 56 → t < 2 ^ 56 → queued (.wclass rd rs rt) 2))) ∧
  (∀ (s : State) (o : WinOp) (h : List W64), s.winnow.find? (fun y => y.die == s.cur.ev.die) = some o → o.hdr = some h → o.halt = none → s.cur.ev.n = 0 →
    let e : Eng := ⟨o.id, o.die, o.ctx, o.sup, ⟨(s.grpD o.grp).launch, o.own⟩⟩
    let stop (u : State) (cause region : Nat) : Prop := exec .winnowComplete s = .next (u.winStop o cause region 0#64)
    let done (u : State) : Prop := exec .winnowComplete s = .next { u with winnow := u.winnow.replace o { o with pos := o.pos + 1 } }
    let any : Nat := (Config.freeWord s.frees).toNat % 2 ^ 32
    let good : Prop := o.kind = 2 ∨ headerOk h = true
    let total := if o.kind = 0 then o.d.toNat % 2 ^ 13 else o.d.toNat % 2 ^ 32
    let more (w : Nat) : Option Nat := if w % 2 ^ 32 = w / 2 ^ 32 then none else some (w / 2 ^ 32 * 2 ^ 32 + (w % 2 ^ 32 + 1))
    (o.kind ≠ 2 → headerOk h = false → stop s 3 any) ∧
    (good → total ≤ o.pos → ∀ r u, o.report s o.pos 0 none = .ok r u →
      exec .winnowComplete s = .next (let g : State := { u with winnow := u.winnow.erase o }
        if (g.thr o.ti).uid = o.uid then g.modThr o.ti fun t => { t with copies := t.copies - 1, doneOps := t.doneOps ++ [.die] } else g)) ∧
    (good → o.pos < total → o.kind = 0 → s.spPoisoned o.grp (o.s.toNat + 16 * o.pos) 16 = true →
      exec .winnowComplete s = .next ((s.dropWin o).consume o.ti sramPa)) ∧
    (good → o.pos < total → o.kind = 0 → s.spPoisoned o.grp (o.s.toNat + 16 * o.pos) 16 = false →
      let r0 := leNat (s.spRead o.grp (o.s.toNat + 16 * o.pos) 8)
      let r1 := leNat (s.spRead o.grp (o.s.toNat + 16 * o.pos + 8) 8)
      let sh := (h.getD 1 0#64).toNat % 2 ^ 5
      let region := r0 % 2 ^ 40 / 2 ^ sh
      let at0 := o.t + BitVec.ofNat 64 (0x40 + 16 * region)
      (recOk h o.det r0 = false ∨ (h.getD 1 0#64).toNat / 2 ^ 32 ≤ region → stop s 2 any) ∧
      (recOk h o.det r0 = true → region < (h.getD 1 0#64).toNat / 2 ^ 32 → ∀ base s1 w s2, s.wRead e 2 at0 8 = .ok base s1 → s1.wBarn e (at0 + 8#64) more = .ok w s2 →
        (w % 2 ^ 32 = w / 2 ^ 32 → stop s1 1 region) ∧
        (w % 2 ^ 32 ≠ w / 2 ^ 32 → ∀ v u, s2.wWrite e 3 (BitVec.ofNat 64 (base + 16 * (w % 2 ^ 32))) 16 (r0 + r1 * 2 ^ 64) = .ok v u → done u))) ∧
    (good → o.pos < total → o.kind = 1 →
      let region := o.s.toNat % 2 ^ 32 + o.pos
      let at0 := o.t + BitVec.ofNat 64 (0x40 + 16 * region)
      let shift := (h.getD 1 0#64).toNat % 2 ^ 5
      let bytes := 2 ^ shift * (hWidth h).bytes
      ((h.getD 1 0#64).toNat / 2 ^ 32 ≤ region → stop s 3 any) ∧
      (region < (h.getD 1 0#64).toNat / 2 ^ 32 → o.staged = none → ∀ w s1, s.wRead e 2 (at0 + 8#64) 4 = .ok w s1 →
        (w = 0 → done s1) ∧
        (w ≠ 0 → ∀ elems s2, s1.wRead e (bytes + 1) (BitVec.ofNat 64 ((h.getD 0 0#64).toNat % 2 ^ 56 + region * bytes)) bytes = .ok elems s2 →
          exec .winnowComplete s = .next ((s2.setDie o.die { s2.die o.die with loft := bytesWords bytes elems, loftBad := [] }).setWin o { o with staged := some w }))) ∧
      (region < (h.getD 1 0#64).toNat / 2 ^ 32 → ∀ w, o.staged = some w → (s.die o.die).loftBad = [] →
        ∀ base s1 s2 m s3 v, s.wRead e 2 at0 8 = .ok base s1 → o.replayRecs h region base (wordsNat (s.die o.die).loft) w 0 s1 [] = .ok (s2, m) →
          o.writeTouched h m ((m.map (·.1)).foldl (fun a i => ninsert i a) []) s2 = .ok v s3 →
          ∀ y u, (s3.setWin o { o with pos := o.pos + 1, staged := none }).wBarn e (at0 + 8#64) (fun w => some (w / 2 ^ 32 * 2 ^ 32)) = .ok y u →
            exec .winnowComplete s = .next u) ∧
      (region < (h.getD 1 0#64).toNat / 2 ^ 32 → ∀ w, o.staged = some w → (s.die o.die).loftBad ≠ [] →
        exec .winnowComplete s = .next ((s.dropWin o).consume o.ti sramPa))) ∧
    (o.kind = 2 → o.pos < total → ∀ a s1 b s2, s.wRead e 2 (o.s + BitVec.ofNat 64 (4 * o.pos)) 4 = .ok a s1 → s1.wRead e 2 (o.s + BitVec.ofNat 64 (4 * o.pos + 4)) 4 = .ok b s2 →
      (b < a → stop s 6 any) ∧
      (a = b → ∀ v u, s2.wBarn e o.t (fun w => some ((w + 1) % 2 ^ 64)) = .ok v u → done u) ∧
      (a < b →
        let l := b - a
        let c := if l ≤ 2 then 0 else if l ≤ 8 then 1 else if l ≤ 32 then 2 else if l ≤ 128 then 3 else 4
        let at0 := o.t + BitVec.ofNat 64 (0x10 + 16 * c)
        ∀ base s3 w s4, s2.wRead e 2 at0 8 = .ok base s3 → s3.wBarn e (at0 + 8#64) more = .ok w s4 →
          (w % 2 ^ 32 = w / 2 ^ 32 → stop s3 1 c) ∧
          (w % 2 ^ 32 ≠ w / 2 ^ 32 → ∀ v u, s4.wWrite e 4 (BitVec.ofNat 64 (base + 4 * (w % 2 ^ 32))) 4 ((o.d.toNat / 2 ^ 32 + o.pos) % 2 ^ 32) = .ok v u → done u)))) ∧
  (∀ (s : State) (o : WinOp) (cause region : Nat) (fa : W64),
    (s.winnow.find? (fun y => y.die == s.cur.ev.die) = some o → o.halt = some (cause, region, fa) → exec .winnowComplete s = .next (s.winStop o cause region fa)) ∧
    (∀ t, o.report s o.pos cause (some region) = .wait t →
      s.winStop o cause region fa = ((s.keepWalks t).setWin o { o with halt := some (cause, region, fa) }).wantMerge (.rick o.die))) ∧
  (∀ (s : State) (o : WinOp) (cause region r : Nat) (fa : W64) (u : State), o.report s o.pos cause (some region) = .ok r u → (u.thr o.ti).uid = o.uid →
    s.winStop o cause region fa = ({ u with frees := u.frees + 1, winnow := u.winnow.erase o }.modThr o.ti fun t => { t with copies := t.copies - 1, doneOps := t.doneOps ++ [Scope.die] }).engineFaultTo
      o.ti o.uid cause (4 + o.kind) o.first (BitVec.ofNat 64 o.pos) fa o.t)

/-- FERRY leaves the rotation with its call under way and returns with status and words; RSEND and IXRED start a message; SLCTL reads or aborts
a unit (R123, R124, R125, R126, R252, R263, R264, R265, R267, R271, R277, R364). For addresses in this device's memory and, where a peer is
named, of a reachable peer. FERRY of a group's thread, checks passed and release done (a barn release toward a Reed core, at system scope
toward a cluster), appends a call with the thread's id, entry, source and w16 to w23, adds 1 to the call counter and leaves the rotation;
destinations w16 to w23 raise IllegalInstruction, an odd or too large entry, or a handler, IllegalOperation. The timer sends the call again,
marked as a retransmission, up to 16 sends, then it returns UNKNOWN. Its reply acquires at device scope, writes the payload to w16 on (all
eight words for OK, two for REMOTE_FAULT, none otherwise) and the status to rd, and the thread goes on; under .t a status other than 0
traps. RSEND to channels 0 to 13 and IXRED with a valid, unpoisoned command send a message with the eight words and raise COPIES. A
ferry-slot handler's RSEND replies with w0 to w7 and frees the slot. SLCTL writes the status of the unit the address names; ABORT stops a
busy one. Toward a peer, after a release at system scope, FERRY, RSEND, IXRED and SLCTL put their request last in the peer's stream (log
60); FERRY leaves the rotation, RSEND and IXRED raise COPIES and go on, and SLCTL waits for the answer and writes it. A poisoned IXRED
command contains the thread (R364, log 46). That a FERRY id is the thread's call counter is log 51. -/
def Obligations.FerryAndMessages : Prop :=
  (∀ (ti : SlotId) (cl tt : Bool) (rd rs rt : Reg) (s : State), s.issues ti →
    let x := s.thr ti
    let entry := (x.reg rt).toNat
    let rdOk : Prop := rd.toNat < 16 ∨ 24 ≤ rd.toNat
    let entryOk : Prop := entry % 2 = 0 ∧ entry < (if cl then 2 ^ 56 else 0x2000)
    let words (t : Thread) : List W64 := (List.range 8).map fun i => t.reg (BitVec.ofNat 5 (16 + i))
    let sent (u : State) (pa kind chan : Nat) (pay : List W64) : Out :=
      let m : Msg := { kind := kind, q := chanOf pa, chan := chan, src := u.srcOf ti, ctx := ti.ctx, id := u.fresh, entry := 0, pay := pay, ti := some ti, uid := (u.thr ti).uid
                       qent := none, first := s.cur.addr, tile := none }
      .next (({ u with msgs := u.msgs ++ [m], fresh := u.fresh + 1 }.modThr ti fun t => { t with copies := t.copies + 1 }).fall)
    (¬ rdOk → exec (.ferry cl tt rd rs rt) s = .next (s.takeTrap tIllegal 0 s.cur.addr)) ∧
    (rdOk → x.kind ≠ .group → exec (.ferry cl tt rd rs rt) s = .next (s.takeTrap tOp 0 s.cur.addr)) ∧
    (∀ pa lin s1, s.keyAt (x.reg rs) 1 .read subEng = .ok (⟨pa, .dram lin⟩, s1) →
      (rdOk → x.kind = .group → ¬ entryOk → exec (.ferry cl tt rd rs rt) s = .next (s.takeTrap tOp 0 s.cur.addr)) ∧
      (rdOk → x.kind = .group → entryOk → ∀ u, (if cl then s1.release .sys false else s1.barnRelease (chanOf pa)) = .ok u →
        let y := u.thr ti
        let c : Call := { ti := ti, uid := y.uid, rd := rd.toNat, tt := tt, id := y.callCtr.toNat, cl := cl
                          tgt := if cl then homeDie pa * 96 + chanOf pa % 64 else chanOf pa
                          peer := none, entry := entry, pay := words y, src := u.srcOf ti, ctx := ti.ctx, sends := 1, inFly := [false], reply := none, ended := false }
        ∃ t, exec (.ferry cl tt rd rs rt) s = .next t ∧ t.calls = u.calls ++ [c] ∧ (t.thr ti).callCtr = y.callCtr + 1 ∧ (t.thr ti).wait = .engine ∧
          (t.thr ti).pc = y.pc ∧ (∀ pl, (t.thr ti).atPlace pl = y.atPlace pl) ∧ t.mem = u.mem ∧ t.runs = u.runs ∧ ∀ tj, tj ≠ ti → t.thr tj = u.thr tj) ∧
      (x.kind ≠ .ferryH → entry < 14 → ∀ u, s1.barnRelease (chanOf pa) = .ok u → exec (.rsend rs rt) s = sent u pa 1 entry (words (u.thr ti))) ∧
      (x.kind ≠ .ferryH → 14 ≤ entry → exec (.rsend rs rt) s = .next (s.takeTrap tOp 0 s.cur.addr)) ∧
      (∀ u, s1.barnRelease (chanOf pa) = .ok u →
        let q := chanOf pa
        let g := lin / 2048 % 4
        let st (v : State) : Out := .next (((v.acqAt ti .dev).setReg rd (v.sluice q g).status).fall)
        linOf pa = some lin →
        (entry % 4 = 0 → exec (.slctlStatus rd rs rt) s = st u) ∧
        (entry % 4 = 1 → (u.sluice q g).busy = false → exec (.slctlAbort rd rs rt) s = st u) ∧
        (entry % 4 = 1 → (u.sluice q g).busy = true → ∃ a0 a1, a0.length = 256 ∧ a1.length = 256 ∧ exec (.slctlAbort rd rs rt) s =
          st { u.setSluice q g { u.sluice q g with busy := false, susp := false, win := false, endc := 3, a0 := a0, a1 := a1 } with frees := u.frees + 512 })) ∧
      (entry % 4 ≠ 0 → exec (.slctlStatus rd rs rt) s = .next (s.takeTrap tOp 0 s.cur.addr)) ∧
      (entry % 4 ≠ 1 → exec (.slctlAbort rd rs rt) s = .next (s.takeTrap tOp 0 s.cur.addr))) ∧
    (∀ pa d o s1, s.keyAt (x.reg rs) 1 .read subEng = .ok (⟨pa, .peer d o⟩, s1) →
      let req (u : State) (r : PeerReq) : PReq := ⟨u.fresh, d, r, u.owner ti, some ti, s.cur.addr, true⟩
      (rdOk → x.kind = .group → ¬ entryOk → exec (.ferry cl tt rd rs rt) s = .next (s.takeTrap tOp 0 s.cur.addr)) ∧
      (∀ u, s1.release .sys false = .ok u →
        let y := u.thr ti
        let src := u.srcOf ti
        let id := y.callCtr.toNat
        (rdOk → x.kind = .group → entryOk → ∃ t, exec (.ferry cl tt rd rs rt) s = .next t ∧
          t.peerq = u.peerq ++ [req u (if cl then .ferryClu o entry id false src (words y) else .ferryReed o entry id false src (words y))] ∧
          t.calls = u.calls ++ [{ ti := ti, uid := y.uid, rd := rd.toNat, tt := tt, id := id, cl := cl, tgt := o, peer := some d, entry := entry, pay := words y, src := src, ctx := ti.ctx
                                  sends := 1, inFly := [], reply := none, ended := false }] ∧
          (t.thr ti).callCtr = y.callCtr + 1 ∧ (t.thr ti).wait = .engine ∧ (t.thr ti).pc = y.pc ∧ (∀ pl, (t.thr ti).atPlace pl = y.atPlace pl) ∧ t.mem = u.mem ∧ t.runs = u.runs ∧
          ∀ tj, tj ≠ ti → t.thr tj = u.thr tj) ∧
        (x.kind ≠ .ferryH → entry < 14 → exec (.rsend rs rt) s = .next (({ u with
          peerq := u.peerq ++ [req u (.message o entry src (words y))], fresh := u.fresh + 1 }.modThr ti fun t => { t with copies := t.copies + 1 }).fall)) ∧
        (∀ ab : Bool, entry % 4 = (if ab then 1 else 0) → let i : Instr := if ab then .slctlAbort rd rs rt else .slctlStatus rd rs rt
          (y.ph.ans = none → ∃ t, exec i s = .next t ∧ t.peerq = u.peerq ++ [req u (.slctl o ab)] ∧ (t.thr ti).wait = .peer u.fresh .stays ∧ (t.thr ti).pc = y.pc ∧ t.mem = u.mem) ∧
          (∀ ws, y.ph.ans = some ws → exec i s = .next ((((u.setPhase { y.ph with ans := none }).acqAt ti .dev).setReg rd (ws.headD 0#64)).fall))))) ∧
    (x.kind = .ferryH → exec (.rsend rs rt) s = .next (s.takeTrap tOp 0 s.cur.addr)) ∧
    (x.kind ≠ .ferryH → exec .rsendReply s = .next (s.takeTrap tOp 0 s.cur.addr)) ∧
    (x.kind = .ferryH → x.loads = 0 → x.updates = 0 → x.copies = 0 → x.tiles = 0 → ∀ u, s.release .dev false = .ok u →
      exec .rsendReply s = .next (u.endFerryH ti 0 ((List.range 8).map fun i => (u.thr ti).reg (BitVec.ofNat 5 i)))) ∧
    ((x.reg rs).toNat % 64 = 0 → (x.reg rs).toNat < 2 ^ 32 → s.spBad x.grp (x.reg rs).toNat 64 = none → s.spPoisoned x.grp (x.reg rs).toNat 64 = true →
      exec (.ixred rs rt) s = .next (s.consume ti sramPa)) ∧
    ((x.reg rs).toNat % 64 = 0 → (x.reg rs).toNat < 2 ^ 32 → s.spBad x.grp (x.reg rs).toNat 64 = none → s.spPoisoned x.grp (x.reg rs).toNat 64 = false →
      let bs := s.spRead x.grp (x.reg rs).toNat 64
      let f (lo n : Nat) : Nat := leNat bs / 2 ^ lo % 2 ^ n
      let ok : Prop := f 384 32 % 64 = 0 ∧ 1 ≤ f 416 5 ∧ f 416 5 ≤ 16 ∧ f 421 3 = 0 ∧ 1 ≤ f 424 5 ∧ f 424 5 ≤ 16 ∧ f 429 19 = 0 ∧ f 448 32 % 8 = 0 ∧ f 480 32 % 8 = 0
      (¬ ok → exec (.ixred rs rt) s = .next (s.takeTrap tOp 0 s.cur.addr)) ∧
      (ok → ∀ pa lin s1 u, s.keyAt (x.reg rt) 1 .read subEng = .ok (⟨pa, .dram lin⟩, s1) → s1.barnRelease (chanOf pa) = .ok u →
        exec (.ixred rs rt) s = sent u pa 2 14 ((List.range 8).map fun i => BitVec.ofNat 64 (leNat bs / 2 ^ (64 * i)))) ∧
      (ok → ∀ pa d o s1 u, s.keyAt (x.reg rt) 1 .read subEng = .ok (⟨pa, .peer d o⟩, s1) → s1.release .sys false = .ok u →
        exec (.ixred rs rt) s = .next (({ u with
          peerq := u.peerq ++ [(⟨u.fresh, d, .message o 14 (u.srcOf ti) ((List.range 8).map fun i => BitVec.ofNat 64 (leNat bs / 2 ^ (64 * i))), u.owner ti, some ti, s.cur.addr, true⟩ : PReq)]
          fresh := u.fresh + 1 }.modThr ti fun t => { t with copies := t.copies + 1 }).fall)))) ∧
  (∀ (s : State) (c : Call), s.callOf s.cur.ev.ti = some c → c.peer = none →
    let ti := s.cur.ev.ti
    let x := s.thr ti
    let back : State := { s with
      calls := if c.inFly = [] then s.calls.erase c else s.calls.replace c { c with ended := true }
      peerq := s.peerq.filter fun r => !(r.req.isFerry && r.ti == some ti && r.owner.uid == x.uid) }.acqAt ti .dev
    let ret (st : Nat) (pay : List W64) : State := ((back.modThr ti fun t => t.setRegs 16 pay).modThr ti fun t => t.setReg (BitVec.ofNat 5 c.rd) (BitVec.ofNat 64 (st % 2 ^ 16))).fallOf ti
    (c.sends < 16 → exec .ferryRetransmit s = .next { s with calls := s.calls.replace c { c with sends := c.sends + 1, inFly := c.inFly ++ [true] } }) ∧
    (16 ≤ c.sends → x.live = true → c.tt = false → exec .ferryRetransmit s = .next (ret 2 [])) ∧
    (c.reply = none → exec .ferryReply s = .next s) ∧
    (∀ st pay, c.reply = some (st, pay) →
      (s.cur.ev.flag = true → exec .ferryReply s = .next { s with calls := s.calls.replace c { c with reply := none } }) ∧
      (s.cur.ev.flag = false → x.live = true →
        (st % 256 = 0 → exec .ferryReply s = .next (ret st pay)) ∧
        (st % 256 = 1 → c.tt = false → exec .ferryReply s = .next (ret st (pay.take 2))) ∧
        (2 ≤ st % 256 → c.tt = false → exec .ferryReply s = .next (ret st [])) ∧
        (st % 256 ≠ 0 → c.tt = true → exec .ferryReply s = .next (back.threadTrap ti tOp 0 x.pc x.pc x.pc)))))

/-- calls and messages arrive at most once and are dispatched in order; a Reed task's own instructions and IXRED's execution act as stated
(R101, R265, R266, R267, R268, R269, R270, R271, R272, R364). A copy of a call that arrives: a finished id answers again, an active one does
nothing, an unknown one marked as a retransmission answers UNKNOWN, a core without channel 15 or without the overlay answers REFUSED, and is
kept as finished with that answer, so that a repeat gets it again (log 51, DEDUCED); another joins channel 15's queue with its id active; a
cluster queues up to 16 calls. The first waiting call takes slot 14 of the lowest core where it is empty (in a placed group's row too: log
72), with w0 to w7 the payload and w8 the source, at user level and with DET 0 (log 73). A message whose channel is not enabled ends its
sender with REMOTE, one with room in its queue of 8 joins it. A core without a task takes the first message of its channel of highest PRIO,
with e0 on the payload, e8 the source and PC the entry. TKSET and TKCLR set and clear BLOCKED, OVSWAP loads 4,096 bytes into the other
overlay, TKEND replies or completes the sender. IXRED's command writes the sums as FP32 and fills DONE once it is empty; a poisoned word it
reads ends it and contains its sender (R364, log 46). Accesses at the barn are noted for the Sluice units (R274). -/
def Obligations.ReedTasks : Prop :=
  (∀ (s : State) (c : Call), s.calls.find? (fun c => c.ti == s.cur.ev.ti && !c.inFly.isEmpty) = some c →
    let c' : Call := { c with inFly := c.inFly.drop 1 }
    let u : State := { s with calls := if c'.ended = true ∧ c'.inFly = [] then s.calls.erase c else s.calls.replace c c' }
    let k := c.src + c.ctx * 2 ^ 32
    let answer (v : State) (st : Nat) (pay : List W64) : Out := .next (v.sendReply c.src c.ctx c.id st pay)
    let z : List W64 := List.replicate 8 0#64
    (c.cl = false →
      let r := s.reed c.tgt
      let known := idState r.ids k c.id
      let takes : Prop := r.retired = false ∧ (r.table.getD 15 0).testBit 17 = true ∧ (if c.entry < 4096 then r.ov0 ≠ none else r.ov1 ≠ none)
      (∀ st pay, known = some (.finished st pay) → exec .ferryCallArrive s = answer u st pay) ∧
      (known = some .active → exec .ferryCallArrive s = .next u) ∧
      (known = none → c.inFly.headD false = true → exec .ferryCallArrive s = answer u 2 z) ∧
      (known = some .dropped ∨ (known = none ∧ c.inFly.headD false = false) →
        (¬ takes → exec .ferryCallArrive s = answer (u.setReedId c.tgt k c.id (.finished 3 z)) 3 z) ∧
        (takes → 8 ≤ (r.queue.filter fun m => m.chan == 15).length → exec .ferryCallArrive s = .next s) ∧
        (takes → (r.queue.filter fun m => m.chan == 15).length < 8 →
          ∃ t m, exec .ferryCallArrive s = .next t ∧ (t.reed c.tgt).queue = r.queue ++ [m] ∧ (t.reed c.tgt).ids = setIdState r.ids k c.id .active ∧
            m.kind = 0 ∧ m.chan = 15 ∧ m.src = c.src ∧ m.ctx = c.ctx ∧ m.id = c.id ∧ m.ti = some c.ti ∧ m.uid = c.uid ∧ m.entry = c.entry ∧ m.pay = c.pay ∧ t.mem = s.mem ∧ t.slots = s.slots))) ∧
    (c.cl = true →
      let d := c.tgt / 96
      let cl := c.tgt % 96
      let h := s.half d cl c.ctx
      let known := idState h.ids k c.id
      (∀ st pay, known = some (.finished st pay) → exec .ferryCallArrive s = answer u st pay) ∧
      (known = some .active → exec .ferryCallArrive s = .next u) ∧
      (known = none → c.inFly.headD false = true → exec .ferryCallArrive s = answer u 2 z) ∧
      (known = some .dropped ∨ (known = none ∧ c.inFly.headD false = false) →
        ((s.cluster d cl).reserved = true → exec .ferryCallArrive s = answer (u.setHalf d cl c.ctx { h with ids := setIdState h.ids k c.id (.finished 3 z) }) 3 z) ∧
        ((s.cluster d cl).reserved = false → h.calls.length < 16 → exec .ferryCallArrive s =
          .next (u.setHalf d cl c.ctx { h with ids := setIdState h.ids k c.id .active, calls := h.calls ++ [⟨c.src, c.id, c.ctx, c.entry, c.pay⟩] })) ∧
        ((s.cluster d cl).reserved = false → 16 ≤ h.calls.length → exec .ferryCallArrive s =
          .next (u.setHalf d cl c.ctx { h with ids := setIdState h.ids k c.id .dropped }))))) ∧
  (∀ (s : State) (c : CCall) (rest : List CCall) (k : Nat),
    let e := s.cur.ev
    let ti : SlotId := ⟨e.die, e.clu, e.ctx, k, 14⟩
    (s.half e.die e.clu e.ctx).calls = c :: rest → k < 4 → (s.thr ti).live = false → (∀ j, j < k → (s.thr ⟨e.die, e.clu, e.ctx, j, 14⟩).live = true) →
    s.rotating ti = true → (s.cx ti).halted = false → (s.cx ti).saved = false →
    ∃ t, exec .ferrySlotDispatch s = .next t ∧ (t.half e.die e.clu e.ctx).calls = rest ∧ (t.thr ti).live = true ∧ (t.thr ti).kind = .ferryH ∧
      (t.thr ti).pc = BitVec.ofNat 64 c.entry ∧ (t.thr ti).sup = false ∧ (t.thr ti).det = false ∧ (t.thr ti).call = some (c.src, c.id) ∧ (t.thr ti).reg 8#5 = BitVec.ofNat 64 c.src ∧
      (c.pay.length = 8 → ∀ i v, c.pay[i]? = some v → (t.thr ti).reg (BitVec.ofNat 5 i) = v) ∧ t.mem = s.mem ∧ ∀ tj, tj ≠ ti → t.thr tj = s.thr tj) ∧
  (∀ (s : State) (m : Msg), let q := s.cur.ev.q
    (s.msgs.filter fun m => m.q == q)[0]? = some m → s.cur.ev.n = 0 →
    let r := s.reed q
    let gone : State := { s with msgs := s.msgs.erase m }
    let enabled := (r.table.getD m.chan 0).testBit 17
    let n := (r.queue.filter fun x => x.chan == m.chan).length
    (r.retired = true ∨ enabled = false → exec .reedMessageArrive s = .next (gone.msgEnd m true)) ∧
    (r.retired = false → enabled = true → n < 8 → exec .reedMessageArrive s = .next (gone.setReed q { r with queue := r.queue ++ [m] })) ∧
    (r.retired = false → enabled = true → 8 ≤ n → exec .reedMessageArrive s = .next s)) ∧
  (∀ (s : State) (c : Nat) (m : Msg), let q := s.cur.ev.q
    let r := s.reed q
    let e (c : Nat) : Nat := r.table.getD c 0
    let may (c : Nat) : Prop := (e c).testBit 17 = true ∧ (e c).testBit 16 = false ∧ ∃ y ∈ r.queue, y.chan = c
    let prio (c : Nat) : Nat := e c / 2 ^ 14 % 4
    r.task = none → c < 16 → may c → (∀ b, b < 16 → may b → prio b < prio c ∨ (prio b = prio c ∧ c ≤ b)) →
    r.queue.find? (fun y => y.chan == c) = some m → m.pay.length = 8 →
    ∃ t, exec .reedDispatch s = .next t ∧ (t.reed q).queue = r.queue.erase m ∧ (t.reed q).task = some m ∧
      (t.reed q).pc = BitVec.ofNat 64 (if c = 15 then m.entry else e c % 2 ^ 13) ∧
      (c ≠ 14 → (∀ i, i < 8 → vget (t.reed q).e i = m.pay.getD i 0#64) ∧ vget (t.reed q).e 8 = BitVec.ofNat 64 (m.src % 2 ^ 24 + c * 2 ^ 24) ∧
        ∀ i, 9 ≤ i → i < 16 → vget (t.reed q).e i = vget r.e i) ∧ t.mem = s.mem ∧ t.slots = s.slots) ∧
  (∀ (s : State) (q : Nat) (rs rt : Reg), s.cur.who = .reed q →
    let r := s.reed q
    let c := (s.reg rs).toNat
    let a := (s.reg rt).toNat
    let e := r.table.getD c 0
    (c < 16 → exec (.tkset rs) s = .next (s.setReed q { r with table := lset r.table c (e ||| 2 ^ 16) }).fall ∧
      exec (.tkclr rs) s = .next (s.setReed q { r with table := lset r.table c (if e.testBit 16 then e - 2 ^ 16 else e) }).fall) ∧
    (16 ≤ c → ∀ i ∈ [Instr.tkset rs, .tkclr rs], exec i s = .next (s.takeTrap tOp 0 s.cur.addr)) ∧
    (a % 4096 ≠ 0 → exec (.ovswap rs rt) s = .next (s.takeTrap tAlign 0 (s.reg rt))) ∧
    (a % 4096 = 0 → a + 4096 ≤ s.lim q → r.retired = false → (∀ k, k < 512 → s.isPoison (q * 2 ^ 31 + a + 8 * k) = false) →
      let bs := s.mem.readN (q * 2 ^ 31 + a) 4096
      let asked := s.class0s (q * 2 ^ 31 + a) 4096
      (2 ≤ c ∨ s.cur.addr.toNat / 4096 = c → exec (.ovswap rs rt) s = .next (s.takeTrap tOp 0 s.cur.addr)) ∧
      (c = 0 → s.cur.addr.toNat / 4096 ≠ 0 → exec (.ovswap rs rt) s = .next (asked.setReed q { r with ov0 := some bs }).fall) ∧
      (c = 1 → s.cur.addr.toNat / 4096 ≠ 1 → exec (.ovswap rs rt) s = .next (asked.setReed q { r with ov1 := some bs }).fall)) ∧
    (∀ m, r.task = some m →
      let ended : State := s.setReed q { r with task := none, wait := Phase.zero }
      let out := (List.range 8).map fun i => vget r.e i
      (m.kind = 0 → exec .tkend s = .next ((ended.setReedId q (m.src + m.ctx * 2 ^ 32) m.id (.finished 0 out)).sendReply m.src m.ctx m.id 0 out)) ∧
      (m.kind ≠ 0 → exec .tkend s = .next (ended.msgEnd m false)))) ∧
  (∀ (s : State) (m : Msg), let q := s.cur.ev.q
    let r := s.reed q
    let cmd := leNat (wordsBytes m.pay)
    let f (lo n : Nat) : Nat := cmd / 2 ^ lo % 2 ^ n
    let rb := 32 * f 424 5
    let row (i : Nat) : Nat := f 384 32 + f (24 * i) 24 * rb
    let base := q * 2 ^ 31
    let dn := base + f 480 32
    let sum (j : Nat) : Nat := ((List.range (f 416 5)).foldl (fun (x : Cell) i => (x.add (cellOf ff16 (leNat (s.mem.readN (base + row i + 2 * j) 2)))).1) Cell.zero).round ff32
    let okAll : Prop := (∀ i, i < f 416 5 → row i + rb ≤ s.lim q) ∧ f 448 32 + 2 * rb ≤ s.lim q
    let clean : Prop := ∀ lin ∈ ixWords q cmd, s.isPoison lin = false
    let out (v : State) : State :=
      let w := v.dramWrite (base + f 448 32) ((List.range (16 * f 424 5)).flatMap fun j => leBytes 4 (sum j))
      (ixWords q cmd ++ [base + f 448 32]).foldl State.class0 { w with poison := w.poison.filter fun y => decide (y < (base + f 448 32) / 8) || decide ((base + f 448 32 + 2 * rb) / 8 ≤ y) }
    let staged (v : State) (st : Nat) : State := v.setReed q { r with wait := { r.wait with stage := 1, aux := st } }
    let fin (v : State) (st : Nat) : State :=
      let y := (v.barnFill dn (BitVec.ofNat 64 (st + f 416 5 * 256))).wakeWord dn
      (y.setReed q { y.reed q with task := none, wait := Phase.zero }).msgEnd m false
    r.task = some m → m.chan = 14 →
    (s.lim q < f 480 32 + 8 → exec .ixredExecute s = .next ((s.setReed q { r with task := none, wait := Phase.zero }).msgEnd m true)) ∧
    (f 480 32 + 8 ≤ s.lim q → r.wait.stage = 0 → okAll → clean →
      let v := staged (out s) 0
      (v.isFull dn = false → exec .ixredExecute s = .next (fin v 0)) ∧ (v.isFull dn = true → exec .ixredExecute s = .next v)) ∧
    (f 480 32 + 8 ≤ s.lim q → r.wait.stage = 0 → okAll → ∀ lin, (ixWords q cmd).find? s.isPoison = some lin →
      exec .ixredExecute s = .next ((s.senderConsume m (bankBase + lin)).ixEnd q m true)) ∧
    (f 480 32 + 8 ≤ s.lim q → r.wait.stage = 0 → ¬ okAll →
      let v := staged s 2
      (v.isFull dn = false → exec .ixredExecute s = .next (fin v 2)) ∧ (v.isFull dn = true → exec .ixredExecute s = .next v)) ∧
    (f 480 32 + 8 ≤ s.lim q → r.wait.stage ≠ 0 →
      (s.isFull dn = false → exec .ixredExecute s = .next (fin s r.wait.aux)) ∧ (s.isFull dn = true → exec .ixredExecute s = .next s)))

/-- a Reed task loads, starts, awaits and reads a Sluice unit; each micro-op acts on accumulators and rows, and a suspended unit resumes where
it stood (R273, R274, R275, R276, R309, R310, R364). For a Reed task and an idle unit, SLULD loads 16 micro-ops and SLUGO loads P and S,
sets COUNT, clears ITER, UPC and the flags and starts the unit when COUNT is not 0; on a busy unit both trap. SLUWT waits while the unit is
busy; SLURD writes its status word. For the unit that runs: a row out of range stops RLD and RST with END 2; RLD takes the row's 256 words
into the accumulator, RST writes the accumulator's words as the row, VADD, VMULS and VFMAS act on every lane with the format's rule, PINC
adds its signed immediate to P, LOOP counts an iteration and starts again below COUNT, END stops with END 0, and NOP does nothing; each goes
to the next micro-op, and after micro-op 15 the unit stops with END 1. A class-0 request to its bank group is noted for a unit that runs;
the window after a row step, or the start of a row step, suspends the unit where one is noted and forgets it. Resuming, once no request
waits (how long a queue stays empty is timing: log 6), changes nothing but that. A poisoned row ends RLD's unit with END 3 and contains the
sender of the running task (R364, log 28). Memory changes only by RST. -/
def Obligations.SluiceUnits : Prop :=
  (∀ (s : State) (q : Nat) (rd rs rt : Reg), s.cur.who = .reed q →
    let n := (s.reg rs).toNat
    let a := (s.reg rt).toNat
    let bs := s.mem.readN (q * 2 ^ 31 + a) 32
    let word (i : Nat) : Nat := leNat ((bs.drop (4 * i)).take 4)
    let readable : Prop := a % 32 = 0 ∧ a + 32 ≤ s.lim q ∧ (s.reed q).retired = false ∧ ∀ k, k < 4 → s.isPoison (q * 2 ^ 31 + a + 8 * k) = false
    let op : Out := .next (s.takeTrap tOp 0 s.cur.addr)
    let status (u : Sluice) : W64 := BitVec.ofNat 64 (b2n u.busy + b2n u.susp * 2 + u.endc % 4 * 4 + u.upc % 16 * 16 + b2n u.nv * 2 ^ 8 + b2n u.of * 2 ^ 9 +
      b2n u.uf * 2 ^ 10 + b2n u.nx * 2 ^ 11 + u.iter % 65536 * 2 ^ 16)
    (readable →
      (n < 4 → (s.sluice q n).busy = false → exec (.sluld rs rt) s =
        .next ((s.class0 (q * 2 ^ 31 + a)).setSluice q n { s.sluice q n with prog := (List.range 16).map fun i => leNat ((bs.drop (2 * i)).take 2) }).fall) ∧
      (4 ≤ n ∨ (s.sluice q n).busy = true → exec (.sluld rs rt) s = op) ∧
      (let g := n % 4
        let count := n / 2 ^ 16 % 2 ^ 16
        (n % 2 ^ 16 < 4 → n < 2 ^ 32 → (s.sluice q g).busy = false → exec (.slugo rs rt) s = .next ((s.class0 (q * 2 ^ 31 + a)).setSluice q g { s.sluice q g with
          p := (List.range 4).map fun i => BitVec.ofNat 32 (word i), sc := (List.range 4).map fun i => BitVec.ofNat 32 (word (4 + i)), count := count, iter := 0, upc := 0
          busy := decide (count ≠ 0), susp := false, endc := 0, nv := false, of := false, uf := false, nx := false, win := false }).fall) ∧
        (4 ≤ n % 2 ^ 16 ∨ 2 ^ 32 ≤ n ∨ (s.sluice q g).busy = true → exec (.slugo rs rt) s = op))) ∧
    (a % 32 ≠ 0 → ∀ i ∈ [Instr.sluld rs rt, .slugo rs rt], exec i s = .next (s.takeTrap tAlign 0 (s.reg rt))) ∧
    (n < 4 → ((s.sluice q n).busy = true → exec (.sluwt rs) s = .next s) ∧ ((s.sluice q n).busy = false → exec (.sluwt rs) s = .next s.fall) ∧
      exec (.slurd rd rs) s = .next (s.setReg rd (status (s.sluice q n))).fall) ∧
    (4 ≤ n → ∀ i ∈ [Instr.sluwt rs, .slurd rd rs], exec i s = op)) ∧
  (∀ (s : State) (q g : Nat) (x : SluF), s.cur.who = .sluice q g →
    let u := s.sluice q g
    let set (v : Sluice) : Out := .next (s.setSluice q g v)
    let nx (v : Sluice) : Sluice := if u.upc = 15 then { v with busy := false, susp := false, win := false, endc := 1 } else { v with upc := u.upc + 1 }
    let acc (b : BitVec 1) (i : Nat) : Nat := (if b = 0#1 then u.a0 else u.a1).getD i 0
    let put (v : Sluice) (b : BitVec 1) (ws : List Nat) : Sluice := if b = 0#1 then { v with a0 := ws } else { v with a1 := ws }
    let r := (u.p.getD x.n.toNat 0#32).toNat
    let sc := (u.sc.getD x.n.toNat 0#32).toNat
    let lin := q * 2 ^ 31 + r * 8192 + g * 2048
    let inside : Prop := r < 163840 ∧ r * 8192 + g * 2048 + 2048 ≤ s.lim q ∧ (s.reed q).retired = false
    let f := sluFmt x.fmt
    let lanes (op : Nat → Nat → Nat × Flags) (b : BitVec 1) (t : State) : Prop :=
      ∀ i, i < 256 → ∀ j, j < 8 / f.bytes →
        laneGet (((if x.a = 0#1 then (t.sluice q g).a0 else (t.sluice q g).a1)).getD i 0) (f.bytes * j) f.bytes =
          (op (laneGet (acc x.a i) (f.bytes * j) f.bytes) (laneGet (acc b i) (f.bytes * j) f.bytes)).1 % 2 ^ (8 * f.bytes)
    let kept (t : State) : Prop := t.mem = s.mem ∧ t.slots = s.slots ∧ (t.sluice q g).p = u.p ∧ (t.sluice q g).sc = u.sc ∧ (t.sluice q g).prog = u.prog ∧
      (t.sluice q g).iter = u.iter ∧ (if x.a = 0#1 then (t.sluice q g).a1 = u.a1 else (t.sluice q g).a0 = u.a0) ∧
      (u.upc ≠ 15 → (t.sluice q g).upc = u.upc + 1 ∧ (t.sluice q g).busy = u.busy) ∧ (u.upc = 15 → (t.sluice q g).busy = false ∧ (t.sluice q g).endc = 1)
    exec (.sluNop x) s = set (nx u) ∧
    exec (.sluEnd x) s = set { u with busy := false, susp := false, win := false, endc := 0 } ∧
    (u.iter + 1 < u.count → exec (.sluLoop x) s = set { u with iter := u.iter + 1, upc := 0 }) ∧
    (u.count ≤ u.iter + 1 → exec (.sluLoop x) s = set { u with iter := u.iter + 1, busy := false, susp := false, win := false, endc := 0 }) ∧
    exec (.pinc x) s = set (nx { u with p := lset u.p x.n.toNat (u.p.getD x.n.toNat 0#32 + x.imm.signExtend 32) }) ∧
    (¬ inside → ∀ i ∈ [Instr.rld x, .rst x], exec i s = set { u with busy := false, susp := false, win := false, endc := 2 }) ∧
    (inside →
      ((∀ k, k < 256 → s.isPoison (lin + 8 * k) = false) →
        let v := nx (put u x.a ((List.range 256).map fun i => leNat (s.mem.readN (lin + 8 * i) 8)))
        exec (.rld x) s = set { v with win := v.busy }) ∧
      (∀ k, k < 256 → s.isPoison (lin + 8 * k) = true → (∀ j, j < k → s.isPoison (lin + 8 * j) = false) →
        let t := s.setSluice q g { u with busy := false, susp := false, win := false, endc := 3 }
        exec (.rld x) s = .next (match (s.reed q).task with | some m => t.senderConsume m (bankBase + lin + 8 * k) | none => t)) ∧
      (∃ t, exec (.rst x) s = .next t ∧ t.sluice q g = { nx u with win := (nx u).busy } ∧ t.slots = s.slots ∧
        (s.Inv → ∀ b, b < 2048 → t.mem.read (lin + b) = BitVec.ofNat 8 (acc x.a (b / 8) / 2 ^ (8 * (b % 8)))) ∧
        (s.Inv → ∀ b, b < lin ∨ lin + 2048 ≤ b → t.mem.read b = s.mem.read b))) ∧
    (∃ t, exec (.sluVadd x) s = .next t ∧ lanes (elAdd f .rne false) x.b t ∧ kept t) ∧
    (∃ t, exec (.vmuls x) s = .next t ∧ lanes (fun a _ => sluMul f sc a) x.a t ∧ kept t) ∧
    (∃ t, exec (.vfmas x) s = .next t ∧ lanes (sluFma f sc) x.b t ∧ kept t)) ∧
  (∀ s : State, let e := s.cur.ev
    let u := s.sluice e.q e.u
    let row : Prop := ∃ x, decodeSluice (u.prog.getD u.upc 0) = some (.rld x) ∨ decodeSluice (u.prog.getD u.upc 0) = some (.rst x)
    let noted : Bool := s.asked.contains (e.q, e.u)
    (u.busy = true → u.susp = false → u.win = true ∨ (noted = true ∧ row) →
      exec .sluiceWindow s = .next { s.setSluice e.q e.u { u with win := false, susp := noted } with asked := s.asked.filter fun k => k != (e.q, e.u) }) ∧
    (u.busy = false ∨ u.susp = true ∨ (u.win = false ∧ (noted = false ∨ ¬ row)) → exec .sluiceWindow s = .next s) ∧
    (∀ lin k, k ∈ (s.class0 lin).asked ↔ k ∈ s.asked ∨ (k = (lin / 2 ^ 31, lin / 2048 % 4) ∧ (s.sluice k.1 k.2).busy = true ∧ (s.sluice k.1 k.2).susp = false)) ∧
    (e.flag = false → exec .sluiceResume s = .next (s.setSluice e.q e.u { u with susp := false })) ∧ (e.flag = true → exec .sluiceResume s = .next s))

/-- TISSUE queues its records; a record starts, its tiles are claimed in order and run, and it completes or its fault reaches the status block
(R237, R281, R284, R285, R286, R287, R288, R289, R292, R294, R295, R297). A group's thread (a handler may not, R237) whose TISSUE passes its
checks copies its N records, makes its release, queues a tissue, raises TILES and goes on; a misaligned address raises Alignment, N outside
1 to 64, reserved bits or a RESUME without a matching status block IllegalOperation. Poison there contains the thread (log 46). RESUME skips
the earlier records and the tiles done. A record that is not valid or does not fit the reservation (R292) faults with BADREC at LEVEL 4; a
forwarded one whose device is not in REACH, and a TSIGNAL whose word is no key of this device, with XLATE there (log 62); TBARRIER waits for
the group's earlier tissues; any other starts its shares: die number k of P takes tiles from Floor(kT/P) to Floor((k+1)T/P) - 1. A claim
(R290) takes the die's first tile not done, when no fault or stop stands and it lies below DNEXT + 64. A tile that runs (R293) joins done
with its flags once its last update is in the die's run (those that find no room follow in order), or reports its fault. The rollup first
stops the dies, then chooses the lowest die's lowest tile. A record whose tiles are all done goes on once its updates stand at device scope.
The tissue's end writes the status block, ORs the flags, lowers TILES and, after a fault, raises the engine fault TILE. A peer's record runs
if the receive context allows it (its fields: log 62). That records are copied before the release, which clusters may claim, and one tile
per cluster and context are log 48 (design choices). -/
def Obligations.Tilth : Prop :=
  (∀ (ti : SlotId) (rd rs rt : Reg) (s : State), s.issues ti →
    let x := s.thr ti
    let src := (x.reg rs).toNat
    let dst := (x.reg rd).toNat
    let c := (x.reg rt).toNat
    let n := c % 2 ^ 7
    let res := c.testBit 7
    let words := if x.ph.copied = [] then leWords 20 (s.spRead x.grp dst 160) ++ leWords (4 * n) (s.spRead x.grp src (32 * n)) else x.ph.copied
    let w0 := (words.getD 0 0#64).toNat
    let s0 := s.setPhase { x.ph with copied := words }
    let trap (k : Nat) (fa : W64) : Prop := exec (.tissue rd rs rt) s = .next (s.takeTrap k 0 fa)
    let recs := (List.range n).map fun i => (words.drop (20 + 4 * i)).take 4
    let sys := recs.any fun r => tlFwd (recNum r) && tlDev (recNum r) != (s.part (s.partOf ti.die)).devid.toNat % 2 ^ 8
    let inSp : Prop := src < 2 ^ 32 ∧ s.spBad x.grp src (32 * n) = none ∧ dst < 2 ^ 32 ∧ s.spBad x.grp dst 160 = none
    let okN : Prop := 1 ≤ n ∧ n ≤ 64 ∧ c / 2 ^ 8 = 0
    let okR : Prop := res = true → w0.testBit 7 = true ∧ w0 % 2 ^ 7 < n
    let poison : Prop := x.ph.copied = [] ∧ (s.spPoisoned x.grp src (32 * n) = true ∨ (res = true ∧ s.spPoisoned x.grp dst 160 = true))
    (x.kind ≠ .group → trap tOp s.cur.addr) ∧
    (x.kind = .group →
      (src % 32 ≠ 0 → trap tAlign (x.reg rs)) ∧ (src % 32 = 0 → dst % 64 ≠ 0 → trap tAlign (x.reg rd)) ∧
      (src % 32 = 0 → dst % 64 = 0 → inSp → ¬ okN → trap tOp s.cur.addr) ∧
      (src % 32 = 0 → dst % 64 = 0 → inSp → okN → poison → exec (.tissue rd rs rt) s = .next (s.consume ti sramPa)) ∧
      (src % 32 = 0 → dst % 64 = 0 → inSp → okN → ¬ poison → ¬ okR → trap tOp s.cur.addr) ∧
      (src % 32 = 0 → dst % 64 = 0 → inSp → okN → ¬ poison → okR →
        (∀ t, s0.release (if sys then .sys else .dev) false = .error (.hold t) → exec (.tissue rd rs rt) s = .next t) ∧
        (∀ u, s0.release (if sys then .sys else .dev) false = .ok u → ∃ t v, exec (.tissue rd rs rt) s = .next t ∧ t.tissues = u.tissues ++ [v] ∧
          v.id = u.fresh ∧ v.ti = ti ∧ v.recs = recs ∧ v.idx = 0 ∧ v.st = 0 ∧ v.status = dst ∧ v.first = s.cur.addr ∧ v.remote = false ∧
          v.resume.isSome = res ∧ v.ctx = ti.ctx ∧ v.sys = sys ∧ (t.thr ti).tiles = (u.thr ti).tiles + 1 ∧ t.mem = u.mem ∧ t.runs = u.runs ∧
          (t.thr ti).pc = ((u.thr ti).fallThrough s.cur.addr s.cur.len).pc ∧ (∀ pl, (t.thr ti).atPlace pl = (u.thr ti).atPlace pl))))) ∧
  (∀ (s : State) (u : Tissue), s.tissues.find? (fun v => v.id == s.cur.ev.q) = some u →
    let r := u.record
    let set (t : State) (v : Tissue) : State := { t with tissues := t.tissues.map fun y => if y.id == v.id then v else y }
    let own := (s.part u.p).devid.toNat % 2 ^ 8
    let e : Eng := ⟨u.id, (s.partDies u.p).headD 0, u.ctx, u.sup, ⟨(s.grpD u.grp).launch, u.id⟩⟩
    let fault (v : Tissue) (cause level dev fa : Nat) : Tissue :=
      { v with st := 2, cause := cause, level := level, dev := dev, fdie := 0, fclu := 127, ftile := 0, tcount := 0, faddr := fa, part := 0, dies := [] }
    let tilth := (s.ctx u.p u.ctx).tilth.toNat
    let fits : Prop := (tlNeed r).1 ≤ tilth / 2 ^ 32 % 2 ^ 6 ∧ (tlNeed r).2 ≤ tilth % 2 ^ 32
    let here : Prop := tlFwd r = false ∨ tlDev r = own
    let doneAll : Prop := ∀ d ∈ u.dies, d.faults = [] ∧ d.prog = [] ∧ d.dnext = d.hi
    (u.st = 0 → u.idx < u.recs.length → ∀ i m f p, u.resume = some (i, m, f, p) → u.idx < i → exec .recordStart s = .next (set s { u with idx := u.idx + 1 })) ∧
    (u.st = 0 → u.idx < u.recs.length → (∀ i m f p, u.resume = some (i, m, f, p) → i ≤ u.idx) →
      (recordOk r = false → exec .recordStart s = .next (set s (fault u 1 4 own 0))) ∧
      (recordOk r = true → ¬ here → s.reaches u.p (tlDev r) = false → exec .recordStart s = .next (set s (fault u 2 4 own 0))) ∧
      (recordOk r = true → ¬ here → s.reaches u.p (tlDev r) = true → exec .recordStart s = .next (set { s with peerq := s.peerq ++ [⟨s.fresh, tlDev r, .record (u.recs.getD u.idx []) u.resumeHere, ⟨0, u.id⟩, some u.ti, u.first, true⟩], fresh := s.fresh + 1 } { u with st := 4 })) ∧
      (recordOk r = true → here → ¬ fits → exec .recordStart s = .next (set s (fault u 1 4 own 0))) ∧
      (recordOk r = true → here → tlOp r = 13 →
        exec .recordStart s = .next (if ∃ y ∈ s.tissues, y.id < u.id ∧ y.grp = u.grp ∧ y.remote = false then s else set s { u with st := 1, dies := [], tcount := 0, dev := own })) ∧
      (recordOk r = true → here → tlOp r = 14 → ∀ pa t, s.xlateEngine u.id ((s.partDies u.p).headD 0) u.ctx (tlCa r) .write u.sup = .ok pa t →
        ((∀ l, t.classify u.p pa ≠ .dram l) → exec .recordStart s = .next (set t (fault u 2 4 own (tlCa r)))) ∧ ∀ lin v, t.classify u.p pa = .dram lin →
        (t.signal pa (tlVal r) = some v → exec .recordStart s = .next (set v { u with st := 1, dies := [], tcount := 0, dev := own })) ∧
        (t.signal pa (tlVal r) = none → exec .recordStart s = .next (t.wantMerge (.rick (homeDie pa))))) ∧
      (recordOk r = true → here → fits → tlOp r ≠ 13 → tlOp r ≠ 14 → ∀ t, tStart e r s = .ok (true, t) →
        let ds := if tlOp r = 12 then [t.poolDie e r] else s.partDies u.p
        let n := tlTiles r
        (∀ i m f p, u.resume = some (i, m, f, p) → i = u.idx → ∃ v, exec .recordStart s = .next (set t v) ∧ v.id = u.id ∧ v.st = 1 ∧ v.tcount = n ∧ v.resume = u.resume ∧
          v.dies.map (fun y => (y.die, y.lo, y.hi, y.next, y.prog, y.faults)) = ds.mapIdx (fun k d => (d, k * n / ds.length, (k + 1) * n / ds.length, k * n / ds.length, [], [])) ∧
          ∀ y ∈ v.dies, ∀ a, a ∈ y.done ↔ y.lo ≤ a ∧ a < y.hi ∧ (a < (m.getD y.die (0, 0)).1 ∨ ((m.getD y.die (0, 0)).1 ≤ a ∧ a < (m.getD y.die (0, 0)).1 + 64 ∧ (m.getD y.die (0, 0)).2.testBit (a - (m.getD y.die (0, 0)).1) = true))) ∧
        ((∀ i m f p, u.resume = some (i, m, f, p) → i < u.idx) →
        exec .recordStart s = .next (set t { u with st := 1, resume := none, tcount := n, dev := own, dies := ds.mapIdx fun k d => ⟨d, k * n / ds.length, (k + 1) * n / ds.length, k * n / ds.length, [], [], [], []⟩ })))) ∧
    (u.st = 1 → u.stop = false → ∀ d t, u.dies.find? (fun y => y.die == s.cur.ev.die) = some d → d.faults = [] →
      d.next ≤ t → t < d.hi → t ∉ d.done → (∀ k, d.next ≤ k → k < t → k ∈ d.done) → t < d.dnext + 64 → (s.ctx u.p u.ctx).halted = false → (s.ctx u.p u.ctx).saved = false →
      let take (v : State) (c : Nat) : Out := .next (set v { u with dies := u.dies.map fun y => if y.die == s.cur.ev.die then { d with next := t + 1, prog := d.prog ++ [(t, c)], began := d.began ++ [(t, s.fresh)] } else y }).newId
      (tlCluster (tlOp r) = true → s.mayClaim u d s.cur.ev.clu t = false → exec .tileClaim s = .next s) ∧
      (tlCluster (tlOp r) = true → s.mayClaim u d s.cur.ev.clu t = true →
        exec .tileClaim s = take (if tlOp r = 1 ∨ tlOp r = 2 then s.joinTile u s.cur.ev.die s.cur.ev.clu t else s) s.cur.ev.clu) ∧
      (tlCluster (tlOp r) = false → exec .tileClaim s = if d.prog = [] then take s 127 else .next s)) ∧
    (∀ d c, u.dies.find? (fun y => y.prog.any fun q => q.1 == s.cur.ev.u) = some d → (d.prog.find? fun q => q.1 == s.cur.ev.u) = some (s.cur.ev.u, c) →
      let t := s.cur.ev.u
      ∀ part, (u.resume = none → part = 0) → (∀ i m f p, u.resume = some (i, m, f, p) → part = if f = t then p else 0) →
      let put (v : State) (fl : Nat) (d' : DieTiles) : State :=
        State.leaveTile (set v { u with flags := u.flags ||| fl, dies := u.dies.map fun y => if y.die == d.die then d' else y }) u d.die c t
      let rest := d.prog.filter fun q => q.1 != t
      let unit := unitTile u.id t
      let run := tileRun ⟨unit, d.die, u.ctx, u.sup, ⟨(s.grpD u.grp).launch, u.id⟩⟩ u r t part s
      let mine (v : State) : List (Nat × Entry) := v.late.filter fun y => y.1 == unit
      let closed (v : State) (fl : Nat) : Out := .next (if mine v = [] then put v fl { d with prog := rest, done := ninsert t d.done, began := d.began.filter fun q => q.1 != t }
        else set v { u with flags := u.flags ||| fl })
      (mine s ≠ [] → exec .tileComplete s = closed (drainLate unit d.die (mine s) s) 0) ∧
      (mine s = [] → s.tileReady u d.die c t = false → exec .tileComplete s = .next s) ∧
      (mine s = [] → s.tileReady u d.die c t = true →
        (∀ fl v, run = .ok (fl, v) → exec .tileComplete s = closed v fl.toNat) ∧
        (∀ w, run = .error (.wait w) → exec .tileComplete s = .next ((s.keepWalks w).wantMerge (.rick d.die))) ∧
        (∀ k fa pt, run = .error (.fault k fa pt) →
          exec .tileComplete s = .next (put s 0 { d with prog := rest, faults := d.faults ++ [(t, k, c, fa, pt)] })))) ∧
    (u.st = 1 → (∃ d ∈ u.dies, d.faults ≠ []) → u.stop = false → exec .tileFaultRollup s = .next (set s { u with stop := true })) ∧
    (u.st = 1 → u.stop = true → (∀ d ∈ u.dies, d.prog = []) → ∀ d l l' t k c fa pt, u.dies = l ++ d :: l' → (∀ y ∈ l, y.faults = []) → (t, k, c, fa, pt) ∈ d.faults →
      (∀ f ∈ d.faults, f.1 = t → f = (t, k, c, fa, pt)) → (∀ f ∈ d.faults, t ≤ f.1) →
      exec .tileFaultRollup s = .next (set s { u with st := 2, cause := k, fdie := d.die, fclu := c, ftile := t, faddr := fa, part := pt, level := if tlOp r = 12 then 1 else if tlOp r = 5 ∨ tlOp r = 6 then 2 else 0 })) ∧
    (u.st = 1 → doneAll → s.tissueOut u = true → exec .recordComplete s = .next (set s { u with st := 0, idx := u.idx + 1, dies := [], tcount := 0, stop := false })) ∧
    (u.st ≠ 1 ∨ ¬ doneAll → exec .recordComplete s = .next s) ∧
    (let fini : Prop := u.st = 2 ∨ (u.st = 0 ∧ u.recs.length ≤ u.idx)
     let out : State := { s with tissues := s.tissues.filter fun y => y.id != u.id }
     let ended : State := (out.spWrite u.grp u.status (wordsBytes (u.statusWords s))).modThr u.ti fun t =>
       { t with flags := t.flags ||| BitVec.ofNat 9 u.flags, tiles := t.tiles - 1, doneOps := t.doneOps ++ [if u.sys then Scope.sys else .dev] }
     (¬ fini → exec .tissueComplete s = .next s) ∧
     (fini → s.tissueOut u = true → u.remote = false → (s.thr u.ti).uid = u.uid → (s.grpD u.grp).ended = false →
       (u.st = 0 → exec .tissueComplete s = .next ended) ∧
       (u.st = 2 → exec .tissueComplete s = .next (ended.engineFaultTo u.ti u.uid 9 12 u.first (BitVec.ofNat 64 u.ftile) (BitVec.ofNat 64 u.faddr) (BitVec.ofNat 64 u.status)))) ∧
     (fini → s.tissueOut u = true → u.remote = true → exec .tissueComplete s = .next { out with toPeer := s.toPeer ++ [(u.status, BitVec.ofNat 64 u.uid :: u.statusWords s)] }) ∧
     (u.st = 0 → (u.statusWords s).length = 20 ∧ (u.statusWords s).getD 0 0#64 = BitVec.ofNat 64 (u.recs.length % 128 + u.dev * 2 ^ 24 + u.flags % 512 * 2 ^ 48)))) ∧
  (∀ (s : State) (ws : List W64) (res : Option (Nat × Nat × List (Nat × Nat))), s.cur.ev.req = .record ws res → let e := s.cur.ev
    let rx := (s.part e.p).rxctx
    (rx.getLsbD 1 = true → ∃ t v, exec .recordForward s = .next t ∧ t.tissues = s.tissues ++ [v] ∧ v.remote = true ∧ v.ctx = rx.toNat % 2 ∧ v.sup = false ∧
      v.uid = e.n ∧ v.status = e.u ∧ v.resume = res.map (fun x => (0, x.2.2, x.1, x.2.1)) ∧ v.recs = [ws.mapIdx fun i w => if i = 0 then w &&& ~~~(0x4000#64) else w] ∧ t.mem = s.mem ∧ t.slots = s.slots) ∧
    (rx.getLsbD 1 = false → ∃ t l, exec .recordForward s = .next t ∧ t.toPeer = s.toPeer ++ [(e.u, l)] ∧ l.getD 0 0#64 = BitVec.ofNat 64 e.n ∧ (l.getD 1 0#64).getLsbD 7 = true ∧
      t.tissues = s.tissues ∧ t.mem = s.mem))

/-- SRD reads and SWR writes each register at its number and only it; levels, reserved numbers, read-only registers and bounds trap as stated
(R317, R318, R319, R320, R321, R338, R349, R359, R374, R375, R381, R382). At user level both raise PrivilegedInstruction; a reserved number
raises IllegalInstruction; a register that needs firmware raises PrivilegedInstruction; a write of a read-only register, or of a value that
breaks a bound or sets a reserved bit, raises IllegalOperation and changes nothing (that a reserved bit may not be set is the model's
reading, log 40). Otherwise SRD writes the register's value to rd and falls through, with SPILL i, FILL i and PREG i naming the stack
registers of R318, and SWR changes that register alone and falls through: the thread's trap registers, WIN, WSP and stack registers (whose
poison a write clears); TVEC, FRING, FTAIL, FAGENT, TILTHRES, WDOG, PTROOT and RTAB of its context; QTAB, ELOG, ETAIL, RXCTX and MCTAB of
the partition. CWPORT reads as the port's word when the partition owns the port, and as 0 when not (log 74). A write of ATTREQ queues the
request with the writer's partition. Writes of DEVRCB and QCTL end as the part answers: done, refused, or waiting. SYS.CELLSTORE is written
only while neither context holds a live launch or a saved one and no entry stands, and then rounds the partition's cells away. -/
def Obligations.SystemRegisters : Prop :=
  ∀ (ti : SlotId) (rd : Reg) (num : BitVec 9) (s : State), s.issues ti →
    let x := s.thr ti
    let n := num.toNat
    let p := s.partOf ti.die
    let c := s.ctx p ti.ctx
    let pt := s.part p
    let v := s.reg rd
    let f (lo w : Nat) : Nat := v.toNat / 2 ^ lo % 2 ^ w
    let reserved : Prop := (18 ≤ n ∧ n ≤ 63) ∨ (68 ≤ n ∧ n ≤ 79) ∨ (82 ≤ n ∧ n ≤ 95) ∨ (102 ≤ n ∧ n ≤ 111) ∨ (178 ≤ n ∧ n ≤ 255) ∨ (288 ≤ n ∧ n ≤ 383)
    let readOnly : Prop := n ∈ [12, 15, 98, 100, 114, 115, 116, 143, 144] ∨ (146 ≤ n ∧ n ≤ 177)
    let gives (w : W64) : Prop := exec (.srd rd num) s = .next (s.setReg rd w).fall
    let sets (t : State) : Prop := exec (.swr num rd) s = .next t.fall
    let trap (i : Instr) (k : Nat) : Prop := exec i s = .next (s.takeTrap k 0 s.cur.addr)
    (x.sup = false → trap (.srd rd num) tPriv ∧ trap (.swr num rd) tPriv) ∧
    (x.sup = true →
      (reserved → trap (.srd rd num) tIllegal ∧ trap (.swr num rd) tIllegal) ∧
      (n = 101 → trap (.srd rd num) tPriv) ∧
      (n ∈ [96, 101, 112] ∨ (118 ≤ n ∧ n ≤ 142) → trap (.swr num rd) tPriv) ∧
      (readOnly → trap (.swr num rd) tOp) ∧
      (∀ y ∈ [(0, c.tvec), (1, x.tpc), (2, x.taddr), (3, x.tcause), (4, x.tstat), (5, vget x.tscr 0), (6, vget x.tscr 1), (7, vget x.tscr 2), (8, vget x.tscr 3),
          (9, BitVec.ofNat 64 (x.wb.toNat * 2 ^ 16 + x.bot.toNat * 2 ^ 20 + x.depth.toNat * 2 ^ 24)), (10, x.wsp), (11, c.fring), (12, c.fhead), (13, c.ftail), (14, c.fagent),
          (16, c.tilth), (17, pt.cellstore), (64, pt.qtab), (65, c.devrcb), (66, c.wdog), (67, 0#64), (80, c.ptroot), (81, c.rtab), (96, pt.pdies.zeroExtend 64),
          (97, pt.elog), (98, pt.ehead), (99, pt.etail), (100, pt.ecount), (112, pt.devid), (113, pt.rxctx), (114, pt.reach.getD 0 0#64), (115, pt.reach.getD 1 0#64),
          (116, pt.reach.getD 2 0#64), (117, pt.mctab), (142, BitVec.ofNat 64 (s.pwrcap.toNat % 2 ^ 16 + (if s.throttle then 2 ^ 16 else 0))), (143, s.therm),
          (144, BitVec.ofNat 64 s.nvmNext), (145, 0#64)], n = y.1 → gives y.2) ∧
      (n = 15 → gives (BitVec.ofNat 64 ((s.cluster ti.die ti.clu).rot % 2 + (if s.switchTo ti.die ti.clu ≠ none then 2 else 0) +
        (if (s.ctx p 0).saved then 4 else 0) + (if (s.ctx p 1).saved then 8 else 0)))) ∧
      (118 ≤ n → n ≤ 141 → gives (if pt.ports.getLsbD (n - 118) then s.cwport.getD (n - 118) 0#64 &&& ~~~(0x40#64) else 0#64)) ∧
      (146 ≤ n → n ≤ 177 → gives (BitVec.ofNat 64 (leNat (((s.meas.getD ((n - 146) / 4) []).drop (8 * ((n - 146) % 4))).take 8)))) ∧
      (256 ≤ n → n ≤ 271 → gives (vget x.phys ((16 * x.bot.toNat + (n - 256)) % 128)) ∧ sets (s.setThr ti { x with phys := vset x.phys ((16 * x.bot.toNat + (n - 256)) % 128) v, rpois := x.rpois.filter (· != (16 * x.bot.toNat + (n - 256)) % 128) })) ∧
      (272 ≤ n → n ≤ 287 → gives (vget x.phys ((16 * (x.bot.toNat + 7) + (n - 272)) % 128)) ∧
        sets (s.setThr ti { x with phys := vset x.phys ((16 * (x.bot.toNat + 7) + (n - 272)) % 128) v, rpois := x.rpois.filter (· != (16 * (x.bot.toNat + 7) + (n - 272)) % 128) })) ∧
      (384 ≤ n → gives (vget x.phys (n - 384)) ∧ sets (s.setThr ti { x with phys := vset x.phys (n - 384) v, rpois := x.rpois.filter (· != n - 384) })) ∧
      (∀ y ∈ [(1, true, { x with tpc := v }), (2, true, { x with taddr := v }), (3, decide (v.toNat < 2 ^ 18), { x with tcause := v }),
          (4, decide (v.toNat < 8) && decide (f 0 2 ≤ 1), { x with tstat := v }), (5, true, { x with tscr := vset x.tscr 0 v }), (6, true, { x with tscr := vset x.tscr 1 v }),
          (7, true, { x with tscr := vset x.tscr 2 v }), (8, true, { x with tscr := vset x.tscr 3 v }),
          (9, true, { x with wb := BitVec.ofNat 3 (f 16 3), bot := BitVec.ofNat 3 (f 20 3), depth := BitVec.ofNat 16 (f 24 16) }), (10, true, { x with wsp := v })],
        n = y.1 → (y.2.1 = true → sets (s.setThr ti y.2.2)) ∧ (y.2.1 = false → trap (.swr num rd) tOp)) ∧
      (∀ y ∈ [(0, decide (f 0 12 = 0), { c with tvec := v }), (11, decide (5 ≤ f 0 5) && decide (f 0 5 ≤ 20) && decide (f 5 7 = 0) && decide (f 56 8 = 0), { c with fring := v }),
          (13, true, { c with ftail := v }), (14, decide (v.toNat < 2 ^ 17), { c with fagent := v }),
          (16, decide (f 0 12 = 0) && decide (f 32 6 ≤ 16) && decide (v.toNat < 2 ^ 38), { c with tilth := v }),
          (66, decide (v = 0#64) || (decide (16 ≤ v.toNat) && decide (v.toNat ≤ 40)), { c with wdog := v }),
          (80, decide (f 1 11 = 0) && decide (v.toNat < 2 ^ 52), { c with ptroot := v }), (81, decide (f 0 11 = 0) && decide (v.toNat < 2 ^ 52), { c with rtab := v })],
        n = y.1 → (y.2.1 = true → sets (s.setCtx p ti.ctx y.2.2)) ∧ (y.2.1 = false → trap (.swr num rd) tOp)) ∧
      (∀ y ∈ [(64, decide (f 0 12 = 0) && decide (v.toNat < 2 ^ 52), { pt with qtab := v }),
          (97, decide (v = 0#64) || (decide (5 ≤ f 0 5) && decide (f 0 5 ≤ 16) && decide (f 5 7 = 0) && decide (f 56 8 = 0)), { pt with elog := v }),
          (99, true, { pt with etail := v }), (113, decide (v.toNat < 4), { pt with rxctx := v }), (117, decide (f 0 12 = 0) && decide (v.toNat < 2 ^ 52), { pt with mctab := v })],
        n = y.1 → (y.2.1 = true → sets (s.setPart p y.2.2)) ∧ (y.2.1 = false → trap (.swr num rd) tOp)) ∧
      (n = 145 → (v.toNat % 64 = 0 ∧ v.toNat < 0xA000000000 → sets { s with attq := s.attq ++ [(p, v.toNat, 2)] }) ∧
        (v.toNat % 64 ≠ 0 ∨ 0xA000000000 ≤ v.toNat → trap (.swr num rd) tOp)) ∧
      (n = 17 →
        let idle : Prop := s.ctxLive p 0 = false ∧ s.ctxLive p 1 = false ∧ s.anyEntry p (fun _ => true) = false ∧ (s.ctx p 0).saved = false ∧ (s.ctx p 1).saved = false
        (v.toNat < 2 ^ 8 → idle → sets ({ s with cells := s.cells.filter fun y => !((s.partDies p).contains (y.1 / 2 ^ 37)) }.setPart p { pt with cellstore := v })) ∧
        (2 ^ 8 ≤ v.toNat ∨ ¬ idle → trap (.swr num rd) tOp)) ∧
      (n = 65 → (∀ t, s.putDevrcb p ti.ctx v = .ok t → sets t) ∧ (s.putDevrcb p ti.ctx v = .bad → trap (.swr num rd) tOp) ∧
        (∀ t, s.putDevrcb p ti.ctx v = .badOn t → exec (.swr num rd) s = .next (t.takeTrap tOp 0 s.cur.addr)) ∧
        ∀ t, s.putDevrcb p ti.ctx v = .wait t → exec (.swr num rd) s = .next t) ∧
      (n = 67 → (f 6 2 ≠ 0 ∨ 2 ^ 9 ≤ v.toNat → trap (.swr num rd) tOp) ∧ (v.toNat < 2 ^ 9 → f 6 2 = 0 →
        let y := if f 8 1 = 1 then s.qStop p (f 0 6) else s.qStart p (f 0 6)
        (∀ t, y = .ok t → sets t) ∧ (y = .bad → trap (.swr num rd) tOp) ∧ (∀ t, y = .badOn t → exec (.swr num rd) s = .next (t.takeTrap tOp 0 s.cur.addr)) ∧
        ∀ t, y = .wait t → exec (.swr num rd) s = .next t)))

/-- CTXSW, CONTEXT_SWITCH, XINV, PAGE_WALK, SAVECTX and LOADCTX have the effect of their rules (R48, R331, R332, R333, R335, R337, R349, R351,
R352, R355, R356, R357). At user level the privileged forms raise PrivilegedInstruction. CTXSW of a valid selection joins, with its selected
clusters that have a command before it or rotate the other context, the commands that act there in arrival order, and waits; with no such
cluster it ends and writes 0 to rd; a selection that would take the issuer out of the rotation, or a bound broken, raises IllegalOperation.
CONTEXT_SWITCH lets the command whose turn it is act at a cluster: the context rotates and its halt is over, and after the last cluster rd
is the number of clusters that switched. XINV (log 57) drops the pages it names (PAGE those that meet n pages, CONTEXT all, RANGE and ALL
also load the range entries, by reads that wait or consume poison), uses the present PTROOT from then on (R349), and waits for operations
begun before it. PAGE_WALK (log 33) by one of the 64 walkers of a die answers every waiter of a page it found, so that they try again, or
faults them, and notes the failure for units that go by number. SAVECTX halts its context when its turn comes, waits, merges and releases,
writes the area page by page (a page that faults is an engine fault with opcode 12, log 56) and the header (log 14), marks the context saved
and writes 0 to rd, or 1 when its entries do not fit. LOADCTX refuses a misaligned base, an area it does not know, a header that does not
fit, a busy context and another live launch with IllegalOperation (R335; logs 14, 56), reports a page that faults as an engine fault with
opcode 13, and else brings the context back with an acquire, once its runs have room. -/
def Obligations.ContextsAndTranslation : Prop :=
  (∀ (ti : SlotId) (rd rs rt : Reg) (s : State), s.issues ti → (s.thr ti).sup = false →
    ∀ i ∈ [Instr.ctxsw rd rs rt, .xinvPage rd rs rt, .xinvContext rd rs rt, .xinvRange rd rs rt, .xinvAll rd rs rt, .savectx rd rs rt, .loadctx rd rs rt],
      exec i s = .next (s.takeTrap tPriv 0 s.cur.addr)) ∧
  (∀ (ti : SlotId) (rd rs rt : Reg) (s : State), s.issues ti → (s.thr ti).sup = true →
    let x := s.thr ti
    let p := s.partOf ti.die
    let a := (s.reg rs).toNat
    let t := (s.reg rt).toNat
    let n := (s.reg rd).toNat
    let bad (i : Instr) : Prop := exec i s = .next (s.takeTrap tOp 0 s.cur.addr)
    let staged (u : State) (k m : Nat) : State := u.modThr ti fun y => { y with ph := { x.ph with stage := k, mark := m, len := s.cur.len } }
    let inv (i : Instr) (cs : List Nat) (u : State) : Prop :=
      let w := (staged u 1 u.fresh).newId
      ((∀ c ∈ cs, w.xinvBusy p c u.fresh = false) → exec i s = .next w.fall) ∧ ((∃ c ∈ cs, w.xinvBusy p c u.fresh = true) → exec i s = .next w)
    let c8 := t / 2 ^ 8 % 2
    let tOk : Prop := t / 2 ^ 2 % 2 ^ 6 = 0 ∧ t < 2 ^ 9
    let pageOk : Prop := tOk ∧ 1 ≤ n ∧ n ≤ 2 ^ 20 ∧ a < 2 ^ 56
    (2 ≤ t → bad (.ctxsw rd rs rt)) ∧
    (t < 2 → s.ctxswSel (s.reg rs) = none → bad (.ctxsw rd rs rt)) ∧
    (t < 2 → ∀ sel, s.ctxswSel (s.reg rs) = some sel →
      let now (k : Nat × Nat) : Prop := (s.cluster k.1 k.2).rot = t ∧ s.cmdAt k.1 k.2 = none
      let act := sel.filter fun k => (s.cmdAt k.1 k.2).isSome || (s.cluster k.1 k.2).rot != t
      (((ti.die, ti.clu) ∈ sel ∧ t ≠ ti.ctx) ∨ (s.ctx p t).saved = true → bad (.ctxsw rd rs rt)) ∧
      ((ti.die, ti.clu) ∉ sel ∨ t = ti.ctx → (s.ctx p t).saved = false →
        (sel ≠ [] → (∀ k ∈ sel, now k) → exec (.ctxsw rd rs rt) s = .next ((s.setCtx p t { s.ctx p t with halted := false }).setReg rd 0#64).fall) ∧
        ((∃ k ∈ sel, ¬ now k) → ∃ u, exec (.ctxsw rd rs rt) s = .next u ∧ (u.part p).cmds = (s.part p).cmds ++ [⟨ti, some t, act, 0⟩] ∧
          (u.thr ti).wait = .cmd ∧ (u.thr ti).pc = x.pc ∧ u.mem = s.mem ∧ u.clusters = s.clusters ∧ (u.ctx p t).halted = ((s.ctx p t).halted && decide (∀ k ∈ sel, k ∈ act)) ∧
          ∀ pl, (u.thr ti).atPlace pl = x.atPlace pl))) ∧
    (¬ tOk → bad (.xinvContext rd rs rt) ∧ bad (.xinvRange rd rs rt) ∧ bad (.xinvAll rd rs rt)) ∧ (¬ pageOk → bad (.xinvPage rd rs rt)) ∧
    (x.ph.stage = 0 →
      (pageOk → inv (.xinvPage rd rs rt) [c8] ((s.useRoot p c8).dropPages p c8 fun e =>
        decide (e.vpn / 2 ^ e.size * 2 ^ e.size < a / 2 ^ 12 % 2 ^ 44 + n) && decide (a / 2 ^ 12 % 2 ^ 44 < e.vpn / 2 ^ e.size * 2 ^ e.size + 2 ^ e.size))) ∧
      (tOk → inv (.xinvContext rd rs rt) [c8] ((s.useRoot p c8).dropPages p c8 fun _ => true) ∧
        (∀ u, (s.useRoot p c8).loadRanges p c8 = .ok u → inv (.xinvRange rd rs rt) [c8] (u.dropPages p c8 fun _ => true)) ∧
        (∀ u, (s.useRoot p c8).loadRanges p c8 = .error (.wait u) → exec (.xinvRange rd rs rt) s = .next (s.keepAsked u)) ∧
        (∀ pa, (s.useRoot p c8).loadRanges p c8 = .error (.poison pa) → exec (.xinvRange rd rs rt) s = .next (s.consume ti pa)) ∧
        (∀ u v, (s.useRoot p 0).loadRanges p 0 = .ok u → ((u.dropPages p 0 fun _ => true).useRoot p 1).loadRanges p 1 = .ok v → inv (.xinvAll rd rs rt) [0, 1] (v.dropPages p 1 fun _ => true)))) ∧
    (x.ph.stage ≠ 0 → ∀ y ∈ [(Instr.xinvPage rd rs rt, pageOk, [c8]), (.xinvContext rd rs rt, tOk, [c8]), (.xinvRange rd rs rt, tOk, [c8]), (.xinvAll rd rs rt, tOk, [0, 1])], y.2.1 →
      ((∀ c ∈ y.2.2, s.xinvBusy p c x.ph.mark = false) → exec y.1 s = .next s.fall) ∧ ((∃ c ∈ y.2.2, s.xinvBusy p c x.ph.mark = true) → exec y.1 s = .next s)) ∧
    (let c := t % 2
     let ext := t / 2 ^ 32 % 2 ^ 16
     let pages := (969 + ext) * 256
     let ok : Prop := t / 2 % 2 ^ 31 = 0 ∧ t < 2 ^ 48 ∧ a % 65536 = 0 ∧ c ≠ ti.ctx ∧ (s.ctx p c).saved = false
     let b := if x.ph.stage = 0 then staged (s.setPart p { s.part p with cmds := (s.part p).cmds ++ [⟨ti, none, [], 0⟩] }) 1 x.ph.mark else s
     let h := if x.ph.stage ≤ 1 then (b.haltCtx p c).modThr ti fun y => { y with ph := { (b.thr ti).ph with stage := 2 } } else b
     let gone (u : State) : State := u.dropCmd ti
     (¬ ok ∨ (x.ph.stage = 0 ∧ s.ctxLive p c = false) → bad (.savectx rd rs rt)) ∧
     (ok → (x.ph.stage = 0 → s.ctxLive p c = true) →
      (∀ m, (b.part p).cmds.head? = some m → m.ti ≠ ti → exec (.savectx rd rs rt) s = .next b) ∧
      ((∀ m, (b.part p).cmds.head? = some m → m.ti = ti) →
       (h.saveReady p c = false → exec (.savectx rd rs rt) s = .next h) ∧
       (x.ph.stage ≤ 1 → (h.ctx p c).halted = true ∧ (h.thr ti).pc = x.pc) ∧
       (h.saveReady p c = true → h.ctxMerged p c = false → exec (.savectx rd rs rt) s = .next (h.mergeAll p)) ∧
       (h.saveReady p c = true → h.ctxMerged p c = true → (∀ u, h.release .dev false = .error (.hold u) → exec (.savectx rd rs rt) s = .next u) ∧ ∀ u, h.release .dev false = .ok u →
        let id := (u.thr ti).uid
        let y := u.areaScan id p ti.die ti.ctx .write (State.freePage p ti.ctx) a (u.thr ti).ph.aux (pages - (u.thr ti).ph.aux)
        let failed (v : State) (va : Nat) : Prop := exec (.savectx rd rs rt) s = .next (gone (v.engineFaultTo ti id 5 12 v.cur.addr 0#64 (BitVec.ofNat 64 va) 0#64)).fall
        (entsFit (u.savedEnts p c) ext = false → exec (.savectx rd rs rt) s = .next (gone (u.setReg rd 1#64)).fall) ∧
        (entsFit (u.savedEnts p c) ext = true →
          (∀ i v, y = .error (i, .fault v) → failed v (a + 4096 * i)) ∧
          (∀ i v, y = .error (i, .wait v) → exec (.savectx rd rs rt) s = .next (v.modThr ti fun z => { z with ph := { z.ph with aux := i } })) ∧
          (∀ i pa v, y = .error (i, .poison pa v) → exec (.savectx rd rs rt) s = .next (v.consume ti pa)) ∧
          (∀ v, y = .ok v →
            let r := (v.modThr ti fun z => { z with ph := { z.ph with aux := pages } }).xlatePart id ti.die ti.ctx a .write true
            (∀ w, r = .fault w → failed w a) ∧
            (∀ pa w z, r = .ok pa w →
              w.sysStand p ti.ctx pa (wordsBytes [1#64, BitVec.ofNat 64 c, (w.part p).pdies.zeroExtend 64, BitVec.ofNat 64 ((969 + ext) * 2 ^ 20), BitVec.ofNat 64 (u.savedEnts p c).length]) = some z →
              ∃ t, exec (.savectx rd rs rt) s = .next t ∧ (t.ctx p c).saved = true ∧ (t.ctx p c).halted = true ∧ t.savedCtx = z.savedCtx ++ [z.savedOf p c pa] ∧
                (rd.toNat ≠ 24 → (t.thr ti).reg rd = 0#64) ∧ (∀ tj, tj.ctx = c → t.partOf tj.die = p → (t.thr tj).live = false)))))))) ∧
    (2 ≤ t ∨ a % 65536 ≠ 0 → bad (.loadctx rd rs rt)) ∧
    (t < 2 → a % 65536 = 0 →
      let r := s.xlatePart x.uid ti.die ti.ctx a .read true
      let failed (v : State) (va : Nat) : Prop := exec (.loadctx rd rs rt) s = .next (v.engineFaultTo ti (v.thr ti).uid 5 13 v.cur.addr 0#64 (BitVec.ofNat 64 va) 0#64).fall
      (∀ u, r = .fault u → failed u a) ∧ (∀ u, r = .wait u → exec (.loadctx rd rs rt) s = .next u) ∧
      (∀ pa u, r = .ok pa u → u.areaAt p pa = false → failed u a) ∧
      (∀ pa u, r = .ok pa u → u.areaAt p pa = true → u.savedCtx.find? (fun y => y.base == pa && y.p == p) = none → bad (.loadctx rd rs rt)) ∧
      (∀ pa u y hd v, r = .ok pa u → u.areaAt p pa = true → u.savedCtx.find? (fun y => y.base == pa && y.p == p) = some y → u.areaRead p pa = .ok hd v →
        let fits : Prop := hd % 2 ^ 64 = 1 ∧ hd / 2 ^ 64 % 2 ^ 64 = y.ctx ∧ hd / 2 ^ 128 % 2 ^ 64 = (v.part p).pdies.toNat ∧ hd / 2 ^ 192 % 2 ^ 64 % 2 ^ 20 = 0 ∧ hd / 2 ^ 256 % 2 ^ 64 = y.ents.length
        (¬ fits ∨ v.ctxBusy p t = true ∨ v.otherLaunch p t y = true ∨ (t ≠ y.ctx ∧ (v.ctx p t).saved = true) → bad (.loadctx rd rs rt)) ∧
        (fits → v.ctxBusy p t = false → v.otherLaunch p t y = false → (t = y.ctx ∨ (v.ctx p t).saved = false) →
          let n := hd / 2 ^ 192 % 2 ^ 64 / 4096
          ∀ q, v.areaScan x.uid p ti.die ti.ctx .read (fun s _ => some s) a (v.thr ti).ph.aux (n - (v.thr ti).ph.aux) = .ok q →
            let g := q.modThr ti fun z => { z with ph := { z.ph with aux := n } }
            (g.unsave y t = none → exec (.loadctx rd rs rt) s = .next (g.mergeAll p)) ∧
            ∀ w z, g.unsave y t = some w → w.loadRanges p t = .ok z →
              exec (.loadctx rd rs rt) s = .next (((z.setCtx p y.ctx { z.ctx p y.ctx with saved := false, halted := false }).acqAt ti .dev).fall))))) ∧
  (∀ s : State, let d := s.cur.ev.die
    let cl := s.cur.ev.clu
    let p := s.partOf d
    let k := s.cluster d cl
    (s.cmdAt d cl = none → exec .contextSwitch s = .next s) ∧
    (∀ m, s.cmdAt d cl = some m → m.ctx = none → exec .contextSwitch s = .next s) ∧
    (∀ m c, s.cmdAt d cl = some m → m.ctx = some c →
      let left := m.left.filter (· != (d, cl))
      let n := m.n + if k.rot ≠ c then 1 else 0
      ∃ t, exec .contextSwitch s = .next t ∧ t.cluster d cl = { k with rot := c } ∧ (t.ctx p c).halted = false ∧ t.mem = s.mem ∧ t.halves = s.halves ∧ t.vunit = s.vunit ∧
        (∀ d' c', (d', c') ≠ (d, cl) → t.cluster d' c' = s.cluster d' c') ∧
        (left ≠ [] → k.rot = c → (t.part p).cmds = (s.part p).cmds.map fun y => if y = m then { m with left := left, n := n } else y) ∧
        (left = [] → (∀ y ∈ (t.part (s.partOf m.ti.die)).cmds, y.ti ≠ m.ti) ∧ ((s.thr m.ti).wait = .cmd →
          (t.thr m.ti).pc = (((s.thr m.ti).setReg (BitVec.ofNat 5 (s.thr m.ti).ph.aux) (BitVec.ofNat 64 n)).fallThrough (s.thr m.ti).pc (s.thr m.ti).ph.len).pc ∧
          ∀ pl, (t.thr m.ti).atPlace pl = ((s.thr m.ti).setReg (BitVec.ofNat 5 (s.thr m.ti).ph.aux) (BitVec.ofNat 64 n)).atPlace pl)) ∧
        ∀ ti, ti ≠ m.ti → (t.thr ti).pc = (s.thr ti).pc ∧ (t.thr ti).live = (s.thr ti).live ∧ ∀ pl, (t.thr ti).atPlace pl = (s.thr ti).atPlace pl)) ∧
  (∀ (s : State) (w : Walk), let d := s.cur.ev.die
    let c := s.cur.ev.ctx
    let v := s.cur.ev.u
    ((s.die d).walks.take 64).find? (fun w => w.ctx == c && w.vpn == v) = some w →
    let used (u : State) : State := { u with peerAns := u.peerAns.filter fun y => y.1 != walkReader d c v }
    let gone (r : Option Nat) : State := (used s).setDie d { s.die d with
      walks := (s.die d).walks.filter fun y => !(y.ctx == c && y.vpn == v), failed := (s.die d).failed ++ w.units.map fun y => (y, c, v, r) }
    let answer (v : Nat) (u : State) (f : Bool) (ti : SlotId) : State :=
      if (u.thr ti).wait = .walk v then u.modThr ti fun t => { t with wait := .no, ph := { t.ph with xfault := if f then some v else none } } else u
    (s.walk d c v = .fault → exec .pageWalk s = .next (w.who.foldl (fun u ti => answer v u true ti) (gone none))) ∧
    (∀ u, s.walk d c v = .wait u → exec .pageWalk s = .next u) ∧
    (∀ e u, s.walk d c v = .page e u →
      let met (y : Walk) : Bool := y.ctx == e.ctx && e.covers y.ctx y.vpn
      exec .pageWalk s = .next (((u.die d).walks.filter met).foldl (fun u y => y.who.foldl (fun u ti => answer y.vpn (u.cacheL1 ti.die ti.clu e) false ti) u)
        (((used u).setDie d { u.die d with walks := (u.die d).walks.filter fun y => !met y }).cacheL2 d e))) ∧
    (∀ pa, s.walk d c v = .poison pa → exec .pageWalk s = .next (w.who.foldl (fun u ti => u.consume ti pa) (gone (some pa))))) ∧
  (∀ s : State, ((s.die s.cur.ev.die).walks.take 64).find? (fun w => w.ctx == s.cur.ev.ctx && w.vpn == s.cur.ev.u) = none → exec .pageWalk s = .next s)

/-- firmware starts and stops queues, names a device region, resizes the cell store, moves dies and ports and uses the window; a refused write
changes nothing (R319, R338, R339, R341, R349, R357, R360, R369, R375, R34, R353). Writes through the window are made in order: while one
waits, a further one queues behind it (log 41). A start of a queue that does not run reads its descriptor once, wherever in memory it lies,
and, if it is valid, the queue runs from HEAD with STATE 1 and CAUSE 0 written, its entries numbered apart from those of earlier runs; a
start of a running queue changes nothing, and one whose descriptor lies in no memory or is not valid is refused (log 41). A stop takes
effect at once between entries and otherwise at the next. SYS.DEVRCB 0 retires the region: STATE 3 in its RCB and no device region; the
address of a valid RCB with STATE 0, in device, host or a peer's memory, makes its fields the device region and writes STATE 2; an invalid
one gets STATE 4, REASON 1, and its address stays in SYS.DEVRCB as a region of state 4 (log 54); one that does not translate or lies in no
memory, the Steading window included, is refused (log 54). SYS.CELLSTORE and SYS.PDIES change only while what they name is idle (what the
idleness of a moved die is: log 58); a die that a partition gains leaves the others, and dies that none keeps make a partition of their own
(log 74). Ports given to a partition leave the others, and REACH follows the ports that are up. The window reads a register's value, or
answers that it does not complete; a write to it is a register's write at firmware level; one of SYS.PTROOT and SYS.RTAB is an invalidation
too and stays the oldest write until what began before it has ended (R357). -/
def Obligations.FirmwareRegisterWrites : Prop :=
  ∀ s : State,
    let e := s.cur.ev
    let p := e.p
    let q := e.q % 64
    let base := (s.part p).qtab.toNat + 64 * q
    let cx := e.ctx % 2
    let v := e.v
    let state (t : State) (ctx a b : Nat) : State :=
      let d := (t.part p).qtab.toNat + 64 * q
      (t.sysWord p ctx (d + 0x18) a).sysWord p ctx (d + 0x20) b
    let ends (i : Instr) (t : State) : Prop := exec i s = .next { t with winq := [] }
    let qv : W64 := BitVec.ofNat 64 q
    let qs : W64 := BitVec.ofNat 64 (q + 256)
    (s.winq ≠ [] → ∀ y ∈ [(Instr.qctlStart, winAt p 0 67, qv, 0), (.qctlStop, winAt p 0 67, qs, 0), (.devrcbWrite, winAt p e.ctx 65, v, 0), (.cellstoreWrite, winAt p 0 17, v, 0)],
      exec y.1 s = .next { s with winq := s.winq ++ [y.2] }) ∧
    (s.winq ≠ [] → e.flag = false → exec .pdiesWrite s = .next { s with winq := s.winq ++ [(winAt p 0 96, v, 0)] }) ∧
    (s.winq = [] → p < 8 →
    (∀ x, aget? s.queues (p, q) = some x → x.state = 1 → exec .qctlStart s = .next s) ∧
    ((∀ x, aget? s.queues (p, q) = some x → x.state ≠ 1) →
      (s.isMemory p base = false → exec .qctlStart s = .next s) ∧
      (∀ u, s.isMemory p base = true → s.blockRead p (partReader 5 (p * 64 + q)) base = .error u → exec .qctlStart s = .next { u with winq := [(winAt p 0 67, qv, 0)] }) ∧
      (∀ w u, s.isMemory p base = true → s.blockRead p (partReader 5 (p * 64 + q)) base = .ok (w, u) →
        (qdescOk (u.part p).pdies w = false → ends .qctlStart u) ∧
        (qdescOk (u.part p).pdies w = true →
          let a := w.getD 1 0
          let f (lo n : Nat) : Nat := a / 2 ^ lo % 2 ^ n
          let x : Queue := { base := w.getD 0 0, logN := f 0 4, typ := f 4 3, prio := f 8 3, ctx := f 11 1, serial := a.testBit 12, narrow := a.testBit 13, wide := a.testBit 14
                             sup := a.testBit 15, dies := f 16 8
                             head := ((aget? s.queues (p, q)).map (fun y => y.head / 2 ^ 64 + 1)).getD 0 * 2 ^ 64 + w.getD 2 0 % 2 ^ 32, state := 1, stop := false, cur := none, tokOk := false
                             ents := (((aget? s.queues (p, q)).map (·.ents)).getD []).filter fun y => y.op != 6 }
          let u := u.withdrawPart (queueReader p q)
          ends .qctlStart (state { u with queues := aset u.queues (p, q) x } x.ctx 1 0)))) ∧
    (aget? s.queues (p, q) = none → exec .qctlStop s = .next s) ∧
    (∀ x, aget? s.queues (p, q) = some x →
      (x.state ≠ 1 → exec .qctlStop s = .next s) ∧
      (x.state = 1 → x.cur = none → ends .qctlStop (state { s.withdrawPart (queueReader p q) with queues := aset s.queues (p, q) { x with state := 0, stop := true } } x.ctx 0 0)) ∧
      (x.state = 1 → x.cur ≠ none → exec .qctlStop s = .next { s with queues := aset s.queues (p, q) { x with stop := true }, winq := [(winAt p 0 67, qs, 0)] })) ∧
    (s.ctxLive p cx = true → exec .devrcbWrite s = .next s) ∧
    (s.ctxLive p cx = false → v = 0#64 →
      ((s.ctx p cx).dev = none → exec .devrcbWrite s = .next (s.setCtx p cx { s.ctx p cx with devrcb := 0#64 })) ∧
      (∀ d, (s.ctx p cx).dev = some d → d.rcb < 2 ^ 56 →
        let w := if d.state ≠ 5 then s.sysWord p cx (d.rcb + 0x38) 3 else s
        ends .devrcbWrite (w.setCtx p cx { w.ctx p cx with devrcb := 0#64, dev := none }))) ∧
    (s.ctxLive p cx = false → v.toNat % 64 ≠ 0 → exec .devrcbWrite s = .next s) ∧
    (s.ctxLive p cx = false → v ≠ 0#64 → v.toNat % 64 = 0 → 
      let x := s.xlatePart (unitReg p cx) ((s.partDies p).headD p) cx v.toNat .read true
      (∀ u, x = .fault u → ends .devrcbWrite u) ∧ (∀ u, x = .wait u → exec .devrcbWrite s = .next { u with winq := [(winAt p e.ctx 65, v, 0)] }) ∧
      (∀ pa u, x = .ok pa u → u.isMemory p pa = false → ends .devrcbWrite u) ∧
      (∀ pa u y, x = .ok pa u → u.isMemory p pa = true → u.blockRead p (partReader 7 (p * 64 + cx)) pa = .error y →
        exec .devrcbWrite s = .next { y with winq := [(winAt p e.ctx 65, v, 0)] }) ∧
      (∀ pa b w u, x = .ok pa b → b.isMemory p pa = true → b.blockRead p (partReader 7 (p * 64 + cx)) pa = .ok (w, u) →
        let f (i lo n : Nat) : Nat := w.getD i 0 / 2 ^ lo % 2 ^ n
        (f 7 0 4 ≠ 0 ∨ u.rcbLive p (some cx) pa = true → ends .devrcbWrite u) ∧
        (f 7 0 4 = 0 → u.rcbLive p (some cx) pa = false →
          let r := u.retireDev p cx pa
          let ok : Prop := w.getD 0 0 = 0 ∧ f 3 43 1 = 1 ∧ f 3 50 14 = 0 ∧ f 4 38 26 = 0 ∧ f 7 8 24 = 0
          let d (st : Nat) : DevReg := ⟨pa, f 3 40 3, f 5 0 32, f 5 32 32, f 6 0 16, f 6 16 16, f 6 32 32, decide (f 3 45 1 = 1), st⟩
          let named (st : Nat) : State := r.setCtx p cx { r.ctx p cx with devrcb := v, dev := some (d st) }
          (ok → ends .devrcbWrite ((named 2).sysWord p cx (pa + 0x38) 2)) ∧ (¬ ok → ends .devrcbWrite ((named 4).sysWord p cx (pa + 0x38) (4 + 1 * 16)))))) ∧
    (let idle : Prop := s.ctxLive p 0 = false ∧ s.ctxLive p 1 = false ∧ s.anyEntry p (fun _ => true) = false ∧ (s.ctx p 0).saved = false ∧ (s.ctx p 1).saved = false
     (v.toNat < 2 ^ 8 → idle → exec .cellstoreWrite s =
       .next ({ s with cells := s.cells.filter fun y => !((s.partDies p).contains (y.1 / 2 ^ 37)) }.setPart p { s.part p with cellstore := v })) ∧
     (2 ^ 8 ≤ v.toNat ∨ ¬ idle → exec .cellstoreWrite s = .next s)) ∧
    (e.flag = false →
     let new : BitVec 8 := v.truncate 8
     let free : BitVec 8 := (s.part p).pdies &&& ~~~new
     let movable : Prop := v.toNat < 2 ^ 8 ∧ s.emptied p new = true ∧ ∀ d, d < 8 → (s.part p).pdies.getLsbD d = new.getLsbD d ∨ s.dieIdle d = true
     (¬ movable → exec .pdiesWrite s = .next s) ∧
     (movable → new ≠ 0#8 → lowDie new p = p → (s.parts.map Prod.fst).Nodup → (∀ x ∈ s.parts, x.1 ≠ p → x.2.pdies &&& ~~~new ≠ 0#8 ∧ lowDie (x.2.pdies &&& ~~~new) x.1 = x.1) →
       aget? s.parts (lowDie free 0) = none ∨ free = 0#8 →
       ∃ t, exec .pdiesWrite s = .next t ∧ (t.part p).pdies = new ∧ (∀ r, r ≠ p → r ≠ lowDie free 0 → (t.part r).pdies = (s.part r).pdies &&& ~~~new) ∧
         (free ≠ 0#8 → lowDie free 0 ≠ p → (t.part (lowDie free 0)).pdies = free) ∧ t.mem = s.mem ∧ t.slots = s.slots ∧ t.ctxs = s.ctxs ∧ t.queues = s.queues))) ∧
    (e.flag = true → aget? s.parts p ≠ none → ∃ t, exec .pdiesWrite s = .next t ∧
      (∀ r, (t.part r).ports = if r = p then v.truncate 24 else (s.part r).ports &&& ~~~(v.truncate 24)) ∧
      (∀ r, aget? s.parts r ≠ none → ∀ k, k < 3 → ∀ b, b < 64 → (((t.part r).reach.getD k 0#64).getLsbD b = true ↔
        ∃ i, i < 24 ∧ (t.part r).ports.getLsbD i = true ∧ (s.cwport.getD i 0#64).getLsbD 0 = true ∧ ((s.planes.getD i []).getD k 0#64).getLsbD b = true)) ∧
      t.mem = s.mem ∧ t.slots = s.slots ∧ t.ctxs = s.ctxs) ∧
    (let o := e.u
     let n := o % 0x8000 / 8
     let wp := o / 0x10000
     let wc := o / 0x8000 % 2
     let there : Prop := o % 8 = 0 ∧ wp < 8 ∧ n < 512 ∧ sysReserved n = false ∧ sysLocal n = false
     (e.n = 1 → s.winq = [] → exec .sysWindowAccess s = .next s) ∧
     (e.n = 1 → ∀ y l, s.winq = y :: l →
       let w := s.winWrite y.1 y.2.1
       (y.2.2 ≠ 0 → exec .sysWindowAccess s = .next (if s.winBusy y.1 y.2.2 = true then s else { s with winq := l })) ∧
       (y.2.2 = 0 →
         (∀ t, w = .ok t → t.winBusy y.1 t.fresh = false → exec .sysWindowAccess s = .next { t with winq := l }) ∧
         (∀ t, w = .ok t → t.winBusy y.1 t.fresh = true → exec .sysWindowAccess s = .next { t with winq := (y.1, y.2.1, t.fresh) :: l, fresh := t.fresh + 1 }) ∧
         (w = .bad → exec .sysWindowAccess s = .next { s with winq := l }) ∧ (∀ t, w = .badOn t → exec .sysWindowAccess s = .next { t with winq := l }) ∧
         (∀ t, w = .wait t → exec .sysWindowAccess s = .next { t with winq := (y.1, y.2.1, 0) :: l }))) ∧
     (e.n ≠ 1 → s.winq ≠ [] → exec .sysWindowAccess s = .next (if e.flag = true then { s with winq := s.winq ++ [(o, v, 0)] } else s)) ∧
     (e.n ≠ 1 → s.winq = [] →
       (e.flag = false → there → exec .sysWindowAccess s = .next { s with hostReads := s.hostReads ++ [(0x3000010000000 + o, some (s.sysGet wp wc n))] }) ∧
       (e.flag = false → ¬ there → exec .sysWindowAccess s = .next { s with hostReads := s.hostReads ++ [(0x3000010000000 + o, none)] }) ∧
       (e.flag = true → ¬ there ∨ sysReadOnly n = true → exec .sysWindowAccess s = .next s) ∧
       (e.flag = true → there → sysReadOnly n = false → s.sysPut wp wc n v = .bad → exec .sysWindowAccess s = .next s) ∧
       (e.flag = true → there → sysReadOnly n = false → ∀ t, s.sysPut wp wc n v = .badOn t → ends .sysWindowAccess t) ∧
       (e.flag = true → there → sysReadOnly n = false → ∀ t, s.sysPut wp wc n v = .wait t → exec .sysWindowAccess s = .next { t with winq := [(o, v, 0)] }) ∧
       (e.flag = true → there → sysReadOnly n = false → ∀ t, s.sysPut wp wc n v = .ok t →
         (n ≠ 80 → n ≠ 81 → ends .sysWindowAccess t) ∧
         (n = 80 ∨ n = 81 → ∀ u, (t.useRoot wp wc).loadRanges wp wc = .error (.wait u) → exec .sysWindowAccess s = .next { s.keepAsked u with winq := [(o, v, 0)] }) ∧
         (n = 80 ∨ n = 81 → ∀ u, (t.useRoot wp wc).loadRanges wp wc = .ok u →
           let y := u.dropPages wp wc fun _ => true
           (y.xinvBusy wp wc y.fresh = false → ends .sysWindowAccess y) ∧
           (y.xinvBusy wp wc y.fresh = true → exec .sysWindowAccess s = .next { y with winq := [(o, v, y.fresh)], fresh := y.fresh + 1 })))))

/-- a running queue takes the entry at HEAD, waits for its token, carries out its command, goes on, and counts the token up when the entry
completes (R39, R40, R41, R108, R257, R267, R269, R339, R340, R341, R342, R125). QUEUE_SEQ_TAKE takes a full SEQ that equals HEAD and an
entry whose OP, fields and addresses are valid becomes the entry the queue acts on; a SEQ that differs faults the queue with SEQ, a bad
entry of any OP (a TASK or SEND with a reserved field set, a task-table entry that R269 refuses, a channel above 13) with BADCMD, an address
with XLATE (logs 35, 59); an empty SEQ, a held word, a walk or a peer awaited leave all as it was but what has been asked. TOKEN_POLL lets
it act once the token has reached the value; a peer's token is asked of the peer (log 59). With SERIAL an entry or a record waits for the
one before it. LAUNCH submits its RCB; COPY hands a copy to the engine with fewer copies of the lowest die that serves the queue (log 44);
TASK writes the task table and SEND sends a message, and either faults with XLATE where its address does not translate or names no Reed core
it may reach (log 59); MARK does nothing. Each then advances: HEAD rises by 1 in the queue and in its descriptor, and the entry awaits
completion. ENTRY_COMPLETE_SIGNAL begins a cumulative release at device scope on every die of the partition (log 59), and once it and the
entry's own writes stand counts its token up by 1 at device scope, or in its host or at its peer, which acknowledges, and forgets the entry;
a failed entry never completes, nor a MARK behind it (log 59). RECORD_TAKE submits a launch with the record's ARGS, GROUPS and TAG; a SEQ
that differs faults with the record's TAG (log 59), a TEMPLATE that is misaligned or does not translate with XLATE. Nothing else changes. -/
def Obligations.CommandQueues : Prop :=
  (∀ (typ : Nat) (w : List Nat), let a1 := w.getD 5 0
    let a2 := w.getD 6 0
    cmdOk typ w = true ↔ w.getD 0 0 / 2 ^ 8 % 2 ^ 56 = 0 ∧
      ((w.getD 0 0 % 2 ^ 8 = 1 ∧ typ = 1 ∧ a1 = 0 ∧ a2 = 0) ∨ (w.getD 0 0 % 2 ^ 8 = 2 ∧ typ = 2 ∧ a1 = 0 ∧ a2 = 0) ∨
       (w.getD 0 0 % 2 ^ 8 = 3 ∧ typ = 3 ∧ a1 / 2 ^ 4 % 2 ^ 60 = 0 ∧ a2 / 2 ^ 13 % 2 = 0 ∧ a2 / 2 ^ 18 % 2 ^ 46 = 0 ∧ (14 ≤ a1 % 16 ∨ a2 % 2 = 0)) ∨
       (w.getD 0 0 % 2 ^ 8 = 4 ∧ typ = 3 ∧ a1 / 2 ^ 4 % 2 ^ 60 = 0 ∧ a1 % 16 < 14) ∨ (w.getD 0 0 % 2 ^ 8 = 5 ∧ a1 = 0 ∧ a2 = 0))) ∧
  (∀ (s : State) (x : Queue), let p := s.cur.ev.p
    let q := s.cur.ev.q
    aget? s.queues (p, q) = some x →
    let faults (i : Instr) (u : State) (c n tag : Nat) : Prop := exec i s = .next (u.queueFault p q c n tag 0)
    let waits (i : Instr) (u : State) : Prop := exec i s = .next (s.cpWait u)
    let ready : Prop := x.state = 1 ∧ x.stop = false ∧ x.cur = none
    let serial (i : Nat) : Prop := x.serial = true → i % 2 ^ 64 = 0 ∨ ∀ y ∈ x.ents, y.idx % 2 ^ 64 ≠ i % 2 ^ 64 - 1
    let set (u : State) (y : Queue) : State := { u with queues := aset u.queues (p, q) y }
    (¬ ready ∨ x.typ = 4 → exec .queueSeqTake s = .next s) ∧ (¬ ready ∨ x.typ ≠ 4 ∨ ¬ serial x.head → exec .recordTake s = .next s) ∧
    (ready → x.typ ≠ 4 →
      let at0 := x.base + 64 * (x.head % 2 ^ x.logN)
      let tk := s.cpTake p q x.ctx (at0 + 0x38)
      let i := Instr.queueSeqTake
      (∀ t, tk = .wait t → waits i t) ∧ (∀ t, tk = .fault t → faults i t 5 x.head 0) ∧
      (∀ sq u, tk = .ok sq u →
        (sq ≠ x.head % 2 ^ 64 → faults i u 1 x.head 0) ∧
        (sq = x.head % 2 ^ 64 →
          let rd := u.cpWords p q x.ctx true 7 at0
          (∀ t, rd = .wait t → waits i t) ∧ (∀ t, rd = .fault t → faults i t 5 x.head 0) ∧
          (∀ v u2, rd = .ok v u2 →
            let w := (List.range 7).map fun i => v / 2 ^ (64 * i) % 2 ^ 64
            let ks := u2.cmdKeys p q x (cmdAddrs w)
            (cmdOk x.typ w = false → faults i u2 2 x.head 0) ∧
            (cmdOk x.typ w = true → (∀ t, ks = .wait t → waits i t) ∧ (∀ t, ks = .fault t → faults i t 5 x.head 0) ∧
              ∀ y u3, ks = .ok y u3 → exec i s = .next (set (u3.dropAns (queueReader p q)) { x with cur := some (x.head, w.map (BitVec.ofNat 64)), tokOk := decide (w.getD 1 0 = 0) })))))) ∧
    (ready → x.typ = 4 → serial x.head →
      let at0 := x.base + 32 * (x.head % 2 ^ x.logN)
      let tk := s.cpTake p q x.ctx (at0 + 0x18)
      let i := Instr.recordTake
      (∀ t, tk = .wait t → waits i t) ∧ (∀ t, tk = .fault t → faults i t 5 x.head 0) ∧
      (∀ sq u, tk = .ok sq u →
        let rd := u.cpWords p q x.ctx true 3 at0
        (∀ t, rd = .wait t → waits i t) ∧ (∀ t, rd = .fault t → faults i t (if sq = x.head % 2 ^ 64 then 5 else 1) x.head 0) ∧
        (∀ v u2, rd = .ok v u2 →
          let tag := v / 2 ^ 160 % 2 ^ 32
          let key := u2.cpKey p q x.ctx (v % 2 ^ 64) 64 .read true
          (sq ≠ x.head % 2 ^ 64 → faults i u2 1 x.head tag) ∧
          (sq = x.head % 2 ^ 64 → (∀ t, key = .wait t → waits i t) ∧ (∀ t, key = .fault t → faults i t 5 x.head tag) ∧
            (v % 2 ^ 64 % 64 ≠ 0 → key = .fault u2) ∧
            ∀ y u3, key = .ok y u3 →
              let t := set (u3.dropAns (queueReader p q)) { x with cur := some (x.head, [BitVec.ofNat 64 (v % 2 ^ 64)]), tokOk := true }
              exec i s = .next (t.setPart p { t.part p with subs := (t.part p).subs ++
                [⟨v % 2 ^ 64, x.ctx, p, .record p q x.head, some (BitVec.ofNat 64 (v / 2 ^ 64 % 2 ^ 64)), some (v / 2 ^ 128 % 2 ^ 32), tag⟩] }))))) ∧
    (∀ i w, x.cur = some (i, w) → x.typ ≠ 4 →
      let wd (k : Nat) : Nat := (w.getD k 0#64).toNat
      let may : Prop := x.tokOk = true ∧ serial i
      let adv (u : State) (e : QEnt) : Out := .next (u.queueAdvance p q e)
      (x.tokOk = false →
        let key := s.cpKey p q x.ctx (wd 1) 8 .read true
        (∀ t, key = .wait t → waits .tokenPoll t) ∧ (∀ t, key = .fault t → faults .tokenPoll t 5 i 0) ∧
        (∀ pa u, key = .ok pa u →
          ((∀ d o, s.classify p pa ≠ .peer d o) →
            let rd := s.cpRead p q x.ctx (wd 1) true
            (∀ v t, rd = .ok v t → exec .tokenPoll s = .next (t.tokenSeen p q v) ∧
              (aget? t.queues (p, q) = some x → t.tokenSeen p q v = if wd 2 ≤ v then (set t { x with tokOk := true }).acqPart p else t)) ∧
            (∀ t, rd = .wait t → waits .tokenPoll t) ∧ (∀ t, rd = .fault t → faults .tokenPoll t 5 i 0)) ∧
          (∀ d o, s.classify p pa = .peer d o →
            ((∀ r ∈ s.peerq, ¬ (r.owner = queueOwner p q i ∧ r.req = .load o .d)) →
              exec .tokenPoll s = .next { u with peerq := u.peerq ++ [⟨u.fresh, d, .load o .d, queueOwner p q i, none, 0#64, true⟩], fresh := u.fresh + 1 }) ∧
            ((∃ r ∈ s.peerq, r.owner = queueOwner p q i ∧ r.req = .load o .d) → exec .tokenPoll s = .next s))) ∧
        ∀ c ∈ [Instr.cmdLaunch, .cmdCopy, .cmdTask, .cmdSend, .cmdMark], exec c s = .next s) ∧
      (may → wd 0 % 2 ^ 8 = 1 →
        let sub : Sub := ⟨wd 4, x.ctx, p, .queue p q i, none, none, wd 3⟩
        exec .cmdLaunch s = .next (if sub ∈ (s.part p).subs then s else s.setPart p { s.part p with subs := (s.part p).subs ++ [sub] })) ∧
      (may → wd 0 % 2 ^ 8 = 2 →
        let rd := s.cpWords p q x.ctx x.sup 4 (wd 4)
        (∀ t, rd = .wait t → waits .cmdCopy t) ∧ (∀ t, rd = .fault t → faults .cmdCopy t 5 i 0) ∧ ∀ v u, rd = .ok v u →
        let d := v % 2 ^ 64
        let d1 := v / 2 ^ 64 % 2 ^ 64
        let src := v / 2 ^ 128 % 2 ^ 64
        let dst := v / 2 ^ 192 % 2 ^ 64
        let len := d % 2 ^ 24
        let rows := d / 2 ^ 24 % 2 ^ 12
        let die := ((List.range 8).find? fun k => nbit x.dies k && (u.partDies p).contains k).getD p
        let count (e : Nat) : Nat := (u.copies.filter fun c => c.die == die && c.eng == e).length
        let eng := if count 0 ≤ count 1 then 0 else 1
        let g := d / 2 ^ 38 % 2 ^ 8
        let top := dst + rows * (d1 / 2 ^ 32) + len
        let well : Prop := d / 2 ^ 46 = 0 ∧ d / 2 ^ 36 % 4 = 0
        let sides : Prop := sideOk src (d1 % 2 ^ 32) len rows = true ∧ (g = 0 → sideOk dst (d1 / 2 ^ 32) len rows = true)
        (d / 2 ^ 46 ≠ 0 ∨ d / 2 ^ 36 % 4 ≠ 0 → faults .cmdCopy u 2 i 0) ∧
        (well → len ≠ 0 → ¬ sides → faults .cmdCopy u 5 i 0) ∧
        (well → (len ≠ 0 → sides) → g ≠ 0 → (u.groupOf p g top = .invalid → faults .cmdCopy u 2 i 0) ∧ (u.groupOf p g top = .unreach → faults .cmdCopy u 5 i 0)) ∧
        (well → ∀ mem, (g = 0 → mem = []) → (g ≠ 0 → u.groupOf p g top = .ok mem) →
        (len = 0 → exec .cmdCopy s = adv u ⟨i, 2, wd 3, 0, true⟩) ∧
        (len ≠ 0 → sides → 64 ≤ count eng → exec .cmdCopy s = .next u) ∧
        (len ≠ 0 → sides → count eng < 64 →
          let op : CopyOp := { id := u.fresh, die := die, eng := eng, ti := none, uid := 0, grp := 0, clu := 0, ctx := x.ctx, qent := some (p, q, i), sup := x.sup, first := 0#64, multi := decide (g ≠ 0)
                               d0 := BitVec.ofNat 64 d, d1 := BitVec.ofNat 64 d1, s := BitVec.ofNat 64 src, t := BitVec.ofNat 64 dst, row := 0, byte := 0, mem := mem, await := mem.map (·.1), lost := []
                               stop := none, buf := [], want := 0#64, sys := decide (g ≠ 0) }
          exec .cmdCopy s = adv { u with copies := u.copies ++ [op], fresh := u.fresh + 1 } ⟨i, 2, wd 3, u.fresh, false⟩))) ∧
      (may → wd 0 % 2 ^ 8 = 3 →
        let key := s.cpKey p q x.ctx (wd 4) 1 .read x.sup
        (∀ t, key = .wait t → waits .cmdTask t) ∧ (∀ t, key = .fault t → faults .cmdTask t 5 i 0) ∧
        (∀ pa u, key = .ok pa u → (∀ lin, u.classify p pa ≠ .dram lin) → faults .cmdTask u 5 i 0) ∧
        ∀ pa u lin, key = .ok pa u → u.classify p pa = .dram lin →
          exec .cmdTask s = adv (u.setReed (chanOf pa) { u.reed (chanOf pa) with table := lset (u.reed (chanOf pa)).table (wd 5 % 2 ^ 4) (wd 6 % 2 ^ 32) }) ⟨i, 3, wd 3, 0, true⟩) ∧
      (may → wd 0 % 2 ^ 8 = 4 →
        let rd := s.cpWords p q x.ctx x.sup 8 (wd 6)
        (∀ t, rd = .wait t → waits .cmdSend t) ∧ (∀ t, rd = .fault t → faults .cmdSend t 5 i 0) ∧ ∀ v u, rd = .ok v u →
        let key := u.cpKey p q x.ctx (wd 4) 1 .read x.sup
        let src := (u.part p).devid.toNat % 2 ^ 8 * 65536
        let pay := (List.range 8).map fun k => BitVec.ofNat 64 (v / 2 ^ (64 * k) % 2 ^ 64)
        (∀ t, key = .wait t → waits .cmdSend t) ∧ (∀ t, key = .fault t → faults .cmdSend t 5 i 0) ∧
        (∀ pa t, key = .ok pa t → (∀ lin, t.classify p pa ≠ .dram lin) → (∀ d o, t.classify p pa ≠ .peer d o) → faults .cmdSend t 5 i 0) ∧
        (∀ pa t lin, key = .ok pa t → t.classify p pa = .dram lin →
          let m : Msg := { kind := 3, q := chanOf pa, chan := wd 5 % 2 ^ 4, src := src, ctx := x.ctx, id := t.fresh, entry := 0, pay := pay, ti := none, uid := 0, qent := some (p, q, i), first := 0#64, tile := none }
          exec .cmdSend s = adv { t with msgs := t.msgs ++ [m], fresh := t.fresh + 1 } ⟨i, 4, wd 3, 0, false⟩) ∧
        (∀ pa t d o, key = .ok pa t → t.classify p pa = .peer d o →
          exec .cmdSend s = adv { t with peerq := t.peerq ++ [⟨t.fresh, d, .message o (wd 5 % 2 ^ 4) src pay, queueOwner p q i, none, 0#64, true⟩], fresh := t.fresh + 1 } ⟨i, 4, wd 3, 0, false⟩)) ∧
      (may → wd 0 % 2 ^ 8 = 5 → exec .cmdMark s = adv s ⟨i, 5, wd 3, 0, false⟩)) ∧
    (∀ e, x.ents.find? (fun e => e.idx == s.cur.ev.n) = some e →
      let whole : Prop := e.op ≠ 6 ∧ (e.done = true ∨ (e.op = 5 ∧ ∀ y ∈ x.ents, e.idx ≤ y.idx))
      let short : Prop := e.own ≠ 0 ∧ s.uidShort e.own = true
      let merges (u : State) : State := u.runs.foldl (fun (u : State) r => if r.1.level = 2 ∧ (u.partDies p).contains r.1.dieOf = true then u.wantMerge r.1 else u) u
      let i := Instr.entryCompleteSignal
      (∀ u y, aget? u.queues (p, q) = some y → u.retireEnt p q e.idx = set u { y with ents := y.ents.filter (fun z => z.idx != e.idx), rels := y.rels.filter fun z => z.1 != e.idx }) ∧
      (¬ whole → exec i s = .next s) ∧ (whole → short → exec i s = .next (merges s)) ∧
      (whole → ¬ short →
        (e.stok = 0 → exec i s = .next (s.retireEnt p q e.idx)) ∧
        (e.stok ≠ 0 → x.rels.find? (fun y => y.1 == e.idx) = none →
          exec i s = .next { set (merges (s.markPart p s.fresh)) { x with rels := x.rels ++ [(e.idx, s.fresh)] } with fresh := (merges (s.markPart p s.fresh)).fresh + 1 }) ∧
        (e.stok ≠ 0 → ∀ y, x.rels.find? (fun y => y.1 == e.idx) = some y →
          (s.markShort p y.2 = true → exec i s = .next (merges s)) ∧
          (s.markShort p y.2 = false →
            let key := s.cpKey p q x.ctx e.stok 8 .write true
            (∀ t, key = .wait t → waits i t) ∧ (∀ t, key = .fault t → faults i t 5 e.idx 0) ∧
            (∀ pa t, key = .ok pa t →
              let u := t.partReleased p
              (∀ lin, u.classify p pa = .dram lin →
                ∀ z, State.put levels u (.rick (homeDie pa)) (mkEntry pa .iadd .d false x.ctx 0 1#64 [] u.clk) true = .ok z → exec i s = .next (z.retireEnt p q e.idx)) ∧
              (∀ rc a, u.classify p pa = .host rc a →
                exec i s = .next ((u.hostWriteB a (leBytes 8 ((u.hostRead a 8 + 1) % 2 ^ 64))).retireEnt p q e.idx)) ∧
              (∀ d o, u.classify p pa = .peer d o → u.reaches p d = true →
                let ow := partReader 9 (e.idx * 512 + p * 64 + q)
                (∀ ws z, u.askPart ow d (.update o .iadd .d false 1#64) = (some ws, z) → exec i s = .next ((z.dropAns ow).retireEnt p q e.idx)) ∧
                ∀ z, u.askPart ow d (.update o .iadd .d false 1#64) = (none, z) → waits i z))))))) ∧
  (∀ (s : State) (p q : Nat) (x : Queue) (e : QEnt), aget? s.queues (p, q) = some x → x.stop = false →
    s.queueAdvance p q e = { s.dropAns (queueReader p q) with queues := aset s.queues (p, q) { x with head := x.head + 1, cur := none, tokOk := false, ents := x.ents ++ [e] } }.sysWord p x.ctx
      ((s.part p).qtab.toNat + 64 * q + 0x10) ((x.head + 1) % 2 ^ 32))

/-- LAUNCH submits an RCB; a launch is accepted or refused with its REASON, its groups are placed where R344 says, and it completes when all
stands (R17, R34, R38, R40, R42, R43, R170, R291, R343, R344, R345, R347). LAUNCH of a group's thread reads its RCB: a STATE other than 0 or
a live RCB gives 6 in rd, PLACE 3 refuses it with REASON 1, otherwise it releases at its scope, submits and leaves the rotation. The
submission of highest level, round-robin over the queues within it (that the LAUNCHes of threads share one turn: log 55), is answered when
the table has room: refused with the REASON of the first check it fails (written to the RCB with STATE 4, but for 6 and a template; the
order within a check is log 55) or accepted with STATE 1 and its fields; one whose RCB no longer translates, or lies in no memory, writes
nothing (log 50); a held word, a walk or a peer awaited leave it waiting. A group is placed on the best cluster, the one with most free
rows, then nearest after the previous die, then the lowest, the groups of a launch in ascending order (the model's choice, log 42): its
slots, scratchpad and operand slots lie free and below the reservation of R291, its threads start at ENTRY with ARGS, thread and group
numbers in w0, w1, w2 (R17), the die's granary is flushed, and the cluster's instruction cache starts anew (log 10). An aging tick sets the
blocking launch. GROUPS_DONE counts ended groups whose updates stand. A launch whose groups have all ended and whose updates stand at device
scope writes STATE 3 with GROUPS_DONE; a record's is counted up in its TEMPLATE, wherever that lies, at a peer once it is acknowledged. A
group idle for 2^L clk is contained. -/
def Obligations.LaunchesAndGroups : Prop :=
  (∀ (ti : SlotId) (rd rs : Reg) (s : State), s.issues ti →
    let x := s.thr ti
    let p := s.partOf ti.die
    let va := x.reg rs
    let i := Instr.launch rd rs
    (x.kind ≠ .group → exec i s = .next (s.takeTrap tOp 0 s.cur.addr)) ∧
    (x.kind = .group → va.toNat % 64 ≠ 0 → exec i s = .next (s.takeTrap tAlign 0 va)) ∧
    let go (u0 : State) (place : Nat) : Prop :=
      let sc : Scope := if place = 0 then .dev else if place = 1 then .die else .clu
      (∀ t, u0.release sc false = .error (.hold t) → exec i s = .next t) ∧
      (∀ u, u0.release sc false = .ok u → ∃ t, exec i s = .next t ∧ (t.part p).subs = (u.part p).subs ++ [⟨va.toNat, ti.ctx, p, .thread ti (u.thr ti).uid, none, none, 0⟩] ∧
        (t.thr ti).wait = .sched ∧ (t.thr ti).ph.aux = rd.toNat ∧ (t.thr ti).pc = (u.thr ti).pc ∧ (∀ pl, (t.thr ti).atPlace pl = (u.thr ti).atPlace pl) ∧ t.mem = u.mem ∧ t.runs = u.runs)
    (x.kind = .group → va.toNat % 64 = 0 → ∀ k s0, s.keyAt (va + 0x18#64) 8 .read subLoad = .ok (k, s0) →
      (x.ph.stage = 0 → ∀ ctl s1, s.fenLoad (va + 0x18#64) 8 false = .ok (ctl, s1) →
        let s2 := s1.setPhase { s1.th.ph with stage := 1, aux := ctl, len := s1.cur.len }
        s2.th.ph.stage = 1 → ∀ st s3, s2.fenLoad (va + 0x38#64) 8 false = .ok (st, s3) → s3.th.ph.stage = 1 →
        let place := ctl / 2 ^ 48 % 4
        (st % 16 ≠ 0 ∨ s3.rcbLive p none (k.pa - 0x18) = true → exec i s = .next (s3.setReg rd 6#64).fall) ∧
        (st % 16 = 0 → s3.rcbLive p none (k.pa - 0x18) = false →
          (place = 3 → (∀ d o, k.cls ≠ .peer d o) → exec i s = .next (((s3.sysWord p ti.ctx (k.pa + 0x20) (4 + 1 * 16)).setReg rd 1#64).fall)) ∧
          (place = 3 → ∀ d o, k.cls = .peer d o → exec i s = .next (((s3.toStream ti d (.update (o + 0x20) .replace .d false 20#64) false).setReg rd 1#64).fall)) ∧
          (place ≠ 3 → go (s3.setPhase { s3.th.ph with stage := 2 }) place))) ∧
      (x.ph.stage = 2 → x.ph.aux / 2 ^ 48 % 4 ≠ 3 → go (s.setPhase { x.ph with stage := 2 }) (x.ph.aux / 2 ^ 48 % 4)))) ∧
  (∀ s : State, let p := s.cur.ev.p
    let subs := (s.part p).subs.filter fun y => match y.origin with | .thread ti uid => (s.thr ti).wait == .sched && (s.thr ti).live && (s.thr ti).uid == uid | _ => true
    (subs = [] → exec .launchAccept s = .next (s.setPart p { s.part p with subs := [] })) ∧
    (subs ≠ [] → 4096 ≤ s.liveCount p → exec .launchAccept s = .next s) ∧
    (subs ≠ [] → ∃ y, s.nextSub p subs = some y) ∧
    (∀ y, s.nextSub p subs = some y → y ∈ subs ∧ ∀ z ∈ subs, s.subPrio z < s.subPrio y ∨ (s.subPrio z = s.subPrio y ∧
      let last := aget 64 (s.part p).qturn (s.subPrio y)
      (y.turn + 64 - last) % 65 ≤ (z.turn + 64 - last) % 65)) ∧
    (∀ y, s.nextSub p subs = some y → s.liveCount p < 4096 →
      let s1 := s.setPart p { s.part p with subs := subs.erase y, qturn := aset (s.part p).qturn (s.subPrio y) y.turn }
      let answer (t : State) (r : Nat) : Out := .next (match y.origin with
        | .thread ti uid => if (t.thr ti).wait = .sched ∧ (t.thr ti).uid = uid then (t.modThr ti fun z => z.setReg (BitVec.ofNat 5 z.ph.aux) (BitVec.ofNat 64 r)).fallOf ti else t
        | .queue a b i => if r = 0 then t.queueAdvance a b ⟨i, 1, y.tag, 0, false⟩ else t.queueFault a b 3 i 0 r
        | .record a b i => if r = 0 then t.queueAdvance a b ⟨i, 0, 0, 0, false⟩ else t.queueFault a b 3 i y.tag r)
      let key := s1.xlatePart y.unit ((s1.partDies y.p).headD y.p) y.ctx y.va .read true
      let unread (u : State) : Prop := (∀ ti uid, y.origin = .thread ti uid → exec .launchAccept s = answer u 4) ∧
        (∀ a b i, y.origin = .queue a b i → exec .launchAccept s = .next (u.queueFault a b 5 i 0 0)) ∧ (∀ a b i, y.origin = .record a b i → exec .launchAccept s = .next (u.queueFault a b 5 i y.tag 0))
      let waits (u : State) : Prop := exec .launchAccept s = .next ((s.keepWalks u).keepAsked u)
      (∀ u, key = .fault u → unread u) ∧ (∀ u, key = .wait u → waits u) ∧ (∀ pa u, key = .ok pa u → u.isMemory y.p pa = false → unread u) ∧
      (∀ pa u z, key = .ok pa u → u.isMemory y.p pa = true → u.subWords y pa = .error (.wait z) → waits z) ∧
      (∀ pa u w v, key = .ok pa u → u.isMemory y.p pa = true → u.subWords y pa = .ok (w, v) →
        let f (i lo n : Nat) : Nat := w.getD i 0 / 2 ^ lo % 2 ^ n
        let rec? : Prop := ∃ a b i, y.origin = .record a b i
        let thread? : Prop := ∃ ti uid, y.origin = .thread ti uid
        let rcb : Option Nat := match y.origin with | .record _ _ _ => none | _ => some pa
        let put (t : State) (w : Nat) : State := match rcb with | some a => t.sysWord y.p y.ctx (a + 0x38) w | none => t
        let refuse (t : State) (r : Nat) : Out := answer (put (t.dropAns y.reader) (4 + r % 16 * 16)) r
        let valid : Prop := f 3 50 14 = 0 ∧ f 4 38 26 = 0 ∧ f 7 8 24 = 0 ∧ f 1 0 64 % 2 = 0 ∧ 1 ≤ f 3 32 7 ∧ f 3 32 7 ≤ 64 ∧ (f 3 39 1 = 1 → f 3 32 7 ≤ 60) ∧ f 3 48 2 ≠ 3 ∧
          (¬ thread? → f 3 48 2 = 0) ∧ f 4 0 32 % 4096 = 0 ∧ f 4 0 32 ≤ 0x40000 ∧ f 4 32 6 ≤ 16
        let taken : Prop := ¬ rec? ∧ (f 7 0 4 ≠ 0 ∨ v.rcbLive y.p none pa = true)
        (taken → exec .launchAccept s = answer (v.dropAns y.reader) 6) ∧
        (¬ taken → (∀ k ∈ w, k < 2 ^ 64) →
          (¬ valid → exec .launchAccept s = refuse v 1) ∧
          (valid →
            (∀ r z, v.parentOf y (w.getD 0 0) = .bad r z → r ≠ 6 → exec .launchAccept s = refuse z r) ∧
            (∀ z, v.parentOf y (w.getD 0 0) = .wait z → waits z) ∧
            (∀ par z, v.parentOf y (w.getD 0 0) = par → (∃ b, par = .device b z) ∨ (∃ b, par = .launch b z) →
              let l := z.launchOfSub y w pa par
              (z.fitReason l ≠ 0 → z.fitReason l ≠ 6 → exec .launchAccept s = refuse z (z.fitReason l)) ∧
              (z.fitReason l = 0 → exec .launchAccept s = answer ((put ({ z with launches := z.launches ++ [(z.fresh, l)] }.newId) 1).dropAns y.reader) 0) ∧
              (l.entry = BitVec.ofNat 64 (w.getD 1 0) ∧ l.args = y.args.getD (BitVec.ofNat 64 (w.getD 2 0)) ∧ l.groups = y.groups.getD (f 3 0 32) ∧ l.size = f 3 32 7 ∧ l.spGroup = f 4 0 32 ∧ l.opGroup = f 4 32 6 ∧
                l.rcb = rcb ∧ l.tmpl = (if rcb = none then some pa else none) ∧ l.next = 0 ∧ l.done = 0 ∧ l.seen = 0 ∧ l.state = 1))))))) ∧
  (∀ (s : State) (r l : Nat) (x : Launch) (rest : List (Nat × Nat × Launch)) (d cl row base : Nat) (ops : List Nat), let p := s.cur.ev.p
    let a := s.age p
    a.tryOrder p = (r, l, x) :: rest → x.cohort = false → 1 ≤ x.size → x.size ≤ 64 → aget? s.launches l = some x → x.p = p → a.capsOk p x.ctx (some l) x.cost 1 false = true →
    let cand := (s.placeSet x).filter fun k => !(a.keptFrom l p k.1 k.2) && (s.roomFor x k.1 k.2).isSome
    let free (k : Nat × Nat) : Nat := (s.freeRows k.1 k.2 x.ctx).length
    let far (k : Nat × Nat) : Nat := (k.1 + 7 - (s.part p).prevDie) % 8
    (s.part p).prevDie < 8 → (d, cl) ∈ cand →
    (∀ k ∈ cand, k = (d, cl) ∨ free k < free (d, cl) ∨ (free k = free (d, cl) ∧ (far (d, cl) < far k ∨ (k.1 = d ∧ cl < k.2)))) →
    s.roomFor x d cl = some (row, base, ops) →
    let slot (i : Nat) : SlotId := ⟨d, cl, x.ctx, i % 4, row + i / 4⟩
    ∃ t g, exec .groupPlace s = .next t ∧ t.groups = s.groups ++ [(s.fresh, g)] ∧ g.launch = l ∧ g.gi = x.next ∧ g.die = d ∧ g.clu = cl ∧ g.ctx = x.ctx ∧ g.row = row ∧ g.n = x.size ∧
      g.spBase = base ∧ g.spSize = x.spGroup ∧ g.opPhys = ops ∧ g.claimed = [] ∧ g.live = List.range x.size ∧ g.ended = false ∧
      ops.length = x.opGroup ∧ ops.Nodup ∧ (∀ k ∈ ops, k < 16 - (s.ctx p x.ctx).tilth.toNat / 2 ^ 32 % 2 ^ 6) ∧
      (x.spGroup ≠ 0 → base + x.spGroup ≤ 0x40000 - (s.ctx p x.ctx).tilth.toNat % 2 ^ 32) ∧ row + (x.size + 3) / 4 ≤ (if x.rowh then 15 else 16) ∧
      (∀ h ∈ s.groupsOn d cl x.ctx, (∀ k ∈ ops, k ∉ h.opPhys) ∧ (h.n ≠ 0 → row + (x.size + 3) / 4 ≤ h.row ∨ h.row + (h.n + 3) / 4 ≤ row) ∧
        (x.spGroup ≠ 0 → h.spSize ≠ 0 → base + x.spGroup ≤ h.spBase ∨ h.spBase + h.spSize ≤ base)) ∧
      (∀ i, i < x.size → (t.thr (slot i)).live = true ∧ (t.thr (slot i)).pc = x.entry ∧ (t.thr (slot i)).reg 0#5 = x.args ∧ (t.thr (slot i)).reg 1#5 = BitVec.ofNat 64 i ∧
        (t.thr (slot i)).reg 2#5 = BitVec.ofNat 64 x.next ∧ (t.thr (slot i)).grp = s.fresh ∧ (t.thr (slot i)).sup = false ∧ (t.thr (slot i)).det = x.det) ∧
      (∀ tj, (∀ i, i < x.size → tj ≠ slot i) → t.thr tj = s.thr tj) ∧ (t.part p).prevDie = d ∧ (t.die d).granary = [] ∧ (t.cluster d cl).icache = [] ∧
      aget? t.launches l = some { x with next := x.next + 1, state := 2, accAt := s.clk }) ∧
  (∀ s : State, let p := s.cur.ev.p
    let due (l : Launch) : Nat := l.accAt + max (8 - l.prio) 2 * 33000000
    let q := s.launches.filter fun l => l.2.p == p && s.unplaced l.2 && decide (due l.2 ≤ s.clk)
    ((∃ b y, (s.part p).blocking = some b ∧ y ∈ q ∧ y.1 = b) → exec .agingTick s = .next s) ∧
    ((∀ b y, (s.part p).blocking = some b → y ∈ q → y.1 ≠ b) →
      (q = [] → exec .agingTick s = .next (s.setPart p { s.part p with blocking := none })) ∧
      (q ≠ [] → ∃ y ∈ q, (∀ z ∈ q, due y.2 ≤ due z.2) ∧ exec .agingTick s = .next (s.setPart p { s.part p with blocking := some y.1 })))) ∧
  (∀ (s : State) (x : Launch), let l := s.cur.ev.n
    aget? s.launches l = some x →
    let fini : Prop := x.done = x.groups ∧ x.next = x.groups
    let ready (g : Nat) : Bool := (match s.grp g with | some y => y.contained | none => true) || !s.groupShort g
    let n := (x.endQ.filter ready).length
    (x.live = false → exec .launchComplete s = .next s) ∧
    (x.live = true → ¬ fini → n = 0 → exec .launchComplete s = .next (s.launchMerge l)) ∧
    (x.live = true → ¬ fini → n ≠ 0 →
      let t := s.modLaunch l fun y => { y with endQ := y.endQ.filter fun g => !(ready g), seen := y.seen + n }
      (x.rcb = none → exec .launchComplete s = .next t) ∧
      (∀ pa, x.rcb = some pa → exec .launchComplete s = .next (t.sysWord x.p x.ctx (pa + 0x38) (x.state % 16 + 0 % 16 * 16 + (x.seen + n) % 2 ^ 32 * 2 ^ 32)))) ∧
    (x.live = true → fini → s.launchShort l = true → exec .launchComplete s = .next (s.launchMerge l)) ∧
    (x.live = true → fini → s.launchShort l = false →
      let ended (u : State) : State := u.modLaunch l fun y => { y with state := 3, endQ := [], seen := y.done }
      (∀ pa ti uid, x.rcb = some pa → x.tmpl = none → x.origin = .thread ti uid →
        exec .launchComplete s = .next (((ended s).sysWord x.p x.ctx (pa + 0x38) (3 + x.done % 2 ^ 32 * 2 ^ 32)).dropBinds [l])) ∧
      (∀ pa k a i, x.rcb = some pa → x.tmpl = none → x.origin = .queue k a i →
        exec .launchComplete s = .next ((((ended s).sysWord x.p x.ctx (pa + 0x38) (3 + x.done % 2 ^ 32 * 2 ^ 32)).entDone k a i).dropBinds [l])) ∧
      (∀ pa k a i, x.rcb = none → x.tmpl = some pa → x.origin = .record k a i →
        let add := s.sysAdd (partReader 8 l) x.p x.ctx (pa + 0x3C) .w x.groups
        (∀ v, add = .ok v → exec .launchComplete s = .next (((ended v).entDone k a i).dropBinds [l])) ∧ (∀ v, add = .error v → exec .launchComplete s = .next v) ∧
        (∀ rc a, s.classify x.p (pa + 0x3C) = .host rc a → add = .ok (s.hostWriteB a (leBytes 4 ((s.hostRead a 4 + x.groups) % 2 ^ 32))))))) ∧
  (∀ (s : State) (g : Group), let k := s.cur.ev.q
    s.grp k = some g →
    let p := s.partOf g.die
    let w := (s.ctx p g.ctx).wdog
    (g.ended = true ∨ w = 0#64 ∨ g.wd < 2 ^ (w.toNat % 2 ^ 6) → exec .watchdogExpire s = .next s) ∧
    (g.ended = false → w ≠ 0#64 → 2 ^ (w.toNat % 2 ^ 6) ≤ g.wd → exec .watchdogExpire s = .next (s.contain p g.ctx k 0 ⟨g.die, g.clu, g.ctx, 0, g.row⟩ 0#64 0#64)))

/-- fault records reach the ring and fall due, containment and poison are finished, and a peer's requests and answers act as the stream rules
say (R37, R123, R124, R125, R126, R183, R267, R277, R327, R329, R364, R366). FAULT_RECORD_WRITE writes the oldest waiting record at FHEAD,
by the translation of its context (log 49), when the ring has room and the record can stand at device scope, advances FHEAD by 1 modulo
2^32, and lets the record fall due: an engine record to its thread, saved or not, any other to the fault agent; with no record, no room or a
write that has to wait nothing changes but the walks asked for; the error log takes its records in the same way. CONTAINMENT writes STATE 5
to the next region's RCB; POISON_CONSUMED logs it and contains the group with CAUSE 0 and the address in WHAT (SRAM: 0, log 46). A peer's
update is sent to its home with a zero stamp once no earlier one of its stream awaits admission at another home (log 60); a load answers the
home view once the stream's earlier entries are admitted; FILL, TAKE, PEEK and the channel requests act at the barn in the right state and
otherwise take a place on the wait list, with their binding made, which a withdrawal takes away (log 60); a word that is held or poisoned is
waited for (log 35); a message (R267) joins those on their way; SLCTL (R277) answers the unit's status; a key that is unpopulated is
answered with no word (log 60). An answer takes the request out of the stream: a waiting thread gets its words, the part keeps them for its
own reader, a message completes or ends with REMOTE; a queue's entry goes on or faults. -/
def Obligations.FaultsAndPeers : Prop :=
  (∀ s : State, let p := s.cur.ev.p
    let c := s.cur.ev.ctx
    let x := s.ctx p c
    let n := 2 ^ (x.fring.toNat % 2 ^ 5)
    let room : Prop := 5 ≤ x.fring.toNat % 2 ^ 5 ∧ x.fring.toNat % 2 ^ 5 ≤ 20 ∧ (x.fhead - x.ftail).toNat % 2 ^ 32 ≠ n
    let a := x.fring.toNat / 2 ^ 12 % 2 ^ 44 * 4096 + 128 * (x.fhead.toNat % n)
    let pt := s.part p
    (s.cur.ev.flag = true → pt.errQ = [] → exec .faultRecordWrite s = .next s) ∧
    (s.cur.ev.flag = true → ∀ ws rest, pt.errQ = ws :: rest →
      (pt.elog = 0#64 → exec .faultRecordWrite s = .next (s.setPart p { pt with errQ := rest })) ∧
      (pt.elog ≠ 0#64 →
        let w := s.sysStand p 0 (pt.elog.toNat / 2 ^ 12 % 2 ^ 44 * 4096 + 64 * (pt.ehead.toNat % 2 ^ (pt.elog.toNat % 2 ^ 5))) (wordsBytes ws)
        (w = none → exec .faultRecordWrite s = .next s) ∧
        (∀ u, w = some u → exec .faultRecordWrite s = .next (u.setPart p { u.part p with errQ := rest, ehead := BitVec.ofNat 64 (((u.part p).ehead.toNat + 1) % 2 ^ 32) })))) ∧
    (s.cur.ev.flag = false → x.recq = [] ∨ ¬ room → exec .faultRecordWrite s = .next s) ∧
    (s.cur.ev.flag = false → room → ∀ r rest u, x.recq = r :: rest → s.partWrite p c a r.words = .error u → exec .faultRecordWrite s = .next (s.keepWalks u)) ∧
    (s.cur.ev.flag = false → room → ∀ r rest u, x.recq = r :: rest → s.partWrite p c a r.words = .ok u →
      let y : Ctx := { u.ctx p c with recq := rest, fhead := BitVec.ofNat 64 (((u.ctx p c).fhead.toNat + 1) % 2 ^ 32), dueAgent := if r.kind = 2 then (u.ctx p c).dueAgent else (u.ctx p c).dueAgent ++ [a] }
      (r.ti = none → exec .faultRecordWrite s = .next (u.setCtx p c y)) ∧
      (r.ti ≠ none →
        let due (z : SlotId × Thread) : SlotId × Thread := (z.1, if z.2.uid = r.uid ∧ z.2.live = true then { z.2 with due := z.2.due ++ [(14, a)] } else z.2)
        exec .faultRecordWrite s = .next { u.setCtx p c y with slots := u.slots.map due, savedCtx := u.savedCtx.map fun z => { z with slots := z.slots.map due } }))) ∧
  (∀ s : State, let p := s.cur.ev.p
    ((s.part p).contQ = [] → exec .containment s = .next s) ∧
    (∀ a l rest x, (s.part p).contQ = (a, l) :: rest → aget? s.launches l = some x →
      exec .containment s = .next ((s.setPart p { s.part p with contQ := rest }).sysWord p x.ctx a (5 + x.done % 2 ^ 32 * 2 ^ 32))) ∧
    ((s.part p).poisonQ = [] → exec .poisonConsumed s = .next s) ∧
    (∀ g c pa rest x, (s.part p).poisonQ = (g, c, pa) :: rest → s.grp g = some x →
      let u := s.setPart p { s.part p with poisonQ := rest }
      let gone (v : State) : Out := .next (v.contain p c g 0 ⟨x.die, x.clu, c, 0, x.row⟩ 0#64 (BitVec.ofNat 64 (pa % 2 ^ 56 + 2 ^ 63)))
      (∀ lin, linOf pa = some lin → exec .poisonConsumed s = gone (u.errLog p 3 2 (lin / 2 ^ 37) 127 (lin / 2 ^ 31) pa false)) ∧
      (linOf pa = none → exec .poisonConsumed s = gone (u.errLog p 3 1 x.die x.clu 0 0 false)))) ∧
  (∀ (s : State) (key : Nat), let e := s.cur.ev
    let ctx := (s.part e.p).rxctx.toNat % 2
    let there : Prop := (∃ lin, s.classify e.p key = .dram lin) ∧ key < 0xA000000000
    let w := wordOf key
    let owner : Owner := ⟨(e.u + 1) * 2 ^ 64 + e.n, 0⟩
    let answer (t : State) (ws : List W64) : Out := .next { t with toPeer := t.toPeer ++ [(e.u, BitVec.ofNat 64 e.n :: ws)] }
    let pending : Prop := ∃ d, d < 8 ∧ ∃ x ∈ (s.die d).sent, ∃ o ∈ x.e.owners, o.launch / 2 ^ 64 = e.u + 1
    let apart : Bool := (List.range 8).any fun d => (s.die d).sent.any fun x => x.home != homeOf w && x.e.owners.any fun o => o.launch / 2 ^ 64 == e.u + 1
    let waits (t : State) : Out := let x := t.die (homeDie key)
      .next (if x.waiters.length + x.peerWait.length < 4096 then
        (t.setDie (homeDie key) { x with peerWait := x.peerWait ++ [⟨e.p, e.u, e.n, ctx, e.req, false, t.fresh⟩] }).newId else t)
    let left : Prop := (∃ x ∈ (s.run (.rick (chanOf key / 64))).ents, wordLin x.word / 2 ^ 31 = chanOf key ∧ ∃ o ∈ x.owners, o.launch / 2 ^ 64 = e.u + 1) ∨
      ∃ d, d < 8 ∧ ∃ x ∈ (s.die d).sent, wordLin x.e.word / 2 ^ 31 = chanOf key ∧ ∃ o ∈ x.e.owners, o.launch / 2 ^ 64 = e.u + 1
    let quiet : Prop := (∀ d, d < 8 → ∀ x ∈ (s.die d).sent, x.e.word = w → ∀ o ∈ x.e.owners, o.launch / 2 ^ 64 ≠ e.u + 1) ∧
      (∀ x ∈ (s.run (.rick (homeOf w))).ents, x.word = w → x.held = false ∧ ∀ o ∈ x.owners, o.launch / 2 ^ 64 ≠ e.u + 1)
    (¬ there → ∀ wd v, e.req = .load key wd ∨ e.req = .fill key v ∨ e.req = .take key ∨ e.req = .peek key → exec .peerStreamArrive s = answer s []) ∧
    (there →
      (∀ op wd bf v, e.req = .update key op wd bf v → exec .peerStreamArrive s =
        .next (if apart then s else s.sendZero (homeOf w) (mkEntry key op wd bf ctx 0 v [owner] s.clk))) ∧
      (∀ be v, e.req = .replace key be v → exec .peerStreamArrive s =
        .next (if apart then s else s.sendZero (homeOf w) { mkEntry (key / 8 * 8) .replace .b false ctx 0 0#64 [owner] s.clk with be := be, val := v })) ∧
      (∀ wd, e.req = .load key wd → pending → exec .peerStreamArrive s = .next s) ∧
      (∀ wd v u, e.req = .load key wd → ¬ pending → s.hvRead key wd.bytes = .ok v u → exec .peerStreamArrive s = answer u [BitVec.ofNat 64 v]) ∧
      (quiet →
        let lin := wordLin w
        (∀ v, e.req = .fill key v → (s.isFull lin = true → exec .peerStreamArrive s = waits s) ∧
          (s.isFull lin = false → exec .peerStreamArrive s = answer (((s.barnFill lin v).wakeWord lin).dropLine (homeDie key) w) [0#64])) ∧
        (e.req = .take key → (s.isFull lin = false ∨ s.isPoison lin = true → exec .peerStreamArrive s = waits s) ∧
          (s.isFull lin = true → s.isPoison lin = false → exec .peerStreamArrive s =
            answer (((s.setFull lin false).wakeWord lin).dropLine (homeDie key) w) [BitVec.ofNat 64 (leNat (s.mem.readN lin 8))])) ∧
        (e.req = .peek key → s.isFull lin = false ∨ s.isPoison lin = true → exec .peerStreamArrive s = waits s) ∧
        (e.req = .peek key → s.isFull lin = true → s.isPoison lin = false → exec .peerStreamArrive s = answer ((s.class0 lin).dropLine (homeDie key) w) [BitVec.ofNat 64 (leNat (s.mem.readN lin 8))]) ∧
        (∀ pop ring v l g i, e.req = .chan pop key ring v l g i →
          (s.bindGlobal ring ctx pop (l + (e.u + 1) * 2 ^ 64, g, i) = none → exec .peerStreamArrive s = answer (s.dropLine (homeDie key) w) []) ∧
          (∀ t, s.bindGlobal ring ctx pop (l + (e.u + 1) * 2 ^ 64, g, i) = some t →
            (pop = false → t.isFull lin = true → exec .peerStreamArrive s = waits t) ∧
            (pop = false → t.isFull lin = false → exec .peerStreamArrive s = answer (((t.barnFill lin v).wakeWord lin).dropLine (homeDie key) w) [0#64]) ∧
            (pop = true → t.isFull lin = false ∨ t.isPoison lin = true → exec .peerStreamArrive s = waits t)))) ∧
      (∀ chan src pay, e.req = .message key chan src pay → left → exec .peerStreamArrive s = .next (s.wantMerge (.rick (chanOf key / 64)))) ∧
      (∀ chan src pay, e.req = .message key chan src pay → ¬ left → ∃ t m, exec .peerStreamArrive s = .next t ∧ t = { s with msgs := s.msgs ++ [m] } ∧ m.q = chanOf key ∧ m.chan = chan ∧ m.src = src ∧ m.pay = pay ∧ m.ctx = ctx) ∧
      (∀ lin, linOf key = some lin → e.req = .slctl key false → ¬ left → exec .peerStreamArrive s = answer s [(s.sluice (chanOf key) (lin / 2048 % 4)).status])) ∧
    (∀ i, e.req = .cancel i → ∀ d, aget? s.dies d ≠ none → ∃ t, exec .peerStreamArrive s = .next t ∧ (t.die d).peerWait = (s.die d).peerWait.filter (fun w => !(w.dev == e.u && w.id == i)) ∧ t.mem = s.mem)) ∧
  (∀ (s : State) (r : PReq), let e := s.cur.ev
    s.peerq.find? (fun r => r.id == e.q) = some r →
    let away : State := { s with peerq := s.peerq.filter fun x => x.id != r.id }
    (r.ofPart = true → exec .peerAnswer s = .next (if e.flag then { away with peerAns := s.peerAns ++ [(r.owner, r.req, e.ws)] } else s)) ∧
    (∀ key op wd bf v, r.ofPart = false → r.ti = none → r.ready = true → r.req = .update key op wd bf v → exec .peerAnswer s = .next (if e.flag then away else s)) ∧
    (∀ ti key chan src pay, r.ti = some ti → r.req = .message key chan src pay → (s.thr ti).uid = r.owner.uid →
      let done := away.modThr ti fun t => { t with copies := t.copies - 1, doneOps := t.doneOps ++ [Scope.dev] }
      (e.flag = true → exec .peerAnswer s = .next done) ∧
      (e.flag = false → exec .peerAnswer s = .next (done.engineFaultTo ti r.owner.uid 8 (if chan = 14 then 9 else 10) r.first 0#64 0#64 0#64))) ∧
    (∀ key chan src pay, r.ofPart = false → r.ti = none → r.req = .message key chan src pay →
      let p := r.owner.launch / 64 % 8
      let q := r.owner.launch % 64
      let i := r.owner.launch / 512 * 2 ^ 64 + (r.owner.uid - 2 ^ 64)
      exec .peerAnswer s = .next (if e.flag then away.entDone p q i else away.queueFault p q 6 i 0 0)) ∧
    (∀ key wd, r.ofPart = false → r.ti = none → r.req = .load key wd → exec .peerAnswer s = .next (if e.flag then away.peerLoaded r (e.ws.headD 0#64) else s)) ∧
    (∀ ti key, r.ti = some ti → (∃ wd, r.req = .load key wd) ∨ (∃ v, r.req = .fill key v) ∨ r.req = .take key ∨ r.req = .peek key → (s.thr ti).uid = r.owner.uid → (s.thr ti).live = true →
      (∃ how, (s.thr ti).wait = .peer r.id how) → e.flag = true →
      exec .peerAnswer s = .next (away.modThr ti fun t => { t with wait := .no, ph := { t.ph with ans := some e.ws } })))

/-- a sparing command that runs takes its effect and ends BUSY; a port loses lanes, counts retries and retrains; an error is logged and poisons
its datum (R361, R362, R363, R364, R365, R366, R375). With a command of SYS.SPARECMD running: SPARE_CLUSTER, both contexts at a boundary,
exchanges the physical clusters of the two numbers and leaves the spare reserved, or, when it fails, keeps all and reports FAILED, as every
kind does; RESERVE and RELEASE set and clear the reservation; RETIRE retires the pseudo-channel: its Reed core has no task, queue or ids
left, and a queued FERRY is answered REFUSED; SPARE_APPLICATION_CORE records the core. Each ends BUSY with its outcome and logs a success
(SITE, CLUSTER and UNIT of that record, no record of a failure, and the dropped ids and FERRY calls are log 58). Without a command of its
kind nothing changes. A lane failure lowers LANES by 1, with UP only from two lanes on; a CRC retry adds its tries, and 8 take the link
down, a port or a link of the die-to-die ring (log 58); a retraining sets the lanes and the mode; REACH is what the planes of the
partition's up ports reach. A corrected error is only logged; an uncorrected one poisons the HBM word, the run entries of the word or the
SRAM datum, stops the Sluice program, or is consumed at once by the thread that the event names; one that nothing checks changes a value
with no report (which datum carries a mark, who consumes it and the unreported change are log 46). -/
def Obligations.SparingPortsErrors : Prop :=
  (∀ (s : State) (k d u sp : Nat), let p := s.cur.ev.p
    (s.part p).spareCmd = some (k + d * 2 ^ 3 + u * 2 ^ 6 + sp * 2 ^ 15) → k < 8 → d < 8 → u < 2 ^ 9 → sp < 2 ^ 9 →
    let fini (t : State) (failed : Bool) : State :=
      let w := t.setPart p { t.part p with spareCmd := none, spareFailed := failed }
      let x : Nat × Nat × Nat := if k = 4 then (2, 127, d * 64 + u) else if k = 5 then (7, 127, u) else (1, u, 0)
      if failed then w else w.errLog p 5 x.1 d x.2.1 x.2.2 0 true
    let acts : Prop := s.cur.ev.flag = false
    (s.cur.ev.flag = true → ∀ y ∈ [(1, Instr.spareCluster), (2, .reserveCluster), (3, .releaseCluster), (4, .retirePseudoChannel), (5, .spareApplicationCore)],
      k = y.1 → exec y.2 s = .next (fini s true)) ∧
    (k = 1 → s.cur.ev.flag = false → s.atBoundary d u 0 = false ∨ s.atBoundary d u 1 = false → exec .spareCluster s = .next s) ∧
    (k = 1 → s.cur.ev.flag = false → u ≠ sp → s.cur.ev.n ≠ 1 → s.atBoundary d u 0 = true → s.atBoundary d u 1 = true → (∀ y ∈ s.clusters, ∀ x ∈ y.2.gleaner, ¬ (x.ti.die = d ∧ x.ti.clu = u)) →
      ∃ t, exec .spareCluster s = .next t ∧ (t.cluster d u).phys = (s.cluster d sp).phys ∧ (t.cluster d sp).phys = (s.cluster d u).phys ∧ (t.cluster d sp).reserved = true ∧
        (t.cluster d u).rot = (s.cluster d u).rot ∧ (t.part p).spareCmd = none ∧ (t.part p).spareFailed = false ∧
        (∀ c, c < 2 → (t.half d u c).ids = [] ∧ (t.half d u c).sp = (s.half d u c).sp ∧ (t.half d u c).opm = (s.half d u c).opm) ∧
        ∀ ti pl, (t.thr ti).atPlace pl = (s.thr ti).atPlace pl ∧ (t.thr ti).pc = (s.thr ti).pc) ∧
    (let ti := s.cur.ev.ti
     k = 1 → s.cur.ev.flag = false → s.cur.ev.n = 1 → s.atBoundary d u 0 = true → s.atBoundary d u 1 = true → ti.die = d → ti.clu = u → (s.thr ti).live = true → (s.thr ti).kind ≠ .ferryH →
      ∃ t, exec .spareCluster s = .next t ∧ (t.thr ti).halted = true ∧ ((s.thr ti).grp, ti.ctx, 2 ^ 56) ∈ (t.part (s.partOf d)).poisonQ) ∧
    (k = 2 → acts → exec .reserveCluster s = .next (fini (s.setCluster d u { s.cluster d u with reserved := true }) false)) ∧
    (k = 3 → acts → exec .releaseCluster s = .next (fini (s.setCluster d u { s.cluster d u with reserved := false }) false)) ∧
    (k = 4 → acts → (s.reed (d * 64 + u)).task = none → (∀ g, g < 4 → (s.sluice (d * 64 + u) g).busy = false) →
      let q := d * 64 + u
      let t := s.setReed q { s.reed q with retired := true, task := none, queue := [], ids := [], wait := Phase.zero }
      ((s.reed q).queue = [] → exec .retirePseudoChannel s = .next (fini t false)) ∧
      (∀ m, (s.reed q).queue = [m] → m.kind = 0 → exec .retirePseudoChannel s = .next (fini (t.sendReply m.src m.ctx m.id 3 (List.replicate 8 0#64)) false))) ∧
    (k = 5 → acts → exec .spareApplicationCore s = .next (fini { s with appSpared := ninsert u s.appSpared } false)) ∧
    (∀ y ∈ [(1, Instr.spareCluster), (2, .reserveCluster), (3, .releaseCluster), (4, .retirePseudoChannel), (5, .spareApplicationCore)], k ≠ y.1 → exec y.2 s = .next s)) ∧
  (∀ s : State, let p := s.cur.ev.p
    (s.part p).spareCmd = none → ∀ i ∈ [Instr.spareCluster, .reserveCluster, .releaseCluster, .retirePseudoChannel, .spareApplicationCore], exec i s = .next s) ∧
  (∀ s : State, let e := s.cur.ev
    let i := e.q
    i < 24 → s.cwport.length = 24 → s.planes.length = 24 →
    let v := (s.cwport.getD i 0#64).toNat
    let lanes := v / 2 % 8
    let retries := v / 2 ^ 16 % 2 ^ 16
    let word (n mode r : Nat) : W64 := BitVec.ofNat 64 ((if 2 ≤ n then 1 else 0) + min n 4 * 2 + mode * 16 + v / 2 ^ 5 % 2 * 32 + min r 65535 * 2 ^ 16)
    let wide (t : State) : Prop := ∀ q, (aget? s.parts q).isSome = true → ∀ k, k < 3 → ∀ b, b < 64 → (((t.part q).reach.getD k 0#64).getLsbD b = true ↔
      ∃ j, j < 24 ∧ (t.part q).ports.getLsbD j = true ∧ (t.cwport.getD j 0#64).getLsbD 0 = true ∧ ((t.planes.getD j []).getD k 0#64).getLsbD b = true)
    (e.flag = true → exec .laneFailure s = .next (s.errLog e.p 4 4 e.die 127 i 0 true) ∧
      exec .crcRetry s = .next (if 8 ≤ e.n ∧ e.die < 8 ∧ e.die ∉ s.linkDown then { s with linkDown := s.linkDown ++ [e.die] } else s)) ∧
    (e.flag = false → ∃ t, exec .laneFailure s = .next t ∧ t.cwport.getD i 0#64 = word (lanes - 1) (v / 2 ^ 4 % 2) retries ∧ (∀ j, j ≠ i → t.cwport.getD j 0#64 = s.cwport.getD j 0#64) ∧ t.planes = s.planes ∧ wide t) ∧
    (e.flag = false → ∃ t, exec .crcRetry s = .next t ∧ t.cwport.getD i 0#64 = word (if 8 ≤ e.n then 0 else lanes) (v / 2 ^ 4 % 2) (retries + e.n) ∧ wide t ∧ (∀ j, j ≠ i → t.cwport.getD j 0#64 = s.cwport.getD j 0#64) ∧
      t.mem = s.mem ∧ t.slots = s.slots) ∧
    (∃ t, exec .portRetrain s = .next t ∧ t.cwport.getD i 0#64 = word e.n (if v.testBit 5 = true ∨ e.flag = true then 1 else 0) retries ∧ (∀ j, j ≠ i → t.cwport.getD j 0#64 = s.cwport.getD j 0#64) ∧
      t.mem = s.mem ∧ t.slots = s.slots ∧ t.planes.getD i [] = (if e.ws = [] then s.planes.getD i [] else e.ws) ∧ wide t)) ∧
  (∀ s : State, let e := s.cur.ev
    (e.flag = true → e.q ≠ 0 → e.q ≠ 2 → exec .eccError s = .next (s.errLog e.p 1 e.q e.die e.clu 0 e.u true)) ∧
    (e.flag = true → e.q = 2 → exec .eccError s = .next (s.errLog e.p 1 2 (chanOf e.u / 64) 127 (chanOf e.u) e.u true)) ∧
    (e.q = 0 → e.n ≠ 0 → exec .eccError s = .next (s.setReed (e.die * 64 + e.clu) { s.reed (e.die * 64 + e.clu) with e := vset (s.reed (e.die * 64 + e.clu)).e e.u e.v })) ∧
    (e.q = 0 → e.n = 0 → ∃ t, exec .eccError s = .next t ∧ t.slots = s.slots ∧ t.parts = s.parts ∧ t.mem = s.mem ∧
      ((aget? (s.half e.die e.clu e.ctx).arr.acc e.u).isSome = true → aget? (t.half e.die e.clu e.ctx).arr.acc e.u = some (e.ws.map (·.toNat)))) ∧
    (e.flag = false → e.q = 1 → ∃ t, exec .eccError s = .next t ∧
      let h := s.half e.die e.clu e.ctx
      let k := t.half e.die e.clu e.ctx
      (e.n = 0 → k = { h with spPois := ninsert (e.u / 8) h.spPois }) ∧ (e.n = 2 → k = { h with opPois := ninsert (e.u / 8) h.opPois }) ∧
      (e.n = 4 → (t.die e.die).loftBad = ninsert e.u (s.die e.die).loftBad) ∧
      (e.n = 5 → k.arr.bad = unionL h.arr.bad [(e.core % 3, e.u)]) ∧ (e.n = 6 → (t.thr e.ti).rpois = ninsert e.u (s.thr e.ti).rpois)) ∧
    (e.flag = false → e.q = 6 → (s.sluice (e.die * 64 + e.clu) e.core).busy = true → ∃ t, exec .eccError s = .next t ∧
      (t.sluice (e.die * 64 + e.clu) e.core).busy = false ∧ (t.sluice (e.die * 64 + e.clu) e.core).endc = 3 ∧ t.mem = s.mem ∧ t.runs = s.runs ∧ t.slots = s.slots) ∧
    (e.flag = false → e.q = 5 → e.n = 1 → ∀ lin, s.classify e.p e.u = .dram lin → ∃ t, exec .eccError s = .next t ∧ t.isPoison lin = true ∧ t.runs = s.runs) ∧
    (e.flag = false → e.q = 2 → ∀ lin, s.classify e.p e.u = .dram lin → ∃ t, exec .eccError s = .next t ∧ t.isPoison lin = true ∧ t.slots = s.slots ∧ t.runs = s.runs) ∧
    (e.flag = false → (e.q = 5 ∧ e.n ≠ 1) ∨ (e.q = 1 ∧ e.n = 1) → ∃ t, exec .eccError s = .next t ∧
      (t.run e.run).ents = (s.run e.run).ents.map (fun y => if y.word == wordOf e.u then { y with poison := true } else y) ∧ t.slots = s.slots) ∧
    (e.flag = false → e.q = 1 → 7 ≤ e.n → (s.thr e.ti).kind ≠ .ferryH → ∃ t, exec .eccError s = .next t ∧ (t.thr e.ti).halted = true ∧
      ((s.thr e.ti).grp, e.ti.ctx, 2 ^ 56) ∈ (t.part (s.pOf e.ti)).poisonQ ∧ ∀ tj, tj ≠ e.ti → t.thr tj = s.thr tj))

/-- the endpoint's accesses, boot stages, resets, power loss, the governor and the thermal trip act as their rules say (R370, R373, R378, R379,
R380, R381, R382). Until bring-up ends BAR2 answers nothing, and in recovery only BAR0 does. BAR2 writes bring REPLACE of each populated
byte to its home run; a read answers the home view, or Unsupported Request where a byte is unpopulated or poisoned (log 25). A BAR0 read of
the registers gives a free value (log 25). FEADDR latches an 8-aligned interleaved key, and ignores any other value (log 25); FEDATA fills
the latched word once it is empty. ATTREQ queues a request for an aligned key with its partition, that of die 0 (log 25); the request goes
on by committing the next leaf, which NVM keeps (log 24), signing the report with it (logs 15, 45), and filling the status, where that
partition has memory, once the report stands. A bridge performs its oldest update with the operator's own result, in one access or by a read
and then a write (log 26). RESET returns everything to its reset value but NVM and host memory, and runs the first image that verifies,
measuring it; stage 1 clears every word, full bit and run and measures the maps, stage 2 and the command-processor firmware, if both verify;
stage 2 opens the part, and firmware may extend MEAS3 to MEAS7 (the numbers of the images and what stage 2 does are log 15). Power loss
keeps the NVM leaf. The governor throttles when the power exceeds the budget, the cap, halved above 110 degrees; at 120 degrees the compute
dies stop (what a trip clears is log 61). -/
def Obligations.HostBootPower : Prop :=
  (∀ s : State, let e := s.cur.ev
    let hp := s.partOf 0
    let pop (o : Nat) : Prop := o < 0xA000000000 ∧ ∃ lin, s.classify hp o = .dram lin
    let up : Prop := s.boot = .up
    let bar0 : Prop := s.boot = .up ∨ s.boot = .recovery ∨ s.boot = .tripped
    let reads (t : State) (v : Option W64) : State := { t with hostReads := t.hostReads ++ [(e.u, v)] }
    (¬ up → exec .bar2Write s = .next s ∧ (e.flag = false → exec .bar2Read s = .next (reads s none)) ∧ (e.flag = true → exec .attreq s = .next s)) ∧
    (¬ bar0 → exec .feaddr s = .next s ∧ (e.flag = false → exec .attreq s = .next s) ∧ (e.flag = true → exec .bar2Read s = .next (reads s none))) ∧
    (bar0 → e.flag = true → 0x18 ≤ e.u → e.u < 0x1000 → exec .bar2Read s = .next (reads s (some 0#64))) ∧
    (bar0 → e.flag = true → e.u < 0x18 → exec .bar2Read s = .next { reads s (some (Config.freeWord s.frees)) with frees := s.frees + 1 }) ∧
    (¬ pop e.u → e.n = 1 → exec .bar2Write s = .next s) ∧
    (up → pop e.u → e.n = 1 → ∀ t, State.put levels s (.rick (homeDie e.u)) (mkEntry e.u .replace .b false 0 0 (BitVec.ofNat 64 (e.v.toNat % 256)) [] s.clk) true = .ok t → exec .bar2Write s = .next t) ∧
    (e.flag = false → e.n ≤ 8 → (∃ i, i < e.n ∧ ¬ pop (e.u + i)) → exec .bar2Read s = .next { s with hostReads := s.hostReads ++ [(e.u, none)] }) ∧
    (up → e.flag = false → e.n ≤ 8 → (∀ i, i < e.n → pop (e.u + i)) →
      (∀ v u, s.hvRead e.u e.n = .ok v u → exec .bar2Read s = .next { u with hostReads := u.hostReads ++ [(e.u, some (BitVec.ofNat 64 v))] }) ∧
      (s.hvRead e.u e.n = .poison → exec .bar2Read s = .next { s with hostReads := s.hostReads ++ [(e.u, none)] })) ∧
    (bar0 → s.feq = [] → e.v.toNat % 8 = 0 → e.v.toNat < 0xA000000000 → exec .feaddr s = .next { s with feaddrReg := e.v }) ∧
    (s.feq ≠ [] ∨ e.v.toNat % 8 ≠ 0 ∨ 0xA000000000 ≤ e.v.toNat → exec .feaddr s = .next s) ∧
    (up → s.feq = [] → e.flag = false → s.feaddrReg.toNat % 8 = 0 → ∀ lin, s.feaddrReg.toNat < 0xA000000000 → s.classify hp s.feaddrReg.toNat = .dram lin →
      let w := wordOf s.feaddrReg.toNat
      let k := wordLin w
      (∀ y ∈ (s.run (.rick (homeOf w))).ents, y.word ≠ w) →
        (s.isFull k = false → exec .fedata s = .next ((({ s with feq := [(s.feaddrReg.toNat, e.v)] }.barnFill k e.v).wakeWord k).dropLine (homeOf w) w |> fun t => { t with feq := [] })) ∧
        (s.isFull k = true → exec .fedata s = .next { s with feq := [(s.feaddrReg.toNat, e.v)] })) ∧
    (bar0 → e.flag = false → s.feq = [] → e.v.toNat % 64 = 0 → e.v.toNat < 0xA000000000 → exec .attreq s = .next { s with attq := s.attq ++ [(hp, e.v.toNat, 2)] }) ∧
    (e.flag = false → s.feq ≠ [] ∨ e.v.toNat % 64 ≠ 0 ∨ 0xA000000000 ≤ e.v.toNat → exec .attreq s = .next s) ∧
    (up → e.flag = true → (s.attq = [] → exec .attreq s = .next s) ∧
      (∀ p a rest, s.attq = (p, a, 2) :: rest →
        (s.nvmNext ≠ 2 ^ 20 → exec .attreq s = .next { s with nvmNext := s.nvmNext + 1, attq := (p, a, 3 + s.nvmNext) :: rest }) ∧
        (s.nvmNext = 2 ^ 20 → exec .attreq s = .next { s with attq := (p, a, 1) :: rest })) ∧
      (∀ p a n rest v u, s.attq = (p, a, 3 + n) :: rest → s.hvRead a 32 = .ok v u →
        let m := leBytes 32 v ++ u.meas.flatten ++ leBytes 8 (u.part p).devid.toNat ++ leBytes 4 n ++ leBytes 4 0
        exec .attreq s = .next { u.sysWrite p 0 a (m ++ Hss.hssSign n m) with attq := (p, a, 0) :: rest }) ∧
      (∀ p a st rest, s.attq = (p, a, st) :: rest → st ≤ 1 →
        (s.reportOut a = true → exec .attreq s = .next s) ∧
        (s.reportOut a = false → (∀ lin, s.classify p (a + 0x1508) ≠ .dram lin) → exec .attreq s = .next { s with attq := rest }) ∧
        (s.reportOut a = false → ∀ lin, s.classify p (a + 0x1508) = .dram lin →
          (s.partFill (a + 0x1508) (BitVec.ofNat 64 st) = none → exec .attreq s = .next s) ∧
          ∀ u, s.partFill (a + 0x1508) (BitVec.ofNat 64 st) = some u → exec .attreq s = .next { u with attq := rest })))) ∧
  (∀ (s : State) (u : HUpd) (rest : List HUpd), aget? s.hostq s.cur.ev.q = some (u :: rest) →
    let rc := s.cur.ev.q
    (u.ready = false → exec .hostUpdate s = .next s) ∧
    (u.ready = true → u.op = .replace → u.width = .b → exec .hostUpdate s = .next { s with hostq := aset s.hostq s.cur.ev.q rest, host := swriteN s.host u.addr [BitVec.ofNat 8 u.val.toNat] }) ∧
    (u.ready = true → u.op = .iadd → u.width = .d → u.addr % 8 = 0 → Config.hostAtomics rc = false →
      (u.got = none → exec .hostUpdate s = .next { s with hostq := aset s.hostq rc ({ u with got := some (s.hostRead u.addr 8) } :: rest) }) ∧
      (∀ v, u.got = some v → v < 2 ^ 64 → exec .hostUpdate s = .next { s with hostq := aset s.hostq rc rest, host := swriteN s.host u.addr (leBytes 8 ((v + u.val.toNat) % 2 ^ 64)) })) ∧
    (u.ready = true → u.op = .iadd → u.width = .d → u.addr % 8 = 0 → Config.hostAtomics rc = true →
      exec .hostUpdate s = .next { s with hostq := aset s.hostq s.cur.ev.q rest, host := swriteN s.host u.addr (leBytes 8 ((s.hostRead u.addr 8 + u.val.toNat) % 2 ^ 64)) })) ∧
  (∀ s : State, (s.hostq.all fun q => q.1 != s.cur.ev.q || q.2.isEmpty) = true → exec .hostUpdate s = .next s) ∧
  (∀ s : State,
    let kept : State := { State.reset with cur := s.cur, agenda := s.agenda, turns := s.turns, frees := s.frees, fresh := s.fresh, host := s.host, nvmNext := s.nvmNext }
    let ext (t : State) (i : Nat) (m : List Byte) : State := { t with meas := lset t.meas i (Sha.sha256 (t.meas.getD i [] ++ Sha.sha256 m)) }
    exec .powerLoss s = .next kept ∧
    (imageOk 0 = true → exec .reset s = .next { ext kept 0 (Config.flashImage 0) with boot := .stage1 }) ∧
    (imageOk 0 = false → imageOk 1 = true → exec .reset s = .next { ext kept 0 (Config.flashImage 1) with boot := .stage1 }) ∧
    (imageOk 0 = false → imageOk 1 = false → exec .reset s = .next { kept with boot := .recovery }) ∧
    (s.boot ≠ .stage1 → exec .bootStage1 s = .next s) ∧
    (s.boot = .stage1 →
      let clear : State := { s with mem := [], full := [], cells := [], poison := [], runs := [], ins := [], dies := [], halves := [], clusters := [], slots := [], reeds := [], sluices := [], linkDown := [] }
      (imageOk 2 = true → imageOk 3 = true → exec .bootStage1 s = .next { ext (ext (ext clear 1 Config.fuseMaps) 2 (Config.flashImage 2)) 2 (Config.flashImage 3) with boot := .stage2 }) ∧
      (imageOk 2 = false ∨ imageOk 3 = false → exec .bootStage1 s = .next { ext clear 1 Config.fuseMaps with boot := .recovery })) ∧
    (s.cur.ev.flag = false → s.boot ≠ .stage2 → exec .bootStage2 s = .next s) ∧
    (s.cur.ev.flag = false → s.boot = .stage2 → s.cur.ev.ws = [] → s.cur.ev.wr = [] → exec .bootStage2 s = .next { s with boot := .up }.bootPorts) ∧
    (s.cur.ev.flag = true → s.boot = .up → 3 ≤ s.cur.ev.q → s.cur.ev.q ≤ 7 → exec .bootStage2 s = .next (ext s s.cur.ev.q (Config.flashImage s.cur.ev.n))) ∧
    (∀ i, imageOk i = true → Sha.sha256 (Config.flashKey i) = Config.fuseKey ∧ (Config.flashKey i).length = 56 ∧ (Config.flashSig i).length = 5076) ∧
    (s.cur.ev.flag = false → s.boot = .stage2 → ∃ t, exec .bootStage2 s = .next t)) ∧
  (∀ s : State, let e := s.cur.ev
    let therm : W64 := BitVec.ofNat 64 (e.u % 2 ^ 16 + e.q % 2 ^ 16 * 2 ^ 16)
    let cap := s.pwrcap.toNat % 2 ^ 16
    (e.u < 2 ^ 16 → exec .governorTick s = .next { s with therm := therm, throttle := decide ((if 1760 < e.u then cap / 2 else cap) < e.n) }) ∧
    exec .thermalHalve s = .next { s with therm := therm } ∧
    (e.u < 1920 → exec .thermalTrip s = .next { s with therm := therm }) ∧
    (1920 ≤ e.u → ∃ t, exec .thermalTrip s = .next t ∧ t.boot = .tripped ∧ t.therm = therm ∧ t.slots = [] ∧ t.groups = [] ∧ t.runs = [] ∧ t.mem = s.mem))
end

