-- ==== Sys2Proof/Laws/Bits.lean ====
section
/-!
SUPPORT. Bits.lean: bit fields as quotients and remainders, and the sparse tables of State.
-/
namespace Sys2Proof

/-- A field is a quotient and a remainder. -/
theorem fld_eq (x : W64) (lo n : Nat) : fld x lo n = x.toNat / 2 ^ lo % 2 ^ n := by
  simp [fld, Nat.shiftRight_eq_div_pow]
theorem nfld_eq (x lo n : Nat) : nfld x lo n = x / 2 ^ lo % 2 ^ n := by
  simp [nfld, Nat.shiftRight_eq_div_pow]
theorem fld_lt (x : W64) (lo n : Nat) : fld x lo n < 2 ^ n := Nat.mod_lt _ (Nat.two_pow_pos n)
theorem nfld_lt (x lo n : Nat) : nfld x lo n < 2 ^ n := Nat.mod_lt _ (Nat.two_pow_pos n)

theorem nbit_eq (x i : Nat) : nbit x i = x.testBit i := by
  simp [nbit, Nat.testBit, Nat.one_and_eq_mod_two, Nat.shiftRight_eq_div_pow]
theorem nbit_toNat {w : Nat} (x : BitVec w) (i : Nat) : nbit x.toNat i = x.getLsbD i := nbit_eq _ _

theorem b2n_le_one (b : Bool) : b2n b ≤ 1 := by cases b <;> simp [b2n]

theorem lset_length {α : Type} (l : List α) (i : Nat) (v : α) : (lset l i v).length = l.length := by
  induction l generalizing i with
  | nil => rfl
  | cons x r ih => cases i <;> simp [lset, ih]
theorem getD_lset {α : Type} (l : List α) (i j : Nat) (v d : α) :
    (lset l i v).getD j d = if j = i ∧ j < l.length then v else l.getD j d := by
  induction l generalizing i j with
  | nil => simp [lset]
  | cons x r ih =>
    cases i with
    | zero => cases j <;> simp [lset]
    | succ i =>
      cases j with
      | zero => simp [lset]
      | succ j =>
        simp only [lset, List.getD_cons_succ, ih, List.length_cons]
        simp

end Sys2Proof
end

