-- ==== Sys2Proof/Laws/State.lean ====
section
/-!
SUPPORT. Laws/State.lean: what each update of State leaves of each field (by rfl), reading a table after writing it, and the
accessors after the updates.
-/
namespace Sys2Proof.Machine
open Sys2Proof

/-! ### One lemma per field per update -/

@[simp] theorem State.setThr_cur (s : State) (ti : SlotId) (x : Thread) : (s.setThr ti x).cur = s.cur := rfl
@[simp] theorem State.setThr_agenda (s : State) (ti : SlotId) (x : Thread) : (s.setThr ti x).agenda = s.agenda := rfl
@[simp] theorem State.setThr_turns (s : State) (ti : SlotId) (x : Thread) : (s.setThr ti x).turns = s.turns := rfl
@[simp] theorem State.setThr_frees (s : State) (ti : SlotId) (x : Thread) : (s.setThr ti x).frees = s.frees := rfl
@[simp] theorem State.setThr_clk (s : State) (ti : SlotId) (x : Thread) : (s.setThr ti x).clk = s.clk := rfl
@[simp] theorem State.setThr_fresh (s : State) (ti : SlotId) (x : Thread) : (s.setThr ti x).fresh = s.fresh := rfl
@[simp] theorem State.setThr_boot (s : State) (ti : SlotId) (x : Thread) : (s.setThr ti x).boot = s.boot := rfl
@[simp] theorem State.setThr_slots (s : State) (ti : SlotId) (x : Thread) : (s.setThr ti x).slots = aset s.slots ti x := rfl
@[simp] theorem State.setThr_clusters (s : State) (ti : SlotId) (x : Thread) : (s.setThr ti x).clusters = s.clusters := rfl
@[simp] theorem State.setThr_halves (s : State) (ti : SlotId) (x : Thread) : (s.setThr ti x).halves = s.halves := rfl
@[simp] theorem State.setThr_dies (s : State) (ti : SlotId) (x : Thread) : (s.setThr ti x).dies = s.dies := rfl
@[simp] theorem State.setThr_runs (s : State) (ti : SlotId) (x : Thread) : (s.setThr ti x).runs = s.runs := rfl
@[simp] theorem State.setThr_ins (s : State) (ti : SlotId) (x : Thread) : (s.setThr ti x).ins = s.ins := rfl
@[simp] theorem State.setThr_vunit (s : State) (ti : SlotId) (x : Thread) : (s.setThr ti x).vunit = s.vunit := rfl
@[simp] theorem State.setThr_mem (s : State) (ti : SlotId) (x : Thread) : (s.setThr ti x).mem = s.mem := rfl
@[simp] theorem State.setThr_full (s : State) (ti : SlotId) (x : Thread) : (s.setThr ti x).full = s.full := rfl
@[simp] theorem State.setThr_cells (s : State) (ti : SlotId) (x : Thread) : (s.setThr ti x).cells = s.cells := rfl
@[simp] theorem State.setThr_poison (s : State) (ti : SlotId) (x : Thread) : (s.setThr ti x).poison = s.poison := rfl
@[simp] theorem State.setThr_reeds (s : State) (ti : SlotId) (x : Thread) : (s.setThr ti x).reeds = s.reeds := rfl
@[simp] theorem State.setThr_sluices (s : State) (ti : SlotId) (x : Thread) : (s.setThr ti x).sluices = s.sluices := rfl
@[simp] theorem State.setThr_asked (s : State) (ti : SlotId) (x : Thread) : (s.setThr ti x).asked = s.asked := rfl
@[simp] theorem State.setThr_loads (s : State) (ti : SlotId) (x : Thread) : (s.setThr ti x).loads = s.loads := rfl
@[simp] theorem State.setThr_copies (s : State) (ti : SlotId) (x : Thread) : (s.setThr ti x).copies = s.copies := rfl
@[simp] theorem State.setThr_winnow (s : State) (ti : SlotId) (x : Thread) : (s.setThr ti x).winnow = s.winnow := rfl
@[simp] theorem State.setThr_calls (s : State) (ti : SlotId) (x : Thread) : (s.setThr ti x).calls = s.calls := rfl
@[simp] theorem State.setThr_msgs (s : State) (ti : SlotId) (x : Thread) : (s.setThr ti x).msgs = s.msgs := rfl
@[simp] theorem State.setThr_tissues (s : State) (ti : SlotId) (x : Thread) : (s.setThr ti x).tissues = s.tissues := rfl
@[simp] theorem State.setThr_late (s : State) (ti : SlotId) (x : Thread) : (s.setThr ti x).late = s.late := rfl
@[simp] theorem State.setThr_groups (s : State) (ti : SlotId) (x : Thread) : (s.setThr ti x).groups = s.groups := rfl
@[simp] theorem State.setThr_launches (s : State) (ti : SlotId) (x : Thread) : (s.setThr ti x).launches = s.launches := rfl
@[simp] theorem State.setThr_ctxs (s : State) (ti : SlotId) (x : Thread) : (s.setThr ti x).ctxs = s.ctxs := rfl
@[simp] theorem State.setThr_parts (s : State) (ti : SlotId) (x : Thread) : (s.setThr ti x).parts = s.parts := rfl
@[simp] theorem State.setThr_queues (s : State) (ti : SlotId) (x : Thread) : (s.setThr ti x).queues = s.queues := rfl
@[simp] theorem State.setThr_savedCtx (s : State) (ti : SlotId) (x : Thread) : (s.setThr ti x).savedCtx = s.savedCtx := rfl
@[simp] theorem State.setThr_host (s : State) (ti : SlotId) (x : Thread) : (s.setThr ti x).host = s.host := rfl
@[simp] theorem State.setThr_hostq (s : State) (ti : SlotId) (x : Thread) : (s.setThr ti x).hostq = s.hostq := rfl
@[simp] theorem State.setThr_peerq (s : State) (ti : SlotId) (x : Thread) : (s.setThr ti x).peerq = s.peerq := rfl
@[simp] theorem State.setThr_toPeer (s : State) (ti : SlotId) (x : Thread) : (s.setThr ti x).toPeer = s.toPeer := rfl
@[simp] theorem State.setThr_peerAns (s : State) (ti : SlotId) (x : Thread) : (s.setThr ti x).peerAns = s.peerAns := rfl
@[simp] theorem State.setThr_cwport (s : State) (ti : SlotId) (x : Thread) : (s.setThr ti x).cwport = s.cwport := rfl
@[simp] theorem State.setThr_planes (s : State) (ti : SlotId) (x : Thread) : (s.setThr ti x).planes = s.planes := rfl
@[simp] theorem State.setThr_pwrcap (s : State) (ti : SlotId) (x : Thread) : (s.setThr ti x).pwrcap = s.pwrcap := rfl
@[simp] theorem State.setThr_throttle (s : State) (ti : SlotId) (x : Thread) : (s.setThr ti x).throttle = s.throttle := rfl
@[simp] theorem State.setThr_therm (s : State) (ti : SlotId) (x : Thread) : (s.setThr ti x).therm = s.therm := rfl
@[simp] theorem State.setThr_nvmNext (s : State) (ti : SlotId) (x : Thread) : (s.setThr ti x).nvmNext = s.nvmNext := rfl
@[simp] theorem State.setThr_meas (s : State) (ti : SlotId) (x : Thread) : (s.setThr ti x).meas = s.meas := rfl
@[simp] theorem State.setThr_feaddrReg (s : State) (ti : SlotId) (x : Thread) : (s.setThr ti x).feaddrReg = s.feaddrReg := rfl
@[simp] theorem State.setThr_feq (s : State) (ti : SlotId) (x : Thread) : (s.setThr ti x).feq = s.feq := rfl
@[simp] theorem State.setThr_hostReads (s : State) (ti : SlotId) (x : Thread) : (s.setThr ti x).hostReads = s.hostReads := rfl
@[simp] theorem State.setThr_winq (s : State) (ti : SlotId) (x : Thread) : (s.setThr ti x).winq = s.winq := rfl
@[simp] theorem State.setThr_attq (s : State) (ti : SlotId) (x : Thread) : (s.setThr ti x).attq = s.attq := rfl
@[simp] theorem State.setThr_appSpared (s : State) (ti : SlotId) (x : Thread) : (s.setThr ti x).appSpared = s.appSpared := rfl
@[simp] theorem State.setThr_linkDown (s : State) (ti : SlotId) (x : Thread) : (s.setThr ti x).linkDown = s.linkDown := rfl

@[simp] theorem State.modThr_cur (s : State) (ti : SlotId) (f : Thread → Thread) : (s.modThr ti f).cur = s.cur := rfl
@[simp] theorem State.modThr_agenda (s : State) (ti : SlotId) (f : Thread → Thread) : (s.modThr ti f).agenda = s.agenda := rfl
@[simp] theorem State.modThr_turns (s : State) (ti : SlotId) (f : Thread → Thread) : (s.modThr ti f).turns = s.turns := rfl
@[simp] theorem State.modThr_frees (s : State) (ti : SlotId) (f : Thread → Thread) : (s.modThr ti f).frees = s.frees := rfl
@[simp] theorem State.modThr_clk (s : State) (ti : SlotId) (f : Thread → Thread) : (s.modThr ti f).clk = s.clk := rfl
@[simp] theorem State.modThr_fresh (s : State) (ti : SlotId) (f : Thread → Thread) : (s.modThr ti f).fresh = s.fresh := rfl
@[simp] theorem State.modThr_boot (s : State) (ti : SlotId) (f : Thread → Thread) : (s.modThr ti f).boot = s.boot := rfl
@[simp] theorem State.modThr_slots (s : State) (ti : SlotId) (f : Thread → Thread) : (s.modThr ti f).slots = aset s.slots ti (f (s.thr ti)) := rfl
@[simp] theorem State.modThr_clusters (s : State) (ti : SlotId) (f : Thread → Thread) : (s.modThr ti f).clusters = s.clusters := rfl
@[simp] theorem State.modThr_halves (s : State) (ti : SlotId) (f : Thread → Thread) : (s.modThr ti f).halves = s.halves := rfl
@[simp] theorem State.modThr_dies (s : State) (ti : SlotId) (f : Thread → Thread) : (s.modThr ti f).dies = s.dies := rfl
@[simp] theorem State.modThr_runs (s : State) (ti : SlotId) (f : Thread → Thread) : (s.modThr ti f).runs = s.runs := rfl
@[simp] theorem State.modThr_ins (s : State) (ti : SlotId) (f : Thread → Thread) : (s.modThr ti f).ins = s.ins := rfl
@[simp] theorem State.modThr_vunit (s : State) (ti : SlotId) (f : Thread → Thread) : (s.modThr ti f).vunit = s.vunit := rfl
@[simp] theorem State.modThr_mem (s : State) (ti : SlotId) (f : Thread → Thread) : (s.modThr ti f).mem = s.mem := rfl
@[simp] theorem State.modThr_full (s : State) (ti : SlotId) (f : Thread → Thread) : (s.modThr ti f).full = s.full := rfl
@[simp] theorem State.modThr_cells (s : State) (ti : SlotId) (f : Thread → Thread) : (s.modThr ti f).cells = s.cells := rfl
@[simp] theorem State.modThr_poison (s : State) (ti : SlotId) (f : Thread → Thread) : (s.modThr ti f).poison = s.poison := rfl
@[simp] theorem State.modThr_reeds (s : State) (ti : SlotId) (f : Thread → Thread) : (s.modThr ti f).reeds = s.reeds := rfl
@[simp] theorem State.modThr_sluices (s : State) (ti : SlotId) (f : Thread → Thread) : (s.modThr ti f).sluices = s.sluices := rfl
@[simp] theorem State.modThr_asked (s : State) (ti : SlotId) (f : Thread → Thread) : (s.modThr ti f).asked = s.asked := rfl
@[simp] theorem State.modThr_loads (s : State) (ti : SlotId) (f : Thread → Thread) : (s.modThr ti f).loads = s.loads := rfl
@[simp] theorem State.modThr_copies (s : State) (ti : SlotId) (f : Thread → Thread) : (s.modThr ti f).copies = s.copies := rfl
@[simp] theorem State.modThr_winnow (s : State) (ti : SlotId) (f : Thread → Thread) : (s.modThr ti f).winnow = s.winnow := rfl
@[simp] theorem State.modThr_calls (s : State) (ti : SlotId) (f : Thread → Thread) : (s.modThr ti f).calls = s.calls := rfl
@[simp] theorem State.modThr_msgs (s : State) (ti : SlotId) (f : Thread → Thread) : (s.modThr ti f).msgs = s.msgs := rfl
@[simp] theorem State.modThr_tissues (s : State) (ti : SlotId) (f : Thread → Thread) : (s.modThr ti f).tissues = s.tissues := rfl
@[simp] theorem State.modThr_late (s : State) (ti : SlotId) (f : Thread → Thread) : (s.modThr ti f).late = s.late := rfl
@[simp] theorem State.modThr_groups (s : State) (ti : SlotId) (f : Thread → Thread) : (s.modThr ti f).groups = s.groups := rfl
@[simp] theorem State.modThr_launches (s : State) (ti : SlotId) (f : Thread → Thread) : (s.modThr ti f).launches = s.launches := rfl
@[simp] theorem State.modThr_ctxs (s : State) (ti : SlotId) (f : Thread → Thread) : (s.modThr ti f).ctxs = s.ctxs := rfl
@[simp] theorem State.modThr_parts (s : State) (ti : SlotId) (f : Thread → Thread) : (s.modThr ti f).parts = s.parts := rfl
@[simp] theorem State.modThr_queues (s : State) (ti : SlotId) (f : Thread → Thread) : (s.modThr ti f).queues = s.queues := rfl
@[simp] theorem State.modThr_savedCtx (s : State) (ti : SlotId) (f : Thread → Thread) : (s.modThr ti f).savedCtx = s.savedCtx := rfl
@[simp] theorem State.modThr_host (s : State) (ti : SlotId) (f : Thread → Thread) : (s.modThr ti f).host = s.host := rfl
@[simp] theorem State.modThr_hostq (s : State) (ti : SlotId) (f : Thread → Thread) : (s.modThr ti f).hostq = s.hostq := rfl
@[simp] theorem State.modThr_peerq (s : State) (ti : SlotId) (f : Thread → Thread) : (s.modThr ti f).peerq = s.peerq := rfl
@[simp] theorem State.modThr_toPeer (s : State) (ti : SlotId) (f : Thread → Thread) : (s.modThr ti f).toPeer = s.toPeer := rfl
@[simp] theorem State.modThr_peerAns (s : State) (ti : SlotId) (f : Thread → Thread) : (s.modThr ti f).peerAns = s.peerAns := rfl
@[simp] theorem State.modThr_cwport (s : State) (ti : SlotId) (f : Thread → Thread) : (s.modThr ti f).cwport = s.cwport := rfl
@[simp] theorem State.modThr_planes (s : State) (ti : SlotId) (f : Thread → Thread) : (s.modThr ti f).planes = s.planes := rfl
@[simp] theorem State.modThr_pwrcap (s : State) (ti : SlotId) (f : Thread → Thread) : (s.modThr ti f).pwrcap = s.pwrcap := rfl
@[simp] theorem State.modThr_throttle (s : State) (ti : SlotId) (f : Thread → Thread) : (s.modThr ti f).throttle = s.throttle := rfl
@[simp] theorem State.modThr_therm (s : State) (ti : SlotId) (f : Thread → Thread) : (s.modThr ti f).therm = s.therm := rfl
@[simp] theorem State.modThr_nvmNext (s : State) (ti : SlotId) (f : Thread → Thread) : (s.modThr ti f).nvmNext = s.nvmNext := rfl
@[simp] theorem State.modThr_meas (s : State) (ti : SlotId) (f : Thread → Thread) : (s.modThr ti f).meas = s.meas := rfl
@[simp] theorem State.modThr_feaddrReg (s : State) (ti : SlotId) (f : Thread → Thread) : (s.modThr ti f).feaddrReg = s.feaddrReg := rfl
@[simp] theorem State.modThr_feq (s : State) (ti : SlotId) (f : Thread → Thread) : (s.modThr ti f).feq = s.feq := rfl
@[simp] theorem State.modThr_hostReads (s : State) (ti : SlotId) (f : Thread → Thread) : (s.modThr ti f).hostReads = s.hostReads := rfl
@[simp] theorem State.modThr_winq (s : State) (ti : SlotId) (f : Thread → Thread) : (s.modThr ti f).winq = s.winq := rfl
@[simp] theorem State.modThr_attq (s : State) (ti : SlotId) (f : Thread → Thread) : (s.modThr ti f).attq = s.attq := rfl
@[simp] theorem State.modThr_appSpared (s : State) (ti : SlotId) (f : Thread → Thread) : (s.modThr ti f).appSpared = s.appSpared := rfl
@[simp] theorem State.modThr_linkDown (s : State) (ti : SlotId) (f : Thread → Thread) : (s.modThr ti f).linkDown = s.linkDown := rfl

@[simp] theorem State.modMe_cur (s : State) (f : Thread → Thread) : (s.modMe f).cur = s.cur := rfl
@[simp] theorem State.modMe_agenda (s : State) (f : Thread → Thread) : (s.modMe f).agenda = s.agenda := rfl
@[simp] theorem State.modMe_turns (s : State) (f : Thread → Thread) : (s.modMe f).turns = s.turns := rfl
@[simp] theorem State.modMe_frees (s : State) (f : Thread → Thread) : (s.modMe f).frees = s.frees := rfl
@[simp] theorem State.modMe_clk (s : State) (f : Thread → Thread) : (s.modMe f).clk = s.clk := rfl
@[simp] theorem State.modMe_fresh (s : State) (f : Thread → Thread) : (s.modMe f).fresh = s.fresh := rfl
@[simp] theorem State.modMe_boot (s : State) (f : Thread → Thread) : (s.modMe f).boot = s.boot := rfl
@[simp] theorem State.modMe_clusters (s : State) (f : Thread → Thread) : (s.modMe f).clusters = s.clusters := rfl
@[simp] theorem State.modMe_halves (s : State) (f : Thread → Thread) : (s.modMe f).halves = s.halves := rfl
@[simp] theorem State.modMe_dies (s : State) (f : Thread → Thread) : (s.modMe f).dies = s.dies := rfl
@[simp] theorem State.modMe_runs (s : State) (f : Thread → Thread) : (s.modMe f).runs = s.runs := rfl
@[simp] theorem State.modMe_ins (s : State) (f : Thread → Thread) : (s.modMe f).ins = s.ins := rfl
@[simp] theorem State.modMe_vunit (s : State) (f : Thread → Thread) : (s.modMe f).vunit = s.vunit := rfl
@[simp] theorem State.modMe_mem (s : State) (f : Thread → Thread) : (s.modMe f).mem = s.mem := rfl
@[simp] theorem State.modMe_full (s : State) (f : Thread → Thread) : (s.modMe f).full = s.full := rfl
@[simp] theorem State.modMe_cells (s : State) (f : Thread → Thread) : (s.modMe f).cells = s.cells := rfl
@[simp] theorem State.modMe_poison (s : State) (f : Thread → Thread) : (s.modMe f).poison = s.poison := rfl
@[simp] theorem State.modMe_reeds (s : State) (f : Thread → Thread) : (s.modMe f).reeds = s.reeds := rfl
@[simp] theorem State.modMe_sluices (s : State) (f : Thread → Thread) : (s.modMe f).sluices = s.sluices := rfl
@[simp] theorem State.modMe_asked (s : State) (f : Thread → Thread) : (s.modMe f).asked = s.asked := rfl
@[simp] theorem State.modMe_loads (s : State) (f : Thread → Thread) : (s.modMe f).loads = s.loads := rfl
@[simp] theorem State.modMe_copies (s : State) (f : Thread → Thread) : (s.modMe f).copies = s.copies := rfl
@[simp] theorem State.modMe_winnow (s : State) (f : Thread → Thread) : (s.modMe f).winnow = s.winnow := rfl
@[simp] theorem State.modMe_calls (s : State) (f : Thread → Thread) : (s.modMe f).calls = s.calls := rfl
@[simp] theorem State.modMe_msgs (s : State) (f : Thread → Thread) : (s.modMe f).msgs = s.msgs := rfl
@[simp] theorem State.modMe_tissues (s : State) (f : Thread → Thread) : (s.modMe f).tissues = s.tissues := rfl
@[simp] theorem State.modMe_late (s : State) (f : Thread → Thread) : (s.modMe f).late = s.late := rfl
@[simp] theorem State.modMe_groups (s : State) (f : Thread → Thread) : (s.modMe f).groups = s.groups := rfl
@[simp] theorem State.modMe_launches (s : State) (f : Thread → Thread) : (s.modMe f).launches = s.launches := rfl
@[simp] theorem State.modMe_ctxs (s : State) (f : Thread → Thread) : (s.modMe f).ctxs = s.ctxs := rfl
@[simp] theorem State.modMe_parts (s : State) (f : Thread → Thread) : (s.modMe f).parts = s.parts := rfl
@[simp] theorem State.modMe_queues (s : State) (f : Thread → Thread) : (s.modMe f).queues = s.queues := rfl
@[simp] theorem State.modMe_savedCtx (s : State) (f : Thread → Thread) : (s.modMe f).savedCtx = s.savedCtx := rfl
@[simp] theorem State.modMe_host (s : State) (f : Thread → Thread) : (s.modMe f).host = s.host := rfl
@[simp] theorem State.modMe_hostq (s : State) (f : Thread → Thread) : (s.modMe f).hostq = s.hostq := rfl
@[simp] theorem State.modMe_peerq (s : State) (f : Thread → Thread) : (s.modMe f).peerq = s.peerq := rfl
@[simp] theorem State.modMe_toPeer (s : State) (f : Thread → Thread) : (s.modMe f).toPeer = s.toPeer := rfl
@[simp] theorem State.modMe_peerAns (s : State) (f : Thread → Thread) : (s.modMe f).peerAns = s.peerAns := rfl
@[simp] theorem State.modMe_cwport (s : State) (f : Thread → Thread) : (s.modMe f).cwport = s.cwport := rfl
@[simp] theorem State.modMe_planes (s : State) (f : Thread → Thread) : (s.modMe f).planes = s.planes := rfl
@[simp] theorem State.modMe_pwrcap (s : State) (f : Thread → Thread) : (s.modMe f).pwrcap = s.pwrcap := rfl
@[simp] theorem State.modMe_throttle (s : State) (f : Thread → Thread) : (s.modMe f).throttle = s.throttle := rfl
@[simp] theorem State.modMe_therm (s : State) (f : Thread → Thread) : (s.modMe f).therm = s.therm := rfl
@[simp] theorem State.modMe_nvmNext (s : State) (f : Thread → Thread) : (s.modMe f).nvmNext = s.nvmNext := rfl
@[simp] theorem State.modMe_meas (s : State) (f : Thread → Thread) : (s.modMe f).meas = s.meas := rfl
@[simp] theorem State.modMe_feaddrReg (s : State) (f : Thread → Thread) : (s.modMe f).feaddrReg = s.feaddrReg := rfl
@[simp] theorem State.modMe_feq (s : State) (f : Thread → Thread) : (s.modMe f).feq = s.feq := rfl
@[simp] theorem State.modMe_hostReads (s : State) (f : Thread → Thread) : (s.modMe f).hostReads = s.hostReads := rfl
@[simp] theorem State.modMe_winq (s : State) (f : Thread → Thread) : (s.modMe f).winq = s.winq := rfl
@[simp] theorem State.modMe_attq (s : State) (f : Thread → Thread) : (s.modMe f).attq = s.attq := rfl
@[simp] theorem State.modMe_appSpared (s : State) (f : Thread → Thread) : (s.modMe f).appSpared = s.appSpared := rfl
@[simp] theorem State.modMe_linkDown (s : State) (f : Thread → Thread) : (s.modMe f).linkDown = s.linkDown := rfl

@[simp] theorem State.setDie_cur (s : State) (d : Nat) (x : Die) : (s.setDie d x).cur = s.cur := rfl
@[simp] theorem State.setDie_agenda (s : State) (d : Nat) (x : Die) : (s.setDie d x).agenda = s.agenda := rfl
@[simp] theorem State.setDie_turns (s : State) (d : Nat) (x : Die) : (s.setDie d x).turns = s.turns := rfl
@[simp] theorem State.setDie_frees (s : State) (d : Nat) (x : Die) : (s.setDie d x).frees = s.frees := rfl
@[simp] theorem State.setDie_clk (s : State) (d : Nat) (x : Die) : (s.setDie d x).clk = s.clk := rfl
@[simp] theorem State.setDie_fresh (s : State) (d : Nat) (x : Die) : (s.setDie d x).fresh = s.fresh := rfl
@[simp] theorem State.setDie_boot (s : State) (d : Nat) (x : Die) : (s.setDie d x).boot = s.boot := rfl
@[simp] theorem State.setDie_slots (s : State) (d : Nat) (x : Die) : (s.setDie d x).slots = s.slots := rfl
@[simp] theorem State.setDie_clusters (s : State) (d : Nat) (x : Die) : (s.setDie d x).clusters = s.clusters := rfl
@[simp] theorem State.setDie_halves (s : State) (d : Nat) (x : Die) : (s.setDie d x).halves = s.halves := rfl
@[simp] theorem State.setDie_dies (s : State) (d : Nat) (x : Die) : (s.setDie d x).dies = aset s.dies d x := rfl
@[simp] theorem State.setDie_runs (s : State) (d : Nat) (x : Die) : (s.setDie d x).runs = s.runs := rfl
@[simp] theorem State.setDie_ins (s : State) (d : Nat) (x : Die) : (s.setDie d x).ins = s.ins := rfl
@[simp] theorem State.setDie_vunit (s : State) (d : Nat) (x : Die) : (s.setDie d x).vunit = s.vunit := rfl
@[simp] theorem State.setDie_mem (s : State) (d : Nat) (x : Die) : (s.setDie d x).mem = s.mem := rfl
@[simp] theorem State.setDie_full (s : State) (d : Nat) (x : Die) : (s.setDie d x).full = s.full := rfl
@[simp] theorem State.setDie_cells (s : State) (d : Nat) (x : Die) : (s.setDie d x).cells = s.cells := rfl
@[simp] theorem State.setDie_poison (s : State) (d : Nat) (x : Die) : (s.setDie d x).poison = s.poison := rfl
@[simp] theorem State.setDie_reeds (s : State) (d : Nat) (x : Die) : (s.setDie d x).reeds = s.reeds := rfl
@[simp] theorem State.setDie_sluices (s : State) (d : Nat) (x : Die) : (s.setDie d x).sluices = s.sluices := rfl
@[simp] theorem State.setDie_asked (s : State) (d : Nat) (x : Die) : (s.setDie d x).asked = s.asked := rfl
@[simp] theorem State.setDie_loads (s : State) (d : Nat) (x : Die) : (s.setDie d x).loads = s.loads := rfl
@[simp] theorem State.setDie_copies (s : State) (d : Nat) (x : Die) : (s.setDie d x).copies = s.copies := rfl
@[simp] theorem State.setDie_winnow (s : State) (d : Nat) (x : Die) : (s.setDie d x).winnow = s.winnow := rfl
@[simp] theorem State.setDie_calls (s : State) (d : Nat) (x : Die) : (s.setDie d x).calls = s.calls := rfl
@[simp] theorem State.setDie_msgs (s : State) (d : Nat) (x : Die) : (s.setDie d x).msgs = s.msgs := rfl
@[simp] theorem State.setDie_tissues (s : State) (d : Nat) (x : Die) : (s.setDie d x).tissues = s.tissues := rfl
@[simp] theorem State.setDie_late (s : State) (d : Nat) (x : Die) : (s.setDie d x).late = s.late := rfl
@[simp] theorem State.setDie_groups (s : State) (d : Nat) (x : Die) : (s.setDie d x).groups = s.groups := rfl
@[simp] theorem State.setDie_launches (s : State) (d : Nat) (x : Die) : (s.setDie d x).launches = s.launches := rfl
@[simp] theorem State.setDie_ctxs (s : State) (d : Nat) (x : Die) : (s.setDie d x).ctxs = s.ctxs := rfl
@[simp] theorem State.setDie_parts (s : State) (d : Nat) (x : Die) : (s.setDie d x).parts = s.parts := rfl
@[simp] theorem State.setDie_queues (s : State) (d : Nat) (x : Die) : (s.setDie d x).queues = s.queues := rfl
@[simp] theorem State.setDie_savedCtx (s : State) (d : Nat) (x : Die) : (s.setDie d x).savedCtx = s.savedCtx := rfl
@[simp] theorem State.setDie_host (s : State) (d : Nat) (x : Die) : (s.setDie d x).host = s.host := rfl
@[simp] theorem State.setDie_hostq (s : State) (d : Nat) (x : Die) : (s.setDie d x).hostq = s.hostq := rfl
@[simp] theorem State.setDie_peerq (s : State) (d : Nat) (x : Die) : (s.setDie d x).peerq = s.peerq := rfl
@[simp] theorem State.setDie_toPeer (s : State) (d : Nat) (x : Die) : (s.setDie d x).toPeer = s.toPeer := rfl
@[simp] theorem State.setDie_peerAns (s : State) (d : Nat) (x : Die) : (s.setDie d x).peerAns = s.peerAns := rfl
@[simp] theorem State.setDie_cwport (s : State) (d : Nat) (x : Die) : (s.setDie d x).cwport = s.cwport := rfl
@[simp] theorem State.setDie_planes (s : State) (d : Nat) (x : Die) : (s.setDie d x).planes = s.planes := rfl
@[simp] theorem State.setDie_pwrcap (s : State) (d : Nat) (x : Die) : (s.setDie d x).pwrcap = s.pwrcap := rfl
@[simp] theorem State.setDie_throttle (s : State) (d : Nat) (x : Die) : (s.setDie d x).throttle = s.throttle := rfl
@[simp] theorem State.setDie_therm (s : State) (d : Nat) (x : Die) : (s.setDie d x).therm = s.therm := rfl
@[simp] theorem State.setDie_nvmNext (s : State) (d : Nat) (x : Die) : (s.setDie d x).nvmNext = s.nvmNext := rfl
@[simp] theorem State.setDie_meas (s : State) (d : Nat) (x : Die) : (s.setDie d x).meas = s.meas := rfl
@[simp] theorem State.setDie_feaddrReg (s : State) (d : Nat) (x : Die) : (s.setDie d x).feaddrReg = s.feaddrReg := rfl
@[simp] theorem State.setDie_feq (s : State) (d : Nat) (x : Die) : (s.setDie d x).feq = s.feq := rfl
@[simp] theorem State.setDie_hostReads (s : State) (d : Nat) (x : Die) : (s.setDie d x).hostReads = s.hostReads := rfl
@[simp] theorem State.setDie_winq (s : State) (d : Nat) (x : Die) : (s.setDie d x).winq = s.winq := rfl
@[simp] theorem State.setDie_attq (s : State) (d : Nat) (x : Die) : (s.setDie d x).attq = s.attq := rfl
@[simp] theorem State.setDie_appSpared (s : State) (d : Nat) (x : Die) : (s.setDie d x).appSpared = s.appSpared := rfl
@[simp] theorem State.setDie_linkDown (s : State) (d : Nat) (x : Die) : (s.setDie d x).linkDown = s.linkDown := rfl

@[simp] theorem State.setPart_cur (s : State) (p : Nat) (x : Part) : (s.setPart p x).cur = s.cur := rfl
@[simp] theorem State.setPart_agenda (s : State) (p : Nat) (x : Part) : (s.setPart p x).agenda = s.agenda := rfl
@[simp] theorem State.setPart_turns (s : State) (p : Nat) (x : Part) : (s.setPart p x).turns = s.turns := rfl
@[simp] theorem State.setPart_frees (s : State) (p : Nat) (x : Part) : (s.setPart p x).frees = s.frees := rfl
@[simp] theorem State.setPart_clk (s : State) (p : Nat) (x : Part) : (s.setPart p x).clk = s.clk := rfl
@[simp] theorem State.setPart_fresh (s : State) (p : Nat) (x : Part) : (s.setPart p x).fresh = s.fresh := rfl
@[simp] theorem State.setPart_boot (s : State) (p : Nat) (x : Part) : (s.setPart p x).boot = s.boot := rfl
@[simp] theorem State.setPart_slots (s : State) (p : Nat) (x : Part) : (s.setPart p x).slots = s.slots := rfl
@[simp] theorem State.setPart_clusters (s : State) (p : Nat) (x : Part) : (s.setPart p x).clusters = s.clusters := rfl
@[simp] theorem State.setPart_halves (s : State) (p : Nat) (x : Part) : (s.setPart p x).halves = s.halves := rfl
@[simp] theorem State.setPart_dies (s : State) (p : Nat) (x : Part) : (s.setPart p x).dies = s.dies := rfl
@[simp] theorem State.setPart_runs (s : State) (p : Nat) (x : Part) : (s.setPart p x).runs = s.runs := rfl
@[simp] theorem State.setPart_ins (s : State) (p : Nat) (x : Part) : (s.setPart p x).ins = s.ins := rfl
@[simp] theorem State.setPart_vunit (s : State) (p : Nat) (x : Part) : (s.setPart p x).vunit = s.vunit := rfl
@[simp] theorem State.setPart_mem (s : State) (p : Nat) (x : Part) : (s.setPart p x).mem = s.mem := rfl
@[simp] theorem State.setPart_full (s : State) (p : Nat) (x : Part) : (s.setPart p x).full = s.full := rfl
@[simp] theorem State.setPart_cells (s : State) (p : Nat) (x : Part) : (s.setPart p x).cells = s.cells := rfl
@[simp] theorem State.setPart_poison (s : State) (p : Nat) (x : Part) : (s.setPart p x).poison = s.poison := rfl
@[simp] theorem State.setPart_reeds (s : State) (p : Nat) (x : Part) : (s.setPart p x).reeds = s.reeds := rfl
@[simp] theorem State.setPart_sluices (s : State) (p : Nat) (x : Part) : (s.setPart p x).sluices = s.sluices := rfl
@[simp] theorem State.setPart_asked (s : State) (p : Nat) (x : Part) : (s.setPart p x).asked = s.asked := rfl
@[simp] theorem State.setPart_loads (s : State) (p : Nat) (x : Part) : (s.setPart p x).loads = s.loads := rfl
@[simp] theorem State.setPart_copies (s : State) (p : Nat) (x : Part) : (s.setPart p x).copies = s.copies := rfl
@[simp] theorem State.setPart_winnow (s : State) (p : Nat) (x : Part) : (s.setPart p x).winnow = s.winnow := rfl
@[simp] theorem State.setPart_calls (s : State) (p : Nat) (x : Part) : (s.setPart p x).calls = s.calls := rfl
@[simp] theorem State.setPart_msgs (s : State) (p : Nat) (x : Part) : (s.setPart p x).msgs = s.msgs := rfl
@[simp] theorem State.setPart_tissues (s : State) (p : Nat) (x : Part) : (s.setPart p x).tissues = s.tissues := rfl
@[simp] theorem State.setPart_late (s : State) (p : Nat) (x : Part) : (s.setPart p x).late = s.late := rfl
@[simp] theorem State.setPart_groups (s : State) (p : Nat) (x : Part) : (s.setPart p x).groups = s.groups := rfl
@[simp] theorem State.setPart_launches (s : State) (p : Nat) (x : Part) : (s.setPart p x).launches = s.launches := rfl
@[simp] theorem State.setPart_ctxs (s : State) (p : Nat) (x : Part) : (s.setPart p x).ctxs = s.ctxs := rfl
@[simp] theorem State.setPart_parts (s : State) (p : Nat) (x : Part) : (s.setPart p x).parts = aset s.parts p x := rfl
@[simp] theorem State.setPart_queues (s : State) (p : Nat) (x : Part) : (s.setPart p x).queues = s.queues := rfl
@[simp] theorem State.setPart_savedCtx (s : State) (p : Nat) (x : Part) : (s.setPart p x).savedCtx = s.savedCtx := rfl
@[simp] theorem State.setPart_host (s : State) (p : Nat) (x : Part) : (s.setPart p x).host = s.host := rfl
@[simp] theorem State.setPart_hostq (s : State) (p : Nat) (x : Part) : (s.setPart p x).hostq = s.hostq := rfl
@[simp] theorem State.setPart_peerq (s : State) (p : Nat) (x : Part) : (s.setPart p x).peerq = s.peerq := rfl
@[simp] theorem State.setPart_toPeer (s : State) (p : Nat) (x : Part) : (s.setPart p x).toPeer = s.toPeer := rfl
@[simp] theorem State.setPart_peerAns (s : State) (p : Nat) (x : Part) : (s.setPart p x).peerAns = s.peerAns := rfl
@[simp] theorem State.setPart_cwport (s : State) (p : Nat) (x : Part) : (s.setPart p x).cwport = s.cwport := rfl
@[simp] theorem State.setPart_planes (s : State) (p : Nat) (x : Part) : (s.setPart p x).planes = s.planes := rfl
@[simp] theorem State.setPart_pwrcap (s : State) (p : Nat) (x : Part) : (s.setPart p x).pwrcap = s.pwrcap := rfl
@[simp] theorem State.setPart_throttle (s : State) (p : Nat) (x : Part) : (s.setPart p x).throttle = s.throttle := rfl
@[simp] theorem State.setPart_therm (s : State) (p : Nat) (x : Part) : (s.setPart p x).therm = s.therm := rfl
@[simp] theorem State.setPart_nvmNext (s : State) (p : Nat) (x : Part) : (s.setPart p x).nvmNext = s.nvmNext := rfl
@[simp] theorem State.setPart_meas (s : State) (p : Nat) (x : Part) : (s.setPart p x).meas = s.meas := rfl
@[simp] theorem State.setPart_feaddrReg (s : State) (p : Nat) (x : Part) : (s.setPart p x).feaddrReg = s.feaddrReg := rfl
@[simp] theorem State.setPart_feq (s : State) (p : Nat) (x : Part) : (s.setPart p x).feq = s.feq := rfl
@[simp] theorem State.setPart_hostReads (s : State) (p : Nat) (x : Part) : (s.setPart p x).hostReads = s.hostReads := rfl
@[simp] theorem State.setPart_winq (s : State) (p : Nat) (x : Part) : (s.setPart p x).winq = s.winq := rfl
@[simp] theorem State.setPart_attq (s : State) (p : Nat) (x : Part) : (s.setPart p x).attq = s.attq := rfl
@[simp] theorem State.setPart_appSpared (s : State) (p : Nat) (x : Part) : (s.setPart p x).appSpared = s.appSpared := rfl
@[simp] theorem State.setPart_linkDown (s : State) (p : Nat) (x : Part) : (s.setPart p x).linkDown = s.linkDown := rfl

@[simp] theorem State.setCtx_cur (s : State) (p c : Nat) (x : Ctx) : (s.setCtx p c x).cur = s.cur := rfl
@[simp] theorem State.setCtx_agenda (s : State) (p c : Nat) (x : Ctx) : (s.setCtx p c x).agenda = s.agenda := rfl
@[simp] theorem State.setCtx_turns (s : State) (p c : Nat) (x : Ctx) : (s.setCtx p c x).turns = s.turns := rfl
@[simp] theorem State.setCtx_frees (s : State) (p c : Nat) (x : Ctx) : (s.setCtx p c x).frees = s.frees := rfl
@[simp] theorem State.setCtx_clk (s : State) (p c : Nat) (x : Ctx) : (s.setCtx p c x).clk = s.clk := rfl
@[simp] theorem State.setCtx_fresh (s : State) (p c : Nat) (x : Ctx) : (s.setCtx p c x).fresh = s.fresh := rfl
@[simp] theorem State.setCtx_boot (s : State) (p c : Nat) (x : Ctx) : (s.setCtx p c x).boot = s.boot := rfl
@[simp] theorem State.setCtx_slots (s : State) (p c : Nat) (x : Ctx) : (s.setCtx p c x).slots = s.slots := rfl
@[simp] theorem State.setCtx_clusters (s : State) (p c : Nat) (x : Ctx) : (s.setCtx p c x).clusters = s.clusters := rfl
@[simp] theorem State.setCtx_halves (s : State) (p c : Nat) (x : Ctx) : (s.setCtx p c x).halves = s.halves := rfl
@[simp] theorem State.setCtx_dies (s : State) (p c : Nat) (x : Ctx) : (s.setCtx p c x).dies = s.dies := rfl
@[simp] theorem State.setCtx_runs (s : State) (p c : Nat) (x : Ctx) : (s.setCtx p c x).runs = s.runs := rfl
@[simp] theorem State.setCtx_ins (s : State) (p c : Nat) (x : Ctx) : (s.setCtx p c x).ins = s.ins := rfl
@[simp] theorem State.setCtx_vunit (s : State) (p c : Nat) (x : Ctx) : (s.setCtx p c x).vunit = s.vunit := rfl
@[simp] theorem State.setCtx_mem (s : State) (p c : Nat) (x : Ctx) : (s.setCtx p c x).mem = s.mem := rfl
@[simp] theorem State.setCtx_full (s : State) (p c : Nat) (x : Ctx) : (s.setCtx p c x).full = s.full := rfl
@[simp] theorem State.setCtx_cells (s : State) (p c : Nat) (x : Ctx) : (s.setCtx p c x).cells = s.cells := rfl
@[simp] theorem State.setCtx_poison (s : State) (p c : Nat) (x : Ctx) : (s.setCtx p c x).poison = s.poison := rfl
@[simp] theorem State.setCtx_reeds (s : State) (p c : Nat) (x : Ctx) : (s.setCtx p c x).reeds = s.reeds := rfl
@[simp] theorem State.setCtx_sluices (s : State) (p c : Nat) (x : Ctx) : (s.setCtx p c x).sluices = s.sluices := rfl
@[simp] theorem State.setCtx_asked (s : State) (p c : Nat) (x : Ctx) : (s.setCtx p c x).asked = s.asked := rfl
@[simp] theorem State.setCtx_loads (s : State) (p c : Nat) (x : Ctx) : (s.setCtx p c x).loads = s.loads := rfl
@[simp] theorem State.setCtx_copies (s : State) (p c : Nat) (x : Ctx) : (s.setCtx p c x).copies = s.copies := rfl
@[simp] theorem State.setCtx_winnow (s : State) (p c : Nat) (x : Ctx) : (s.setCtx p c x).winnow = s.winnow := rfl
@[simp] theorem State.setCtx_calls (s : State) (p c : Nat) (x : Ctx) : (s.setCtx p c x).calls = s.calls := rfl
@[simp] theorem State.setCtx_msgs (s : State) (p c : Nat) (x : Ctx) : (s.setCtx p c x).msgs = s.msgs := rfl
@[simp] theorem State.setCtx_tissues (s : State) (p c : Nat) (x : Ctx) : (s.setCtx p c x).tissues = s.tissues := rfl
@[simp] theorem State.setCtx_late (s : State) (p c : Nat) (x : Ctx) : (s.setCtx p c x).late = s.late := rfl
@[simp] theorem State.setCtx_groups (s : State) (p c : Nat) (x : Ctx) : (s.setCtx p c x).groups = s.groups := rfl
@[simp] theorem State.setCtx_launches (s : State) (p c : Nat) (x : Ctx) : (s.setCtx p c x).launches = s.launches := rfl
@[simp] theorem State.setCtx_ctxs (s : State) (p c : Nat) (x : Ctx) : (s.setCtx p c x).ctxs = aset s.ctxs (p, c) x := rfl
@[simp] theorem State.setCtx_parts (s : State) (p c : Nat) (x : Ctx) : (s.setCtx p c x).parts = s.parts := rfl
@[simp] theorem State.setCtx_queues (s : State) (p c : Nat) (x : Ctx) : (s.setCtx p c x).queues = s.queues := rfl
@[simp] theorem State.setCtx_savedCtx (s : State) (p c : Nat) (x : Ctx) : (s.setCtx p c x).savedCtx = s.savedCtx := rfl
@[simp] theorem State.setCtx_host (s : State) (p c : Nat) (x : Ctx) : (s.setCtx p c x).host = s.host := rfl
@[simp] theorem State.setCtx_hostq (s : State) (p c : Nat) (x : Ctx) : (s.setCtx p c x).hostq = s.hostq := rfl
@[simp] theorem State.setCtx_peerq (s : State) (p c : Nat) (x : Ctx) : (s.setCtx p c x).peerq = s.peerq := rfl
@[simp] theorem State.setCtx_toPeer (s : State) (p c : Nat) (x : Ctx) : (s.setCtx p c x).toPeer = s.toPeer := rfl
@[simp] theorem State.setCtx_peerAns (s : State) (p c : Nat) (x : Ctx) : (s.setCtx p c x).peerAns = s.peerAns := rfl
@[simp] theorem State.setCtx_cwport (s : State) (p c : Nat) (x : Ctx) : (s.setCtx p c x).cwport = s.cwport := rfl
@[simp] theorem State.setCtx_planes (s : State) (p c : Nat) (x : Ctx) : (s.setCtx p c x).planes = s.planes := rfl
@[simp] theorem State.setCtx_pwrcap (s : State) (p c : Nat) (x : Ctx) : (s.setCtx p c x).pwrcap = s.pwrcap := rfl
@[simp] theorem State.setCtx_throttle (s : State) (p c : Nat) (x : Ctx) : (s.setCtx p c x).throttle = s.throttle := rfl
@[simp] theorem State.setCtx_therm (s : State) (p c : Nat) (x : Ctx) : (s.setCtx p c x).therm = s.therm := rfl
@[simp] theorem State.setCtx_nvmNext (s : State) (p c : Nat) (x : Ctx) : (s.setCtx p c x).nvmNext = s.nvmNext := rfl
@[simp] theorem State.setCtx_meas (s : State) (p c : Nat) (x : Ctx) : (s.setCtx p c x).meas = s.meas := rfl
@[simp] theorem State.setCtx_feaddrReg (s : State) (p c : Nat) (x : Ctx) : (s.setCtx p c x).feaddrReg = s.feaddrReg := rfl
@[simp] theorem State.setCtx_feq (s : State) (p c : Nat) (x : Ctx) : (s.setCtx p c x).feq = s.feq := rfl
@[simp] theorem State.setCtx_hostReads (s : State) (p c : Nat) (x : Ctx) : (s.setCtx p c x).hostReads = s.hostReads := rfl
@[simp] theorem State.setCtx_winq (s : State) (p c : Nat) (x : Ctx) : (s.setCtx p c x).winq = s.winq := rfl
@[simp] theorem State.setCtx_attq (s : State) (p c : Nat) (x : Ctx) : (s.setCtx p c x).attq = s.attq := rfl
@[simp] theorem State.setCtx_appSpared (s : State) (p c : Nat) (x : Ctx) : (s.setCtx p c x).appSpared = s.appSpared := rfl
@[simp] theorem State.setCtx_linkDown (s : State) (p c : Nat) (x : Ctx) : (s.setCtx p c x).linkDown = s.linkDown := rfl

@[simp] theorem State.setReed_cur (s : State) (q : Nat) (x : Reed) : (s.setReed q x).cur = s.cur := rfl
@[simp] theorem State.setReed_agenda (s : State) (q : Nat) (x : Reed) : (s.setReed q x).agenda = s.agenda := rfl
@[simp] theorem State.setReed_turns (s : State) (q : Nat) (x : Reed) : (s.setReed q x).turns = s.turns := rfl
@[simp] theorem State.setReed_frees (s : State) (q : Nat) (x : Reed) : (s.setReed q x).frees = s.frees := rfl
@[simp] theorem State.setReed_clk (s : State) (q : Nat) (x : Reed) : (s.setReed q x).clk = s.clk := rfl
@[simp] theorem State.setReed_fresh (s : State) (q : Nat) (x : Reed) : (s.setReed q x).fresh = s.fresh := rfl
@[simp] theorem State.setReed_boot (s : State) (q : Nat) (x : Reed) : (s.setReed q x).boot = s.boot := rfl
@[simp] theorem State.setReed_slots (s : State) (q : Nat) (x : Reed) : (s.setReed q x).slots = s.slots := rfl
@[simp] theorem State.setReed_clusters (s : State) (q : Nat) (x : Reed) : (s.setReed q x).clusters = s.clusters := rfl
@[simp] theorem State.setReed_halves (s : State) (q : Nat) (x : Reed) : (s.setReed q x).halves = s.halves := rfl
@[simp] theorem State.setReed_dies (s : State) (q : Nat) (x : Reed) : (s.setReed q x).dies = s.dies := rfl
@[simp] theorem State.setReed_runs (s : State) (q : Nat) (x : Reed) : (s.setReed q x).runs = s.runs := rfl
@[simp] theorem State.setReed_ins (s : State) (q : Nat) (x : Reed) : (s.setReed q x).ins = s.ins := rfl
@[simp] theorem State.setReed_vunit (s : State) (q : Nat) (x : Reed) : (s.setReed q x).vunit = s.vunit := rfl
@[simp] theorem State.setReed_mem (s : State) (q : Nat) (x : Reed) : (s.setReed q x).mem = s.mem := rfl
@[simp] theorem State.setReed_full (s : State) (q : Nat) (x : Reed) : (s.setReed q x).full = s.full := rfl
@[simp] theorem State.setReed_cells (s : State) (q : Nat) (x : Reed) : (s.setReed q x).cells = s.cells := rfl
@[simp] theorem State.setReed_poison (s : State) (q : Nat) (x : Reed) : (s.setReed q x).poison = s.poison := rfl
@[simp] theorem State.setReed_reeds (s : State) (q : Nat) (x : Reed) : (s.setReed q x).reeds = aset s.reeds q x := rfl
@[simp] theorem State.setReed_sluices (s : State) (q : Nat) (x : Reed) : (s.setReed q x).sluices = s.sluices := rfl
@[simp] theorem State.setReed_asked (s : State) (q : Nat) (x : Reed) : (s.setReed q x).asked = s.asked := rfl
@[simp] theorem State.setReed_loads (s : State) (q : Nat) (x : Reed) : (s.setReed q x).loads = s.loads := rfl
@[simp] theorem State.setReed_copies (s : State) (q : Nat) (x : Reed) : (s.setReed q x).copies = s.copies := rfl
@[simp] theorem State.setReed_winnow (s : State) (q : Nat) (x : Reed) : (s.setReed q x).winnow = s.winnow := rfl
@[simp] theorem State.setReed_calls (s : State) (q : Nat) (x : Reed) : (s.setReed q x).calls = s.calls := rfl
@[simp] theorem State.setReed_msgs (s : State) (q : Nat) (x : Reed) : (s.setReed q x).msgs = s.msgs := rfl
@[simp] theorem State.setReed_tissues (s : State) (q : Nat) (x : Reed) : (s.setReed q x).tissues = s.tissues := rfl
@[simp] theorem State.setReed_late (s : State) (q : Nat) (x : Reed) : (s.setReed q x).late = s.late := rfl
@[simp] theorem State.setReed_groups (s : State) (q : Nat) (x : Reed) : (s.setReed q x).groups = s.groups := rfl
@[simp] theorem State.setReed_launches (s : State) (q : Nat) (x : Reed) : (s.setReed q x).launches = s.launches := rfl
@[simp] theorem State.setReed_ctxs (s : State) (q : Nat) (x : Reed) : (s.setReed q x).ctxs = s.ctxs := rfl
@[simp] theorem State.setReed_parts (s : State) (q : Nat) (x : Reed) : (s.setReed q x).parts = s.parts := rfl
@[simp] theorem State.setReed_queues (s : State) (q : Nat) (x : Reed) : (s.setReed q x).queues = s.queues := rfl
@[simp] theorem State.setReed_savedCtx (s : State) (q : Nat) (x : Reed) : (s.setReed q x).savedCtx = s.savedCtx := rfl
@[simp] theorem State.setReed_host (s : State) (q : Nat) (x : Reed) : (s.setReed q x).host = s.host := rfl
@[simp] theorem State.setReed_hostq (s : State) (q : Nat) (x : Reed) : (s.setReed q x).hostq = s.hostq := rfl
@[simp] theorem State.setReed_peerq (s : State) (q : Nat) (x : Reed) : (s.setReed q x).peerq = s.peerq := rfl
@[simp] theorem State.setReed_toPeer (s : State) (q : Nat) (x : Reed) : (s.setReed q x).toPeer = s.toPeer := rfl
@[simp] theorem State.setReed_peerAns (s : State) (q : Nat) (x : Reed) : (s.setReed q x).peerAns = s.peerAns := rfl
@[simp] theorem State.setReed_cwport (s : State) (q : Nat) (x : Reed) : (s.setReed q x).cwport = s.cwport := rfl
@[simp] theorem State.setReed_planes (s : State) (q : Nat) (x : Reed) : (s.setReed q x).planes = s.planes := rfl
@[simp] theorem State.setReed_pwrcap (s : State) (q : Nat) (x : Reed) : (s.setReed q x).pwrcap = s.pwrcap := rfl
@[simp] theorem State.setReed_throttle (s : State) (q : Nat) (x : Reed) : (s.setReed q x).throttle = s.throttle := rfl
@[simp] theorem State.setReed_therm (s : State) (q : Nat) (x : Reed) : (s.setReed q x).therm = s.therm := rfl
@[simp] theorem State.setReed_nvmNext (s : State) (q : Nat) (x : Reed) : (s.setReed q x).nvmNext = s.nvmNext := rfl
@[simp] theorem State.setReed_meas (s : State) (q : Nat) (x : Reed) : (s.setReed q x).meas = s.meas := rfl
@[simp] theorem State.setReed_feaddrReg (s : State) (q : Nat) (x : Reed) : (s.setReed q x).feaddrReg = s.feaddrReg := rfl
@[simp] theorem State.setReed_feq (s : State) (q : Nat) (x : Reed) : (s.setReed q x).feq = s.feq := rfl
@[simp] theorem State.setReed_hostReads (s : State) (q : Nat) (x : Reed) : (s.setReed q x).hostReads = s.hostReads := rfl
@[simp] theorem State.setReed_winq (s : State) (q : Nat) (x : Reed) : (s.setReed q x).winq = s.winq := rfl
@[simp] theorem State.setReed_attq (s : State) (q : Nat) (x : Reed) : (s.setReed q x).attq = s.attq := rfl
@[simp] theorem State.setReed_appSpared (s : State) (q : Nat) (x : Reed) : (s.setReed q x).appSpared = s.appSpared := rfl
@[simp] theorem State.setReed_linkDown (s : State) (q : Nat) (x : Reed) : (s.setReed q x).linkDown = s.linkDown := rfl

@[simp] theorem State.setSluice_cur (s : State) (q g : Nat) (x : Sluice) : (s.setSluice q g x).cur = s.cur := rfl
@[simp] theorem State.setSluice_agenda (s : State) (q g : Nat) (x : Sluice) : (s.setSluice q g x).agenda = s.agenda := rfl
@[simp] theorem State.setSluice_turns (s : State) (q g : Nat) (x : Sluice) : (s.setSluice q g x).turns = s.turns := rfl
@[simp] theorem State.setSluice_frees (s : State) (q g : Nat) (x : Sluice) : (s.setSluice q g x).frees = s.frees := rfl
@[simp] theorem State.setSluice_clk (s : State) (q g : Nat) (x : Sluice) : (s.setSluice q g x).clk = s.clk := rfl
@[simp] theorem State.setSluice_fresh (s : State) (q g : Nat) (x : Sluice) : (s.setSluice q g x).fresh = s.fresh := rfl
@[simp] theorem State.setSluice_boot (s : State) (q g : Nat) (x : Sluice) : (s.setSluice q g x).boot = s.boot := rfl
@[simp] theorem State.setSluice_slots (s : State) (q g : Nat) (x : Sluice) : (s.setSluice q g x).slots = s.slots := rfl
@[simp] theorem State.setSluice_clusters (s : State) (q g : Nat) (x : Sluice) : (s.setSluice q g x).clusters = s.clusters := rfl
@[simp] theorem State.setSluice_halves (s : State) (q g : Nat) (x : Sluice) : (s.setSluice q g x).halves = s.halves := rfl
@[simp] theorem State.setSluice_dies (s : State) (q g : Nat) (x : Sluice) : (s.setSluice q g x).dies = s.dies := rfl
@[simp] theorem State.setSluice_runs (s : State) (q g : Nat) (x : Sluice) : (s.setSluice q g x).runs = s.runs := rfl
@[simp] theorem State.setSluice_ins (s : State) (q g : Nat) (x : Sluice) : (s.setSluice q g x).ins = s.ins := rfl
@[simp] theorem State.setSluice_vunit (s : State) (q g : Nat) (x : Sluice) : (s.setSluice q g x).vunit = s.vunit := rfl
@[simp] theorem State.setSluice_mem (s : State) (q g : Nat) (x : Sluice) : (s.setSluice q g x).mem = s.mem := rfl
@[simp] theorem State.setSluice_full (s : State) (q g : Nat) (x : Sluice) : (s.setSluice q g x).full = s.full := rfl
@[simp] theorem State.setSluice_cells (s : State) (q g : Nat) (x : Sluice) : (s.setSluice q g x).cells = s.cells := rfl
@[simp] theorem State.setSluice_poison (s : State) (q g : Nat) (x : Sluice) : (s.setSluice q g x).poison = s.poison := rfl
@[simp] theorem State.setSluice_reeds (s : State) (q g : Nat) (x : Sluice) : (s.setSluice q g x).reeds = s.reeds := rfl
@[simp] theorem State.setSluice_sluices (s : State) (q g : Nat) (x : Sluice) : (s.setSluice q g x).sluices = aset s.sluices (q, g) x := rfl
@[simp] theorem State.setSluice_asked (s : State) (q g : Nat) (x : Sluice) : (s.setSluice q g x).asked = s.asked := rfl
@[simp] theorem State.setSluice_loads (s : State) (q g : Nat) (x : Sluice) : (s.setSluice q g x).loads = s.loads := rfl
@[simp] theorem State.setSluice_copies (s : State) (q g : Nat) (x : Sluice) : (s.setSluice q g x).copies = s.copies := rfl
@[simp] theorem State.setSluice_winnow (s : State) (q g : Nat) (x : Sluice) : (s.setSluice q g x).winnow = s.winnow := rfl
@[simp] theorem State.setSluice_calls (s : State) (q g : Nat) (x : Sluice) : (s.setSluice q g x).calls = s.calls := rfl
@[simp] theorem State.setSluice_msgs (s : State) (q g : Nat) (x : Sluice) : (s.setSluice q g x).msgs = s.msgs := rfl
@[simp] theorem State.setSluice_tissues (s : State) (q g : Nat) (x : Sluice) : (s.setSluice q g x).tissues = s.tissues := rfl
@[simp] theorem State.setSluice_late (s : State) (q g : Nat) (x : Sluice) : (s.setSluice q g x).late = s.late := rfl
@[simp] theorem State.setSluice_groups (s : State) (q g : Nat) (x : Sluice) : (s.setSluice q g x).groups = s.groups := rfl
@[simp] theorem State.setSluice_launches (s : State) (q g : Nat) (x : Sluice) : (s.setSluice q g x).launches = s.launches := rfl
@[simp] theorem State.setSluice_ctxs (s : State) (q g : Nat) (x : Sluice) : (s.setSluice q g x).ctxs = s.ctxs := rfl
@[simp] theorem State.setSluice_parts (s : State) (q g : Nat) (x : Sluice) : (s.setSluice q g x).parts = s.parts := rfl
@[simp] theorem State.setSluice_queues (s : State) (q g : Nat) (x : Sluice) : (s.setSluice q g x).queues = s.queues := rfl
@[simp] theorem State.setSluice_savedCtx (s : State) (q g : Nat) (x : Sluice) : (s.setSluice q g x).savedCtx = s.savedCtx := rfl
@[simp] theorem State.setSluice_host (s : State) (q g : Nat) (x : Sluice) : (s.setSluice q g x).host = s.host := rfl
@[simp] theorem State.setSluice_hostq (s : State) (q g : Nat) (x : Sluice) : (s.setSluice q g x).hostq = s.hostq := rfl
@[simp] theorem State.setSluice_peerq (s : State) (q g : Nat) (x : Sluice) : (s.setSluice q g x).peerq = s.peerq := rfl
@[simp] theorem State.setSluice_toPeer (s : State) (q g : Nat) (x : Sluice) : (s.setSluice q g x).toPeer = s.toPeer := rfl
@[simp] theorem State.setSluice_peerAns (s : State) (q g : Nat) (x : Sluice) : (s.setSluice q g x).peerAns = s.peerAns := rfl
@[simp] theorem State.setSluice_cwport (s : State) (q g : Nat) (x : Sluice) : (s.setSluice q g x).cwport = s.cwport := rfl
@[simp] theorem State.setSluice_planes (s : State) (q g : Nat) (x : Sluice) : (s.setSluice q g x).planes = s.planes := rfl
@[simp] theorem State.setSluice_pwrcap (s : State) (q g : Nat) (x : Sluice) : (s.setSluice q g x).pwrcap = s.pwrcap := rfl
@[simp] theorem State.setSluice_throttle (s : State) (q g : Nat) (x : Sluice) : (s.setSluice q g x).throttle = s.throttle := rfl
@[simp] theorem State.setSluice_therm (s : State) (q g : Nat) (x : Sluice) : (s.setSluice q g x).therm = s.therm := rfl
@[simp] theorem State.setSluice_nvmNext (s : State) (q g : Nat) (x : Sluice) : (s.setSluice q g x).nvmNext = s.nvmNext := rfl
@[simp] theorem State.setSluice_meas (s : State) (q g : Nat) (x : Sluice) : (s.setSluice q g x).meas = s.meas := rfl
@[simp] theorem State.setSluice_feaddrReg (s : State) (q g : Nat) (x : Sluice) : (s.setSluice q g x).feaddrReg = s.feaddrReg := rfl
@[simp] theorem State.setSluice_feq (s : State) (q g : Nat) (x : Sluice) : (s.setSluice q g x).feq = s.feq := rfl
@[simp] theorem State.setSluice_hostReads (s : State) (q g : Nat) (x : Sluice) : (s.setSluice q g x).hostReads = s.hostReads := rfl
@[simp] theorem State.setSluice_winq (s : State) (q g : Nat) (x : Sluice) : (s.setSluice q g x).winq = s.winq := rfl
@[simp] theorem State.setSluice_attq (s : State) (q g : Nat) (x : Sluice) : (s.setSluice q g x).attq = s.attq := rfl
@[simp] theorem State.setSluice_appSpared (s : State) (q g : Nat) (x : Sluice) : (s.setSluice q g x).appSpared = s.appSpared := rfl
@[simp] theorem State.setSluice_linkDown (s : State) (q g : Nat) (x : Sluice) : (s.setSluice q g x).linkDown = s.linkDown := rfl

@[simp] theorem State.setHalf_cur (s : State) (d c x : Nat) (h : Half) : (s.setHalf d c x h).cur = s.cur := rfl
@[simp] theorem State.setHalf_agenda (s : State) (d c x : Nat) (h : Half) : (s.setHalf d c x h).agenda = s.agenda := rfl
@[simp] theorem State.setHalf_turns (s : State) (d c x : Nat) (h : Half) : (s.setHalf d c x h).turns = s.turns := rfl
@[simp] theorem State.setHalf_frees (s : State) (d c x : Nat) (h : Half) : (s.setHalf d c x h).frees = s.frees := rfl
@[simp] theorem State.setHalf_clk (s : State) (d c x : Nat) (h : Half) : (s.setHalf d c x h).clk = s.clk := rfl
@[simp] theorem State.setHalf_fresh (s : State) (d c x : Nat) (h : Half) : (s.setHalf d c x h).fresh = s.fresh := rfl
@[simp] theorem State.setHalf_boot (s : State) (d c x : Nat) (h : Half) : (s.setHalf d c x h).boot = s.boot := rfl
@[simp] theorem State.setHalf_slots (s : State) (d c x : Nat) (h : Half) : (s.setHalf d c x h).slots = s.slots := rfl
@[simp] theorem State.setHalf_clusters (s : State) (d c x : Nat) (h : Half) : (s.setHalf d c x h).clusters = s.clusters := rfl
@[simp] theorem State.setHalf_halves (s : State) (d c x : Nat) (h : Half) : (s.setHalf d c x h).halves = aset s.halves (d, c, x) h := rfl
@[simp] theorem State.setHalf_dies (s : State) (d c x : Nat) (h : Half) : (s.setHalf d c x h).dies = s.dies := rfl
@[simp] theorem State.setHalf_runs (s : State) (d c x : Nat) (h : Half) : (s.setHalf d c x h).runs = s.runs := rfl
@[simp] theorem State.setHalf_ins (s : State) (d c x : Nat) (h : Half) : (s.setHalf d c x h).ins = s.ins := rfl
@[simp] theorem State.setHalf_vunit (s : State) (d c x : Nat) (h : Half) : (s.setHalf d c x h).vunit = s.vunit := rfl
@[simp] theorem State.setHalf_mem (s : State) (d c x : Nat) (h : Half) : (s.setHalf d c x h).mem = s.mem := rfl
@[simp] theorem State.setHalf_full (s : State) (d c x : Nat) (h : Half) : (s.setHalf d c x h).full = s.full := rfl
@[simp] theorem State.setHalf_cells (s : State) (d c x : Nat) (h : Half) : (s.setHalf d c x h).cells = s.cells := rfl
@[simp] theorem State.setHalf_poison (s : State) (d c x : Nat) (h : Half) : (s.setHalf d c x h).poison = s.poison := rfl
@[simp] theorem State.setHalf_reeds (s : State) (d c x : Nat) (h : Half) : (s.setHalf d c x h).reeds = s.reeds := rfl
@[simp] theorem State.setHalf_sluices (s : State) (d c x : Nat) (h : Half) : (s.setHalf d c x h).sluices = s.sluices := rfl
@[simp] theorem State.setHalf_asked (s : State) (d c x : Nat) (h : Half) : (s.setHalf d c x h).asked = s.asked := rfl
@[simp] theorem State.setHalf_loads (s : State) (d c x : Nat) (h : Half) : (s.setHalf d c x h).loads = s.loads := rfl
@[simp] theorem State.setHalf_copies (s : State) (d c x : Nat) (h : Half) : (s.setHalf d c x h).copies = s.copies := rfl
@[simp] theorem State.setHalf_winnow (s : State) (d c x : Nat) (h : Half) : (s.setHalf d c x h).winnow = s.winnow := rfl
@[simp] theorem State.setHalf_calls (s : State) (d c x : Nat) (h : Half) : (s.setHalf d c x h).calls = s.calls := rfl
@[simp] theorem State.setHalf_msgs (s : State) (d c x : Nat) (h : Half) : (s.setHalf d c x h).msgs = s.msgs := rfl
@[simp] theorem State.setHalf_tissues (s : State) (d c x : Nat) (h : Half) : (s.setHalf d c x h).tissues = s.tissues := rfl
@[simp] theorem State.setHalf_late (s : State) (d c x : Nat) (h : Half) : (s.setHalf d c x h).late = s.late := rfl
@[simp] theorem State.setHalf_groups (s : State) (d c x : Nat) (h : Half) : (s.setHalf d c x h).groups = s.groups := rfl
@[simp] theorem State.setHalf_launches (s : State) (d c x : Nat) (h : Half) : (s.setHalf d c x h).launches = s.launches := rfl
@[simp] theorem State.setHalf_ctxs (s : State) (d c x : Nat) (h : Half) : (s.setHalf d c x h).ctxs = s.ctxs := rfl
@[simp] theorem State.setHalf_parts (s : State) (d c x : Nat) (h : Half) : (s.setHalf d c x h).parts = s.parts := rfl
@[simp] theorem State.setHalf_queues (s : State) (d c x : Nat) (h : Half) : (s.setHalf d c x h).queues = s.queues := rfl
@[simp] theorem State.setHalf_savedCtx (s : State) (d c x : Nat) (h : Half) : (s.setHalf d c x h).savedCtx = s.savedCtx := rfl
@[simp] theorem State.setHalf_host (s : State) (d c x : Nat) (h : Half) : (s.setHalf d c x h).host = s.host := rfl
@[simp] theorem State.setHalf_hostq (s : State) (d c x : Nat) (h : Half) : (s.setHalf d c x h).hostq = s.hostq := rfl
@[simp] theorem State.setHalf_peerq (s : State) (d c x : Nat) (h : Half) : (s.setHalf d c x h).peerq = s.peerq := rfl
@[simp] theorem State.setHalf_toPeer (s : State) (d c x : Nat) (h : Half) : (s.setHalf d c x h).toPeer = s.toPeer := rfl
@[simp] theorem State.setHalf_peerAns (s : State) (d c x : Nat) (h : Half) : (s.setHalf d c x h).peerAns = s.peerAns := rfl
@[simp] theorem State.setHalf_cwport (s : State) (d c x : Nat) (h : Half) : (s.setHalf d c x h).cwport = s.cwport := rfl
@[simp] theorem State.setHalf_planes (s : State) (d c x : Nat) (h : Half) : (s.setHalf d c x h).planes = s.planes := rfl
@[simp] theorem State.setHalf_pwrcap (s : State) (d c x : Nat) (h : Half) : (s.setHalf d c x h).pwrcap = s.pwrcap := rfl
@[simp] theorem State.setHalf_throttle (s : State) (d c x : Nat) (h : Half) : (s.setHalf d c x h).throttle = s.throttle := rfl
@[simp] theorem State.setHalf_therm (s : State) (d c x : Nat) (h : Half) : (s.setHalf d c x h).therm = s.therm := rfl
@[simp] theorem State.setHalf_nvmNext (s : State) (d c x : Nat) (h : Half) : (s.setHalf d c x h).nvmNext = s.nvmNext := rfl
@[simp] theorem State.setHalf_meas (s : State) (d c x : Nat) (h : Half) : (s.setHalf d c x h).meas = s.meas := rfl
@[simp] theorem State.setHalf_feaddrReg (s : State) (d c x : Nat) (h : Half) : (s.setHalf d c x h).feaddrReg = s.feaddrReg := rfl
@[simp] theorem State.setHalf_feq (s : State) (d c x : Nat) (h : Half) : (s.setHalf d c x h).feq = s.feq := rfl
@[simp] theorem State.setHalf_hostReads (s : State) (d c x : Nat) (h : Half) : (s.setHalf d c x h).hostReads = s.hostReads := rfl
@[simp] theorem State.setHalf_winq (s : State) (d c x : Nat) (h : Half) : (s.setHalf d c x h).winq = s.winq := rfl
@[simp] theorem State.setHalf_attq (s : State) (d c x : Nat) (h : Half) : (s.setHalf d c x h).attq = s.attq := rfl
@[simp] theorem State.setHalf_appSpared (s : State) (d c x : Nat) (h : Half) : (s.setHalf d c x h).appSpared = s.appSpared := rfl
@[simp] theorem State.setHalf_linkDown (s : State) (d c x : Nat) (h : Half) : (s.setHalf d c x h).linkDown = s.linkDown := rfl

@[simp] theorem State.setCluster_cur (s : State) (d c : Nat) (x : Cluster) : (s.setCluster d c x).cur = s.cur := rfl
@[simp] theorem State.setCluster_agenda (s : State) (d c : Nat) (x : Cluster) : (s.setCluster d c x).agenda = s.agenda := rfl
@[simp] theorem State.setCluster_turns (s : State) (d c : Nat) (x : Cluster) : (s.setCluster d c x).turns = s.turns := rfl
@[simp] theorem State.setCluster_frees (s : State) (d c : Nat) (x : Cluster) : (s.setCluster d c x).frees = s.frees := rfl
@[simp] theorem State.setCluster_clk (s : State) (d c : Nat) (x : Cluster) : (s.setCluster d c x).clk = s.clk := rfl
@[simp] theorem State.setCluster_fresh (s : State) (d c : Nat) (x : Cluster) : (s.setCluster d c x).fresh = s.fresh := rfl
@[simp] theorem State.setCluster_boot (s : State) (d c : Nat) (x : Cluster) : (s.setCluster d c x).boot = s.boot := rfl
@[simp] theorem State.setCluster_slots (s : State) (d c : Nat) (x : Cluster) : (s.setCluster d c x).slots = s.slots := rfl
@[simp] theorem State.setCluster_clusters (s : State) (d c : Nat) (x : Cluster) : (s.setCluster d c x).clusters = aset s.clusters (d, c) x := rfl
@[simp] theorem State.setCluster_halves (s : State) (d c : Nat) (x : Cluster) : (s.setCluster d c x).halves = s.halves := rfl
@[simp] theorem State.setCluster_dies (s : State) (d c : Nat) (x : Cluster) : (s.setCluster d c x).dies = s.dies := rfl
@[simp] theorem State.setCluster_runs (s : State) (d c : Nat) (x : Cluster) : (s.setCluster d c x).runs = s.runs := rfl
@[simp] theorem State.setCluster_ins (s : State) (d c : Nat) (x : Cluster) : (s.setCluster d c x).ins = s.ins := rfl
@[simp] theorem State.setCluster_vunit (s : State) (d c : Nat) (x : Cluster) : (s.setCluster d c x).vunit = s.vunit := rfl
@[simp] theorem State.setCluster_mem (s : State) (d c : Nat) (x : Cluster) : (s.setCluster d c x).mem = s.mem := rfl
@[simp] theorem State.setCluster_full (s : State) (d c : Nat) (x : Cluster) : (s.setCluster d c x).full = s.full := rfl
@[simp] theorem State.setCluster_cells (s : State) (d c : Nat) (x : Cluster) : (s.setCluster d c x).cells = s.cells := rfl
@[simp] theorem State.setCluster_poison (s : State) (d c : Nat) (x : Cluster) : (s.setCluster d c x).poison = s.poison := rfl
@[simp] theorem State.setCluster_reeds (s : State) (d c : Nat) (x : Cluster) : (s.setCluster d c x).reeds = s.reeds := rfl
@[simp] theorem State.setCluster_sluices (s : State) (d c : Nat) (x : Cluster) : (s.setCluster d c x).sluices = s.sluices := rfl
@[simp] theorem State.setCluster_asked (s : State) (d c : Nat) (x : Cluster) : (s.setCluster d c x).asked = s.asked := rfl
@[simp] theorem State.setCluster_loads (s : State) (d c : Nat) (x : Cluster) : (s.setCluster d c x).loads = s.loads := rfl
@[simp] theorem State.setCluster_copies (s : State) (d c : Nat) (x : Cluster) : (s.setCluster d c x).copies = s.copies := rfl
@[simp] theorem State.setCluster_winnow (s : State) (d c : Nat) (x : Cluster) : (s.setCluster d c x).winnow = s.winnow := rfl
@[simp] theorem State.setCluster_calls (s : State) (d c : Nat) (x : Cluster) : (s.setCluster d c x).calls = s.calls := rfl
@[simp] theorem State.setCluster_msgs (s : State) (d c : Nat) (x : Cluster) : (s.setCluster d c x).msgs = s.msgs := rfl
@[simp] theorem State.setCluster_tissues (s : State) (d c : Nat) (x : Cluster) : (s.setCluster d c x).tissues = s.tissues := rfl
@[simp] theorem State.setCluster_late (s : State) (d c : Nat) (x : Cluster) : (s.setCluster d c x).late = s.late := rfl
@[simp] theorem State.setCluster_groups (s : State) (d c : Nat) (x : Cluster) : (s.setCluster d c x).groups = s.groups := rfl
@[simp] theorem State.setCluster_launches (s : State) (d c : Nat) (x : Cluster) : (s.setCluster d c x).launches = s.launches := rfl
@[simp] theorem State.setCluster_ctxs (s : State) (d c : Nat) (x : Cluster) : (s.setCluster d c x).ctxs = s.ctxs := rfl
@[simp] theorem State.setCluster_parts (s : State) (d c : Nat) (x : Cluster) : (s.setCluster d c x).parts = s.parts := rfl
@[simp] theorem State.setCluster_queues (s : State) (d c : Nat) (x : Cluster) : (s.setCluster d c x).queues = s.queues := rfl
@[simp] theorem State.setCluster_savedCtx (s : State) (d c : Nat) (x : Cluster) : (s.setCluster d c x).savedCtx = s.savedCtx := rfl
@[simp] theorem State.setCluster_host (s : State) (d c : Nat) (x : Cluster) : (s.setCluster d c x).host = s.host := rfl
@[simp] theorem State.setCluster_hostq (s : State) (d c : Nat) (x : Cluster) : (s.setCluster d c x).hostq = s.hostq := rfl
@[simp] theorem State.setCluster_peerq (s : State) (d c : Nat) (x : Cluster) : (s.setCluster d c x).peerq = s.peerq := rfl
@[simp] theorem State.setCluster_toPeer (s : State) (d c : Nat) (x : Cluster) : (s.setCluster d c x).toPeer = s.toPeer := rfl
@[simp] theorem State.setCluster_peerAns (s : State) (d c : Nat) (x : Cluster) : (s.setCluster d c x).peerAns = s.peerAns := rfl
@[simp] theorem State.setCluster_cwport (s : State) (d c : Nat) (x : Cluster) : (s.setCluster d c x).cwport = s.cwport := rfl
@[simp] theorem State.setCluster_planes (s : State) (d c : Nat) (x : Cluster) : (s.setCluster d c x).planes = s.planes := rfl
@[simp] theorem State.setCluster_pwrcap (s : State) (d c : Nat) (x : Cluster) : (s.setCluster d c x).pwrcap = s.pwrcap := rfl
@[simp] theorem State.setCluster_throttle (s : State) (d c : Nat) (x : Cluster) : (s.setCluster d c x).throttle = s.throttle := rfl
@[simp] theorem State.setCluster_therm (s : State) (d c : Nat) (x : Cluster) : (s.setCluster d c x).therm = s.therm := rfl
@[simp] theorem State.setCluster_nvmNext (s : State) (d c : Nat) (x : Cluster) : (s.setCluster d c x).nvmNext = s.nvmNext := rfl
@[simp] theorem State.setCluster_meas (s : State) (d c : Nat) (x : Cluster) : (s.setCluster d c x).meas = s.meas := rfl
@[simp] theorem State.setCluster_feaddrReg (s : State) (d c : Nat) (x : Cluster) : (s.setCluster d c x).feaddrReg = s.feaddrReg := rfl
@[simp] theorem State.setCluster_feq (s : State) (d c : Nat) (x : Cluster) : (s.setCluster d c x).feq = s.feq := rfl
@[simp] theorem State.setCluster_hostReads (s : State) (d c : Nat) (x : Cluster) : (s.setCluster d c x).hostReads = s.hostReads := rfl
@[simp] theorem State.setCluster_winq (s : State) (d c : Nat) (x : Cluster) : (s.setCluster d c x).winq = s.winq := rfl
@[simp] theorem State.setCluster_attq (s : State) (d c : Nat) (x : Cluster) : (s.setCluster d c x).attq = s.attq := rfl
@[simp] theorem State.setCluster_appSpared (s : State) (d c : Nat) (x : Cluster) : (s.setCluster d c x).appSpared = s.appSpared := rfl
@[simp] theorem State.setCluster_linkDown (s : State) (d c : Nat) (x : Cluster) : (s.setCluster d c x).linkDown = s.linkDown := rfl

@[simp] theorem State.setRun_cur (s : State) (r : RunId) (x : Run) : (s.setRun r x).cur = s.cur := rfl
@[simp] theorem State.setRun_agenda (s : State) (r : RunId) (x : Run) : (s.setRun r x).agenda = s.agenda := rfl
@[simp] theorem State.setRun_turns (s : State) (r : RunId) (x : Run) : (s.setRun r x).turns = s.turns := rfl
@[simp] theorem State.setRun_frees (s : State) (r : RunId) (x : Run) : (s.setRun r x).frees = s.frees := rfl
@[simp] theorem State.setRun_clk (s : State) (r : RunId) (x : Run) : (s.setRun r x).clk = s.clk := rfl
@[simp] theorem State.setRun_fresh (s : State) (r : RunId) (x : Run) : (s.setRun r x).fresh = s.fresh := rfl
@[simp] theorem State.setRun_boot (s : State) (r : RunId) (x : Run) : (s.setRun r x).boot = s.boot := rfl
@[simp] theorem State.setRun_slots (s : State) (r : RunId) (x : Run) : (s.setRun r x).slots = s.slots := rfl
@[simp] theorem State.setRun_clusters (s : State) (r : RunId) (x : Run) : (s.setRun r x).clusters = s.clusters := rfl
@[simp] theorem State.setRun_halves (s : State) (r : RunId) (x : Run) : (s.setRun r x).halves = s.halves := rfl
@[simp] theorem State.setRun_dies (s : State) (r : RunId) (x : Run) : (s.setRun r x).dies = s.dies := rfl
@[simp] theorem State.setRun_runs (s : State) (r : RunId) (x : Run) : (s.setRun r x).runs = aset s.runs r x := rfl
@[simp] theorem State.setRun_ins (s : State) (r : RunId) (x : Run) : (s.setRun r x).ins = s.ins := rfl
@[simp] theorem State.setRun_vunit (s : State) (r : RunId) (x : Run) : (s.setRun r x).vunit = s.vunit := rfl
@[simp] theorem State.setRun_mem (s : State) (r : RunId) (x : Run) : (s.setRun r x).mem = s.mem := rfl
@[simp] theorem State.setRun_full (s : State) (r : RunId) (x : Run) : (s.setRun r x).full = s.full := rfl
@[simp] theorem State.setRun_cells (s : State) (r : RunId) (x : Run) : (s.setRun r x).cells = s.cells := rfl
@[simp] theorem State.setRun_poison (s : State) (r : RunId) (x : Run) : (s.setRun r x).poison = s.poison := rfl
@[simp] theorem State.setRun_reeds (s : State) (r : RunId) (x : Run) : (s.setRun r x).reeds = s.reeds := rfl
@[simp] theorem State.setRun_sluices (s : State) (r : RunId) (x : Run) : (s.setRun r x).sluices = s.sluices := rfl
@[simp] theorem State.setRun_asked (s : State) (r : RunId) (x : Run) : (s.setRun r x).asked = s.asked := rfl
@[simp] theorem State.setRun_loads (s : State) (r : RunId) (x : Run) : (s.setRun r x).loads = s.loads := rfl
@[simp] theorem State.setRun_copies (s : State) (r : RunId) (x : Run) : (s.setRun r x).copies = s.copies := rfl
@[simp] theorem State.setRun_winnow (s : State) (r : RunId) (x : Run) : (s.setRun r x).winnow = s.winnow := rfl
@[simp] theorem State.setRun_calls (s : State) (r : RunId) (x : Run) : (s.setRun r x).calls = s.calls := rfl
@[simp] theorem State.setRun_msgs (s : State) (r : RunId) (x : Run) : (s.setRun r x).msgs = s.msgs := rfl
@[simp] theorem State.setRun_tissues (s : State) (r : RunId) (x : Run) : (s.setRun r x).tissues = s.tissues := rfl
@[simp] theorem State.setRun_late (s : State) (r : RunId) (x : Run) : (s.setRun r x).late = s.late := rfl
@[simp] theorem State.setRun_groups (s : State) (r : RunId) (x : Run) : (s.setRun r x).groups = s.groups := rfl
@[simp] theorem State.setRun_launches (s : State) (r : RunId) (x : Run) : (s.setRun r x).launches = s.launches := rfl
@[simp] theorem State.setRun_ctxs (s : State) (r : RunId) (x : Run) : (s.setRun r x).ctxs = s.ctxs := rfl
@[simp] theorem State.setRun_parts (s : State) (r : RunId) (x : Run) : (s.setRun r x).parts = s.parts := rfl
@[simp] theorem State.setRun_queues (s : State) (r : RunId) (x : Run) : (s.setRun r x).queues = s.queues := rfl
@[simp] theorem State.setRun_savedCtx (s : State) (r : RunId) (x : Run) : (s.setRun r x).savedCtx = s.savedCtx := rfl
@[simp] theorem State.setRun_host (s : State) (r : RunId) (x : Run) : (s.setRun r x).host = s.host := rfl
@[simp] theorem State.setRun_hostq (s : State) (r : RunId) (x : Run) : (s.setRun r x).hostq = s.hostq := rfl
@[simp] theorem State.setRun_peerq (s : State) (r : RunId) (x : Run) : (s.setRun r x).peerq = s.peerq := rfl
@[simp] theorem State.setRun_toPeer (s : State) (r : RunId) (x : Run) : (s.setRun r x).toPeer = s.toPeer := rfl
@[simp] theorem State.setRun_peerAns (s : State) (r : RunId) (x : Run) : (s.setRun r x).peerAns = s.peerAns := rfl
@[simp] theorem State.setRun_cwport (s : State) (r : RunId) (x : Run) : (s.setRun r x).cwport = s.cwport := rfl
@[simp] theorem State.setRun_planes (s : State) (r : RunId) (x : Run) : (s.setRun r x).planes = s.planes := rfl
@[simp] theorem State.setRun_pwrcap (s : State) (r : RunId) (x : Run) : (s.setRun r x).pwrcap = s.pwrcap := rfl
@[simp] theorem State.setRun_throttle (s : State) (r : RunId) (x : Run) : (s.setRun r x).throttle = s.throttle := rfl
@[simp] theorem State.setRun_therm (s : State) (r : RunId) (x : Run) : (s.setRun r x).therm = s.therm := rfl
@[simp] theorem State.setRun_nvmNext (s : State) (r : RunId) (x : Run) : (s.setRun r x).nvmNext = s.nvmNext := rfl
@[simp] theorem State.setRun_meas (s : State) (r : RunId) (x : Run) : (s.setRun r x).meas = s.meas := rfl
@[simp] theorem State.setRun_feaddrReg (s : State) (r : RunId) (x : Run) : (s.setRun r x).feaddrReg = s.feaddrReg := rfl
@[simp] theorem State.setRun_feq (s : State) (r : RunId) (x : Run) : (s.setRun r x).feq = s.feq := rfl
@[simp] theorem State.setRun_hostReads (s : State) (r : RunId) (x : Run) : (s.setRun r x).hostReads = s.hostReads := rfl
@[simp] theorem State.setRun_winq (s : State) (r : RunId) (x : Run) : (s.setRun r x).winq = s.winq := rfl
@[simp] theorem State.setRun_attq (s : State) (r : RunId) (x : Run) : (s.setRun r x).attq = s.attq := rfl
@[simp] theorem State.setRun_appSpared (s : State) (r : RunId) (x : Run) : (s.setRun r x).appSpared = s.appSpared := rfl
@[simp] theorem State.setRun_linkDown (s : State) (r : RunId) (x : Run) : (s.setRun r x).linkDown = s.linkDown := rfl

@[simp] theorem State.newId_cur (s : State) : (s.newId).cur = s.cur := rfl
@[simp] theorem State.newId_agenda (s : State) : (s.newId).agenda = s.agenda := rfl
@[simp] theorem State.newId_turns (s : State) : (s.newId).turns = s.turns := rfl
@[simp] theorem State.newId_frees (s : State) : (s.newId).frees = s.frees := rfl
@[simp] theorem State.newId_clk (s : State) : (s.newId).clk = s.clk := rfl
@[simp] theorem State.newId_fresh (s : State) : (s.newId).fresh = s.fresh + 1 := rfl
@[simp] theorem State.newId_boot (s : State) : (s.newId).boot = s.boot := rfl
@[simp] theorem State.newId_slots (s : State) : (s.newId).slots = s.slots := rfl
@[simp] theorem State.newId_clusters (s : State) : (s.newId).clusters = s.clusters := rfl
@[simp] theorem State.newId_halves (s : State) : (s.newId).halves = s.halves := rfl
@[simp] theorem State.newId_dies (s : State) : (s.newId).dies = s.dies := rfl
@[simp] theorem State.newId_runs (s : State) : (s.newId).runs = s.runs := rfl
@[simp] theorem State.newId_ins (s : State) : (s.newId).ins = s.ins := rfl
@[simp] theorem State.newId_vunit (s : State) : (s.newId).vunit = s.vunit := rfl
@[simp] theorem State.newId_mem (s : State) : (s.newId).mem = s.mem := rfl
@[simp] theorem State.newId_full (s : State) : (s.newId).full = s.full := rfl
@[simp] theorem State.newId_cells (s : State) : (s.newId).cells = s.cells := rfl
@[simp] theorem State.newId_poison (s : State) : (s.newId).poison = s.poison := rfl
@[simp] theorem State.newId_reeds (s : State) : (s.newId).reeds = s.reeds := rfl
@[simp] theorem State.newId_sluices (s : State) : (s.newId).sluices = s.sluices := rfl
@[simp] theorem State.newId_asked (s : State) : (s.newId).asked = s.asked := rfl
@[simp] theorem State.newId_loads (s : State) : (s.newId).loads = s.loads := rfl
@[simp] theorem State.newId_copies (s : State) : (s.newId).copies = s.copies := rfl
@[simp] theorem State.newId_winnow (s : State) : (s.newId).winnow = s.winnow := rfl
@[simp] theorem State.newId_calls (s : State) : (s.newId).calls = s.calls := rfl
@[simp] theorem State.newId_msgs (s : State) : (s.newId).msgs = s.msgs := rfl
@[simp] theorem State.newId_tissues (s : State) : (s.newId).tissues = s.tissues := rfl
@[simp] theorem State.newId_late (s : State) : (s.newId).late = s.late := rfl
@[simp] theorem State.newId_groups (s : State) : (s.newId).groups = s.groups := rfl
@[simp] theorem State.newId_launches (s : State) : (s.newId).launches = s.launches := rfl
@[simp] theorem State.newId_ctxs (s : State) : (s.newId).ctxs = s.ctxs := rfl
@[simp] theorem State.newId_parts (s : State) : (s.newId).parts = s.parts := rfl
@[simp] theorem State.newId_queues (s : State) : (s.newId).queues = s.queues := rfl
@[simp] theorem State.newId_savedCtx (s : State) : (s.newId).savedCtx = s.savedCtx := rfl
@[simp] theorem State.newId_host (s : State) : (s.newId).host = s.host := rfl
@[simp] theorem State.newId_hostq (s : State) : (s.newId).hostq = s.hostq := rfl
@[simp] theorem State.newId_peerq (s : State) : (s.newId).peerq = s.peerq := rfl
@[simp] theorem State.newId_toPeer (s : State) : (s.newId).toPeer = s.toPeer := rfl
@[simp] theorem State.newId_peerAns (s : State) : (s.newId).peerAns = s.peerAns := rfl
@[simp] theorem State.newId_cwport (s : State) : (s.newId).cwport = s.cwport := rfl
@[simp] theorem State.newId_planes (s : State) : (s.newId).planes = s.planes := rfl
@[simp] theorem State.newId_pwrcap (s : State) : (s.newId).pwrcap = s.pwrcap := rfl
@[simp] theorem State.newId_throttle (s : State) : (s.newId).throttle = s.throttle := rfl
@[simp] theorem State.newId_therm (s : State) : (s.newId).therm = s.therm := rfl
@[simp] theorem State.newId_nvmNext (s : State) : (s.newId).nvmNext = s.nvmNext := rfl
@[simp] theorem State.newId_meas (s : State) : (s.newId).meas = s.meas := rfl
@[simp] theorem State.newId_feaddrReg (s : State) : (s.newId).feaddrReg = s.feaddrReg := rfl
@[simp] theorem State.newId_feq (s : State) : (s.newId).feq = s.feq := rfl
@[simp] theorem State.newId_hostReads (s : State) : (s.newId).hostReads = s.hostReads := rfl
@[simp] theorem State.newId_winq (s : State) : (s.newId).winq = s.winq := rfl
@[simp] theorem State.newId_attq (s : State) : (s.newId).attq = s.attq := rfl
@[simp] theorem State.newId_appSpared (s : State) : (s.newId).appSpared = s.appSpared := rfl
@[simp] theorem State.newId_linkDown (s : State) : (s.newId).linkDown = s.linkDown := rfl

@[simp] theorem State.setFull_cur (s : State) (lin : Nat) (b : Bool) : (s.setFull lin b).cur = s.cur := rfl
@[simp] theorem State.setFull_agenda (s : State) (lin : Nat) (b : Bool) : (s.setFull lin b).agenda = s.agenda := rfl
@[simp] theorem State.setFull_turns (s : State) (lin : Nat) (b : Bool) : (s.setFull lin b).turns = s.turns := rfl
@[simp] theorem State.setFull_frees (s : State) (lin : Nat) (b : Bool) : (s.setFull lin b).frees = s.frees := rfl
@[simp] theorem State.setFull_clk (s : State) (lin : Nat) (b : Bool) : (s.setFull lin b).clk = s.clk := rfl
@[simp] theorem State.setFull_fresh (s : State) (lin : Nat) (b : Bool) : (s.setFull lin b).fresh = s.fresh := rfl
@[simp] theorem State.setFull_boot (s : State) (lin : Nat) (b : Bool) : (s.setFull lin b).boot = s.boot := rfl
@[simp] theorem State.setFull_slots (s : State) (lin : Nat) (b : Bool) : (s.setFull lin b).slots = s.slots := rfl
@[simp] theorem State.setFull_clusters (s : State) (lin : Nat) (b : Bool) : (s.setFull lin b).clusters = s.clusters := rfl
@[simp] theorem State.setFull_halves (s : State) (lin : Nat) (b : Bool) : (s.setFull lin b).halves = s.halves := rfl
@[simp] theorem State.setFull_dies (s : State) (lin : Nat) (b : Bool) : (s.setFull lin b).dies = s.dies := rfl
@[simp] theorem State.setFull_runs (s : State) (lin : Nat) (b : Bool) : (s.setFull lin b).runs = s.runs := rfl
@[simp] theorem State.setFull_ins (s : State) (lin : Nat) (b : Bool) : (s.setFull lin b).ins = s.ins := rfl
@[simp] theorem State.setFull_vunit (s : State) (lin : Nat) (b : Bool) : (s.setFull lin b).vunit = s.vunit := rfl
@[simp] theorem State.setFull_mem (s : State) (lin : Nat) (b : Bool) : (s.setFull lin b).mem = s.mem := rfl
@[simp] theorem State.setFull_cells (s : State) (lin : Nat) (b : Bool) : (s.setFull lin b).cells = s.cells := rfl
@[simp] theorem State.setFull_poison (s : State) (lin : Nat) (b : Bool) : (s.setFull lin b).poison = s.poison := rfl
@[simp] theorem State.setFull_reeds (s : State) (lin : Nat) (b : Bool) : (s.setFull lin b).reeds = s.reeds := rfl
@[simp] theorem State.setFull_sluices (s : State) (lin : Nat) (b : Bool) : (s.setFull lin b).sluices = s.sluices := rfl
@[simp] theorem State.setFull_asked (s : State) (lin : Nat) (b : Bool) : (s.setFull lin b).asked = s.asked := rfl
@[simp] theorem State.setFull_loads (s : State) (lin : Nat) (b : Bool) : (s.setFull lin b).loads = s.loads := rfl
@[simp] theorem State.setFull_copies (s : State) (lin : Nat) (b : Bool) : (s.setFull lin b).copies = s.copies := rfl
@[simp] theorem State.setFull_winnow (s : State) (lin : Nat) (b : Bool) : (s.setFull lin b).winnow = s.winnow := rfl
@[simp] theorem State.setFull_calls (s : State) (lin : Nat) (b : Bool) : (s.setFull lin b).calls = s.calls := rfl
@[simp] theorem State.setFull_msgs (s : State) (lin : Nat) (b : Bool) : (s.setFull lin b).msgs = s.msgs := rfl
@[simp] theorem State.setFull_tissues (s : State) (lin : Nat) (b : Bool) : (s.setFull lin b).tissues = s.tissues := rfl
@[simp] theorem State.setFull_late (s : State) (lin : Nat) (b : Bool) : (s.setFull lin b).late = s.late := rfl
@[simp] theorem State.setFull_groups (s : State) (lin : Nat) (b : Bool) : (s.setFull lin b).groups = s.groups := rfl
@[simp] theorem State.setFull_launches (s : State) (lin : Nat) (b : Bool) : (s.setFull lin b).launches = s.launches := rfl
@[simp] theorem State.setFull_ctxs (s : State) (lin : Nat) (b : Bool) : (s.setFull lin b).ctxs = s.ctxs := rfl
@[simp] theorem State.setFull_parts (s : State) (lin : Nat) (b : Bool) : (s.setFull lin b).parts = s.parts := rfl
@[simp] theorem State.setFull_queues (s : State) (lin : Nat) (b : Bool) : (s.setFull lin b).queues = s.queues := rfl
@[simp] theorem State.setFull_savedCtx (s : State) (lin : Nat) (b : Bool) : (s.setFull lin b).savedCtx = s.savedCtx := rfl
@[simp] theorem State.setFull_host (s : State) (lin : Nat) (b : Bool) : (s.setFull lin b).host = s.host := rfl
@[simp] theorem State.setFull_hostq (s : State) (lin : Nat) (b : Bool) : (s.setFull lin b).hostq = s.hostq := rfl
@[simp] theorem State.setFull_peerq (s : State) (lin : Nat) (b : Bool) : (s.setFull lin b).peerq = s.peerq := rfl
@[simp] theorem State.setFull_toPeer (s : State) (lin : Nat) (b : Bool) : (s.setFull lin b).toPeer = s.toPeer := rfl
@[simp] theorem State.setFull_peerAns (s : State) (lin : Nat) (b : Bool) : (s.setFull lin b).peerAns = s.peerAns := rfl
@[simp] theorem State.setFull_cwport (s : State) (lin : Nat) (b : Bool) : (s.setFull lin b).cwport = s.cwport := rfl
@[simp] theorem State.setFull_planes (s : State) (lin : Nat) (b : Bool) : (s.setFull lin b).planes = s.planes := rfl
@[simp] theorem State.setFull_pwrcap (s : State) (lin : Nat) (b : Bool) : (s.setFull lin b).pwrcap = s.pwrcap := rfl
@[simp] theorem State.setFull_throttle (s : State) (lin : Nat) (b : Bool) : (s.setFull lin b).throttle = s.throttle := rfl
@[simp] theorem State.setFull_therm (s : State) (lin : Nat) (b : Bool) : (s.setFull lin b).therm = s.therm := rfl
@[simp] theorem State.setFull_nvmNext (s : State) (lin : Nat) (b : Bool) : (s.setFull lin b).nvmNext = s.nvmNext := rfl
@[simp] theorem State.setFull_meas (s : State) (lin : Nat) (b : Bool) : (s.setFull lin b).meas = s.meas := rfl
@[simp] theorem State.setFull_feaddrReg (s : State) (lin : Nat) (b : Bool) : (s.setFull lin b).feaddrReg = s.feaddrReg := rfl
@[simp] theorem State.setFull_feq (s : State) (lin : Nat) (b : Bool) : (s.setFull lin b).feq = s.feq := rfl
@[simp] theorem State.setFull_hostReads (s : State) (lin : Nat) (b : Bool) : (s.setFull lin b).hostReads = s.hostReads := rfl
@[simp] theorem State.setFull_winq (s : State) (lin : Nat) (b : Bool) : (s.setFull lin b).winq = s.winq := rfl
@[simp] theorem State.setFull_attq (s : State) (lin : Nat) (b : Bool) : (s.setFull lin b).attq = s.attq := rfl
@[simp] theorem State.setFull_appSpared (s : State) (lin : Nat) (b : Bool) : (s.setFull lin b).appSpared = s.appSpared := rfl
@[simp] theorem State.setFull_linkDown (s : State) (lin : Nat) (b : Bool) : (s.setFull lin b).linkDown = s.linkDown := rfl

@[simp] theorem State.setPoison_cur (s : State) (lin : Nat) (b : Bool) : (s.setPoison lin b).cur = s.cur := rfl
@[simp] theorem State.setPoison_agenda (s : State) (lin : Nat) (b : Bool) : (s.setPoison lin b).agenda = s.agenda := rfl
@[simp] theorem State.setPoison_turns (s : State) (lin : Nat) (b : Bool) : (s.setPoison lin b).turns = s.turns := rfl
@[simp] theorem State.setPoison_frees (s : State) (lin : Nat) (b : Bool) : (s.setPoison lin b).frees = s.frees := rfl
@[simp] theorem State.setPoison_clk (s : State) (lin : Nat) (b : Bool) : (s.setPoison lin b).clk = s.clk := rfl
@[simp] theorem State.setPoison_fresh (s : State) (lin : Nat) (b : Bool) : (s.setPoison lin b).fresh = s.fresh := rfl
@[simp] theorem State.setPoison_boot (s : State) (lin : Nat) (b : Bool) : (s.setPoison lin b).boot = s.boot := rfl
@[simp] theorem State.setPoison_slots (s : State) (lin : Nat) (b : Bool) : (s.setPoison lin b).slots = s.slots := rfl
@[simp] theorem State.setPoison_clusters (s : State) (lin : Nat) (b : Bool) : (s.setPoison lin b).clusters = s.clusters := rfl
@[simp] theorem State.setPoison_halves (s : State) (lin : Nat) (b : Bool) : (s.setPoison lin b).halves = s.halves := rfl
@[simp] theorem State.setPoison_dies (s : State) (lin : Nat) (b : Bool) : (s.setPoison lin b).dies = s.dies := rfl
@[simp] theorem State.setPoison_runs (s : State) (lin : Nat) (b : Bool) : (s.setPoison lin b).runs = s.runs := rfl
@[simp] theorem State.setPoison_ins (s : State) (lin : Nat) (b : Bool) : (s.setPoison lin b).ins = s.ins := rfl
@[simp] theorem State.setPoison_vunit (s : State) (lin : Nat) (b : Bool) : (s.setPoison lin b).vunit = s.vunit := rfl
@[simp] theorem State.setPoison_mem (s : State) (lin : Nat) (b : Bool) : (s.setPoison lin b).mem = s.mem := rfl
@[simp] theorem State.setPoison_full (s : State) (lin : Nat) (b : Bool) : (s.setPoison lin b).full = s.full := rfl
@[simp] theorem State.setPoison_cells (s : State) (lin : Nat) (b : Bool) : (s.setPoison lin b).cells = s.cells := rfl
@[simp] theorem State.setPoison_reeds (s : State) (lin : Nat) (b : Bool) : (s.setPoison lin b).reeds = s.reeds := rfl
@[simp] theorem State.setPoison_sluices (s : State) (lin : Nat) (b : Bool) : (s.setPoison lin b).sluices = s.sluices := rfl
@[simp] theorem State.setPoison_asked (s : State) (lin : Nat) (b : Bool) : (s.setPoison lin b).asked = s.asked := rfl
@[simp] theorem State.setPoison_loads (s : State) (lin : Nat) (b : Bool) : (s.setPoison lin b).loads = s.loads := rfl
@[simp] theorem State.setPoison_copies (s : State) (lin : Nat) (b : Bool) : (s.setPoison lin b).copies = s.copies := rfl
@[simp] theorem State.setPoison_winnow (s : State) (lin : Nat) (b : Bool) : (s.setPoison lin b).winnow = s.winnow := rfl
@[simp] theorem State.setPoison_calls (s : State) (lin : Nat) (b : Bool) : (s.setPoison lin b).calls = s.calls := rfl
@[simp] theorem State.setPoison_msgs (s : State) (lin : Nat) (b : Bool) : (s.setPoison lin b).msgs = s.msgs := rfl
@[simp] theorem State.setPoison_tissues (s : State) (lin : Nat) (b : Bool) : (s.setPoison lin b).tissues = s.tissues := rfl
@[simp] theorem State.setPoison_late (s : State) (lin : Nat) (b : Bool) : (s.setPoison lin b).late = s.late := rfl
@[simp] theorem State.setPoison_groups (s : State) (lin : Nat) (b : Bool) : (s.setPoison lin b).groups = s.groups := rfl
@[simp] theorem State.setPoison_launches (s : State) (lin : Nat) (b : Bool) : (s.setPoison lin b).launches = s.launches := rfl
@[simp] theorem State.setPoison_ctxs (s : State) (lin : Nat) (b : Bool) : (s.setPoison lin b).ctxs = s.ctxs := rfl
@[simp] theorem State.setPoison_parts (s : State) (lin : Nat) (b : Bool) : (s.setPoison lin b).parts = s.parts := rfl
@[simp] theorem State.setPoison_queues (s : State) (lin : Nat) (b : Bool) : (s.setPoison lin b).queues = s.queues := rfl
@[simp] theorem State.setPoison_savedCtx (s : State) (lin : Nat) (b : Bool) : (s.setPoison lin b).savedCtx = s.savedCtx := rfl
@[simp] theorem State.setPoison_host (s : State) (lin : Nat) (b : Bool) : (s.setPoison lin b).host = s.host := rfl
@[simp] theorem State.setPoison_hostq (s : State) (lin : Nat) (b : Bool) : (s.setPoison lin b).hostq = s.hostq := rfl
@[simp] theorem State.setPoison_peerq (s : State) (lin : Nat) (b : Bool) : (s.setPoison lin b).peerq = s.peerq := rfl
@[simp] theorem State.setPoison_toPeer (s : State) (lin : Nat) (b : Bool) : (s.setPoison lin b).toPeer = s.toPeer := rfl
@[simp] theorem State.setPoison_peerAns (s : State) (lin : Nat) (b : Bool) : (s.setPoison lin b).peerAns = s.peerAns := rfl
@[simp] theorem State.setPoison_cwport (s : State) (lin : Nat) (b : Bool) : (s.setPoison lin b).cwport = s.cwport := rfl
@[simp] theorem State.setPoison_planes (s : State) (lin : Nat) (b : Bool) : (s.setPoison lin b).planes = s.planes := rfl
@[simp] theorem State.setPoison_pwrcap (s : State) (lin : Nat) (b : Bool) : (s.setPoison lin b).pwrcap = s.pwrcap := rfl
@[simp] theorem State.setPoison_throttle (s : State) (lin : Nat) (b : Bool) : (s.setPoison lin b).throttle = s.throttle := rfl
@[simp] theorem State.setPoison_therm (s : State) (lin : Nat) (b : Bool) : (s.setPoison lin b).therm = s.therm := rfl
@[simp] theorem State.setPoison_nvmNext (s : State) (lin : Nat) (b : Bool) : (s.setPoison lin b).nvmNext = s.nvmNext := rfl
@[simp] theorem State.setPoison_meas (s : State) (lin : Nat) (b : Bool) : (s.setPoison lin b).meas = s.meas := rfl
@[simp] theorem State.setPoison_feaddrReg (s : State) (lin : Nat) (b : Bool) : (s.setPoison lin b).feaddrReg = s.feaddrReg := rfl
@[simp] theorem State.setPoison_feq (s : State) (lin : Nat) (b : Bool) : (s.setPoison lin b).feq = s.feq := rfl
@[simp] theorem State.setPoison_hostReads (s : State) (lin : Nat) (b : Bool) : (s.setPoison lin b).hostReads = s.hostReads := rfl
@[simp] theorem State.setPoison_winq (s : State) (lin : Nat) (b : Bool) : (s.setPoison lin b).winq = s.winq := rfl
@[simp] theorem State.setPoison_attq (s : State) (lin : Nat) (b : Bool) : (s.setPoison lin b).attq = s.attq := rfl
@[simp] theorem State.setPoison_appSpared (s : State) (lin : Nat) (b : Bool) : (s.setPoison lin b).appSpared = s.appSpared := rfl
@[simp] theorem State.setPoison_linkDown (s : State) (lin : Nat) (b : Bool) : (s.setPoison lin b).linkDown = s.linkDown := rfl

@[simp] theorem State.dramWrite_cur (s : State) (lin : Nat) (bs : List Byte) : (s.dramWrite lin bs).cur = s.cur := rfl
@[simp] theorem State.dramWrite_agenda (s : State) (lin : Nat) (bs : List Byte) : (s.dramWrite lin bs).agenda = s.agenda := rfl
@[simp] theorem State.dramWrite_turns (s : State) (lin : Nat) (bs : List Byte) : (s.dramWrite lin bs).turns = s.turns := rfl
@[simp] theorem State.dramWrite_frees (s : State) (lin : Nat) (bs : List Byte) : (s.dramWrite lin bs).frees = s.frees := rfl
@[simp] theorem State.dramWrite_clk (s : State) (lin : Nat) (bs : List Byte) : (s.dramWrite lin bs).clk = s.clk := rfl
@[simp] theorem State.dramWrite_fresh (s : State) (lin : Nat) (bs : List Byte) : (s.dramWrite lin bs).fresh = s.fresh := rfl
@[simp] theorem State.dramWrite_boot (s : State) (lin : Nat) (bs : List Byte) : (s.dramWrite lin bs).boot = s.boot := rfl
@[simp] theorem State.dramWrite_slots (s : State) (lin : Nat) (bs : List Byte) : (s.dramWrite lin bs).slots = s.slots := rfl
@[simp] theorem State.dramWrite_clusters (s : State) (lin : Nat) (bs : List Byte) : (s.dramWrite lin bs).clusters = s.clusters := rfl
@[simp] theorem State.dramWrite_halves (s : State) (lin : Nat) (bs : List Byte) : (s.dramWrite lin bs).halves = s.halves := rfl
@[simp] theorem State.dramWrite_dies (s : State) (lin : Nat) (bs : List Byte) : (s.dramWrite lin bs).dies = s.dies := rfl
@[simp] theorem State.dramWrite_runs (s : State) (lin : Nat) (bs : List Byte) : (s.dramWrite lin bs).runs = s.runs := rfl
@[simp] theorem State.dramWrite_ins (s : State) (lin : Nat) (bs : List Byte) : (s.dramWrite lin bs).ins = s.ins := rfl
@[simp] theorem State.dramWrite_vunit (s : State) (lin : Nat) (bs : List Byte) : (s.dramWrite lin bs).vunit = s.vunit := rfl
@[simp] theorem State.dramWrite_mem (s : State) (lin : Nat) (bs : List Byte) : (s.dramWrite lin bs).mem = s.mem.writeN lin bs := rfl
@[simp] theorem State.dramWrite_full (s : State) (lin : Nat) (bs : List Byte) : (s.dramWrite lin bs).full = s.full := rfl
@[simp] theorem State.dramWrite_poison (s : State) (lin : Nat) (bs : List Byte) : (s.dramWrite lin bs).poison = s.poison := rfl
@[simp] theorem State.dramWrite_reeds (s : State) (lin : Nat) (bs : List Byte) : (s.dramWrite lin bs).reeds = s.reeds := rfl
@[simp] theorem State.dramWrite_sluices (s : State) (lin : Nat) (bs : List Byte) : (s.dramWrite lin bs).sluices = s.sluices := rfl
@[simp] theorem State.dramWrite_asked (s : State) (lin : Nat) (bs : List Byte) : (s.dramWrite lin bs).asked = s.asked := rfl
@[simp] theorem State.dramWrite_loads (s : State) (lin : Nat) (bs : List Byte) : (s.dramWrite lin bs).loads = s.loads := rfl
@[simp] theorem State.dramWrite_copies (s : State) (lin : Nat) (bs : List Byte) : (s.dramWrite lin bs).copies = s.copies := rfl
@[simp] theorem State.dramWrite_winnow (s : State) (lin : Nat) (bs : List Byte) : (s.dramWrite lin bs).winnow = s.winnow := rfl
@[simp] theorem State.dramWrite_calls (s : State) (lin : Nat) (bs : List Byte) : (s.dramWrite lin bs).calls = s.calls := rfl
@[simp] theorem State.dramWrite_msgs (s : State) (lin : Nat) (bs : List Byte) : (s.dramWrite lin bs).msgs = s.msgs := rfl
@[simp] theorem State.dramWrite_tissues (s : State) (lin : Nat) (bs : List Byte) : (s.dramWrite lin bs).tissues = s.tissues := rfl
@[simp] theorem State.dramWrite_late (s : State) (lin : Nat) (bs : List Byte) : (s.dramWrite lin bs).late = s.late := rfl
@[simp] theorem State.dramWrite_groups (s : State) (lin : Nat) (bs : List Byte) : (s.dramWrite lin bs).groups = s.groups := rfl
@[simp] theorem State.dramWrite_launches (s : State) (lin : Nat) (bs : List Byte) : (s.dramWrite lin bs).launches = s.launches := rfl
@[simp] theorem State.dramWrite_ctxs (s : State) (lin : Nat) (bs : List Byte) : (s.dramWrite lin bs).ctxs = s.ctxs := rfl
@[simp] theorem State.dramWrite_parts (s : State) (lin : Nat) (bs : List Byte) : (s.dramWrite lin bs).parts = s.parts := rfl
@[simp] theorem State.dramWrite_queues (s : State) (lin : Nat) (bs : List Byte) : (s.dramWrite lin bs).queues = s.queues := rfl
@[simp] theorem State.dramWrite_savedCtx (s : State) (lin : Nat) (bs : List Byte) : (s.dramWrite lin bs).savedCtx = s.savedCtx := rfl
@[simp] theorem State.dramWrite_host (s : State) (lin : Nat) (bs : List Byte) : (s.dramWrite lin bs).host = s.host := rfl
@[simp] theorem State.dramWrite_hostq (s : State) (lin : Nat) (bs : List Byte) : (s.dramWrite lin bs).hostq = s.hostq := rfl
@[simp] theorem State.dramWrite_peerq (s : State) (lin : Nat) (bs : List Byte) : (s.dramWrite lin bs).peerq = s.peerq := rfl
@[simp] theorem State.dramWrite_toPeer (s : State) (lin : Nat) (bs : List Byte) : (s.dramWrite lin bs).toPeer = s.toPeer := rfl
@[simp] theorem State.dramWrite_peerAns (s : State) (lin : Nat) (bs : List Byte) : (s.dramWrite lin bs).peerAns = s.peerAns := rfl
@[simp] theorem State.dramWrite_cwport (s : State) (lin : Nat) (bs : List Byte) : (s.dramWrite lin bs).cwport = s.cwport := rfl
@[simp] theorem State.dramWrite_planes (s : State) (lin : Nat) (bs : List Byte) : (s.dramWrite lin bs).planes = s.planes := rfl
@[simp] theorem State.dramWrite_pwrcap (s : State) (lin : Nat) (bs : List Byte) : (s.dramWrite lin bs).pwrcap = s.pwrcap := rfl
@[simp] theorem State.dramWrite_throttle (s : State) (lin : Nat) (bs : List Byte) : (s.dramWrite lin bs).throttle = s.throttle := rfl
@[simp] theorem State.dramWrite_therm (s : State) (lin : Nat) (bs : List Byte) : (s.dramWrite lin bs).therm = s.therm := rfl
@[simp] theorem State.dramWrite_nvmNext (s : State) (lin : Nat) (bs : List Byte) : (s.dramWrite lin bs).nvmNext = s.nvmNext := rfl
@[simp] theorem State.dramWrite_meas (s : State) (lin : Nat) (bs : List Byte) : (s.dramWrite lin bs).meas = s.meas := rfl
@[simp] theorem State.dramWrite_feaddrReg (s : State) (lin : Nat) (bs : List Byte) : (s.dramWrite lin bs).feaddrReg = s.feaddrReg := rfl
@[simp] theorem State.dramWrite_feq (s : State) (lin : Nat) (bs : List Byte) : (s.dramWrite lin bs).feq = s.feq := rfl
@[simp] theorem State.dramWrite_hostReads (s : State) (lin : Nat) (bs : List Byte) : (s.dramWrite lin bs).hostReads = s.hostReads := rfl
@[simp] theorem State.dramWrite_winq (s : State) (lin : Nat) (bs : List Byte) : (s.dramWrite lin bs).winq = s.winq := rfl
@[simp] theorem State.dramWrite_attq (s : State) (lin : Nat) (bs : List Byte) : (s.dramWrite lin bs).attq = s.attq := rfl
@[simp] theorem State.dramWrite_appSpared (s : State) (lin : Nat) (bs : List Byte) : (s.dramWrite lin bs).appSpared = s.appSpared := rfl
@[simp] theorem State.dramWrite_linkDown (s : State) (lin : Nat) (bs : List Byte) : (s.dramWrite lin bs).linkDown = s.linkDown := rfl

@[simp] theorem State.class0_cur (s : State) (lin : Nat) : (s.class0 lin).cur = s.cur := rfl
@[simp] theorem State.class0_agenda (s : State) (lin : Nat) : (s.class0 lin).agenda = s.agenda := rfl
@[simp] theorem State.class0_turns (s : State) (lin : Nat) : (s.class0 lin).turns = s.turns := rfl
@[simp] theorem State.class0_frees (s : State) (lin : Nat) : (s.class0 lin).frees = s.frees := rfl
@[simp] theorem State.class0_clk (s : State) (lin : Nat) : (s.class0 lin).clk = s.clk := rfl
@[simp] theorem State.class0_fresh (s : State) (lin : Nat) : (s.class0 lin).fresh = s.fresh := rfl
@[simp] theorem State.class0_boot (s : State) (lin : Nat) : (s.class0 lin).boot = s.boot := rfl
@[simp] theorem State.class0_slots (s : State) (lin : Nat) : (s.class0 lin).slots = s.slots := rfl
@[simp] theorem State.class0_clusters (s : State) (lin : Nat) : (s.class0 lin).clusters = s.clusters := rfl
@[simp] theorem State.class0_halves (s : State) (lin : Nat) : (s.class0 lin).halves = s.halves := rfl
@[simp] theorem State.class0_dies (s : State) (lin : Nat) : (s.class0 lin).dies = s.dies := rfl
@[simp] theorem State.class0_runs (s : State) (lin : Nat) : (s.class0 lin).runs = s.runs := rfl
@[simp] theorem State.class0_ins (s : State) (lin : Nat) : (s.class0 lin).ins = s.ins := rfl
@[simp] theorem State.class0_vunit (s : State) (lin : Nat) : (s.class0 lin).vunit = s.vunit := rfl
@[simp] theorem State.class0_mem (s : State) (lin : Nat) : (s.class0 lin).mem = s.mem := rfl
@[simp] theorem State.class0_full (s : State) (lin : Nat) : (s.class0 lin).full = s.full := rfl
@[simp] theorem State.class0_cells (s : State) (lin : Nat) : (s.class0 lin).cells = s.cells := rfl
@[simp] theorem State.class0_poison (s : State) (lin : Nat) : (s.class0 lin).poison = s.poison := rfl
@[simp] theorem State.class0_reeds (s : State) (lin : Nat) : (s.class0 lin).reeds = s.reeds := rfl
@[simp] theorem State.class0_sluices (s : State) (lin : Nat) : (s.class0 lin).sluices = s.sluices := rfl
@[simp] theorem State.class0_loads (s : State) (lin : Nat) : (s.class0 lin).loads = s.loads := rfl
@[simp] theorem State.class0_copies (s : State) (lin : Nat) : (s.class0 lin).copies = s.copies := rfl
@[simp] theorem State.class0_winnow (s : State) (lin : Nat) : (s.class0 lin).winnow = s.winnow := rfl
@[simp] theorem State.class0_calls (s : State) (lin : Nat) : (s.class0 lin).calls = s.calls := rfl
@[simp] theorem State.class0_msgs (s : State) (lin : Nat) : (s.class0 lin).msgs = s.msgs := rfl
@[simp] theorem State.class0_tissues (s : State) (lin : Nat) : (s.class0 lin).tissues = s.tissues := rfl
@[simp] theorem State.class0_late (s : State) (lin : Nat) : (s.class0 lin).late = s.late := rfl
@[simp] theorem State.class0_groups (s : State) (lin : Nat) : (s.class0 lin).groups = s.groups := rfl
@[simp] theorem State.class0_launches (s : State) (lin : Nat) : (s.class0 lin).launches = s.launches := rfl
@[simp] theorem State.class0_ctxs (s : State) (lin : Nat) : (s.class0 lin).ctxs = s.ctxs := rfl
@[simp] theorem State.class0_parts (s : State) (lin : Nat) : (s.class0 lin).parts = s.parts := rfl
@[simp] theorem State.class0_queues (s : State) (lin : Nat) : (s.class0 lin).queues = s.queues := rfl
@[simp] theorem State.class0_savedCtx (s : State) (lin : Nat) : (s.class0 lin).savedCtx = s.savedCtx := rfl
@[simp] theorem State.class0_host (s : State) (lin : Nat) : (s.class0 lin).host = s.host := rfl
@[simp] theorem State.class0_hostq (s : State) (lin : Nat) : (s.class0 lin).hostq = s.hostq := rfl
@[simp] theorem State.class0_peerq (s : State) (lin : Nat) : (s.class0 lin).peerq = s.peerq := rfl
@[simp] theorem State.class0_toPeer (s : State) (lin : Nat) : (s.class0 lin).toPeer = s.toPeer := rfl
@[simp] theorem State.class0_peerAns (s : State) (lin : Nat) : (s.class0 lin).peerAns = s.peerAns := rfl
@[simp] theorem State.class0_cwport (s : State) (lin : Nat) : (s.class0 lin).cwport = s.cwport := rfl
@[simp] theorem State.class0_planes (s : State) (lin : Nat) : (s.class0 lin).planes = s.planes := rfl
@[simp] theorem State.class0_pwrcap (s : State) (lin : Nat) : (s.class0 lin).pwrcap = s.pwrcap := rfl
@[simp] theorem State.class0_throttle (s : State) (lin : Nat) : (s.class0 lin).throttle = s.throttle := rfl
@[simp] theorem State.class0_therm (s : State) (lin : Nat) : (s.class0 lin).therm = s.therm := rfl
@[simp] theorem State.class0_nvmNext (s : State) (lin : Nat) : (s.class0 lin).nvmNext = s.nvmNext := rfl
@[simp] theorem State.class0_meas (s : State) (lin : Nat) : (s.class0 lin).meas = s.meas := rfl
@[simp] theorem State.class0_feaddrReg (s : State) (lin : Nat) : (s.class0 lin).feaddrReg = s.feaddrReg := rfl
@[simp] theorem State.class0_feq (s : State) (lin : Nat) : (s.class0 lin).feq = s.feq := rfl
@[simp] theorem State.class0_hostReads (s : State) (lin : Nat) : (s.class0 lin).hostReads = s.hostReads := rfl
@[simp] theorem State.class0_winq (s : State) (lin : Nat) : (s.class0 lin).winq = s.winq := rfl
@[simp] theorem State.class0_attq (s : State) (lin : Nat) : (s.class0 lin).attq = s.attq := rfl
@[simp] theorem State.class0_appSpared (s : State) (lin : Nat) : (s.class0 lin).appSpared = s.appSpared := rfl
@[simp] theorem State.class0_linkDown (s : State) (lin : Nat) : (s.class0 lin).linkDown = s.linkDown := rfl

@[simp] theorem State.hostWriteB_cur (s : State) (a : Nat) (bs : List Byte) : (s.hostWriteB a bs).cur = s.cur := rfl
@[simp] theorem State.hostWriteB_agenda (s : State) (a : Nat) (bs : List Byte) : (s.hostWriteB a bs).agenda = s.agenda := rfl
@[simp] theorem State.hostWriteB_turns (s : State) (a : Nat) (bs : List Byte) : (s.hostWriteB a bs).turns = s.turns := rfl
@[simp] theorem State.hostWriteB_frees (s : State) (a : Nat) (bs : List Byte) : (s.hostWriteB a bs).frees = s.frees := rfl
@[simp] theorem State.hostWriteB_clk (s : State) (a : Nat) (bs : List Byte) : (s.hostWriteB a bs).clk = s.clk := rfl
@[simp] theorem State.hostWriteB_fresh (s : State) (a : Nat) (bs : List Byte) : (s.hostWriteB a bs).fresh = s.fresh := rfl
@[simp] theorem State.hostWriteB_boot (s : State) (a : Nat) (bs : List Byte) : (s.hostWriteB a bs).boot = s.boot := rfl
@[simp] theorem State.hostWriteB_slots (s : State) (a : Nat) (bs : List Byte) : (s.hostWriteB a bs).slots = s.slots := rfl
@[simp] theorem State.hostWriteB_clusters (s : State) (a : Nat) (bs : List Byte) : (s.hostWriteB a bs).clusters = s.clusters := rfl
@[simp] theorem State.hostWriteB_halves (s : State) (a : Nat) (bs : List Byte) : (s.hostWriteB a bs).halves = s.halves := rfl
@[simp] theorem State.hostWriteB_dies (s : State) (a : Nat) (bs : List Byte) : (s.hostWriteB a bs).dies = s.dies := rfl
@[simp] theorem State.hostWriteB_runs (s : State) (a : Nat) (bs : List Byte) : (s.hostWriteB a bs).runs = s.runs := rfl
@[simp] theorem State.hostWriteB_ins (s : State) (a : Nat) (bs : List Byte) : (s.hostWriteB a bs).ins = s.ins := rfl
@[simp] theorem State.hostWriteB_vunit (s : State) (a : Nat) (bs : List Byte) : (s.hostWriteB a bs).vunit = s.vunit := rfl
@[simp] theorem State.hostWriteB_mem (s : State) (a : Nat) (bs : List Byte) : (s.hostWriteB a bs).mem = s.mem := rfl
@[simp] theorem State.hostWriteB_full (s : State) (a : Nat) (bs : List Byte) : (s.hostWriteB a bs).full = s.full := rfl
@[simp] theorem State.hostWriteB_cells (s : State) (a : Nat) (bs : List Byte) : (s.hostWriteB a bs).cells = s.cells := rfl
@[simp] theorem State.hostWriteB_poison (s : State) (a : Nat) (bs : List Byte) : (s.hostWriteB a bs).poison = s.poison := rfl
@[simp] theorem State.hostWriteB_reeds (s : State) (a : Nat) (bs : List Byte) : (s.hostWriteB a bs).reeds = s.reeds := rfl
@[simp] theorem State.hostWriteB_sluices (s : State) (a : Nat) (bs : List Byte) : (s.hostWriteB a bs).sluices = s.sluices := rfl
@[simp] theorem State.hostWriteB_asked (s : State) (a : Nat) (bs : List Byte) : (s.hostWriteB a bs).asked = s.asked := rfl
@[simp] theorem State.hostWriteB_loads (s : State) (a : Nat) (bs : List Byte) : (s.hostWriteB a bs).loads = s.loads := rfl
@[simp] theorem State.hostWriteB_copies (s : State) (a : Nat) (bs : List Byte) : (s.hostWriteB a bs).copies = s.copies := rfl
@[simp] theorem State.hostWriteB_winnow (s : State) (a : Nat) (bs : List Byte) : (s.hostWriteB a bs).winnow = s.winnow := rfl
@[simp] theorem State.hostWriteB_calls (s : State) (a : Nat) (bs : List Byte) : (s.hostWriteB a bs).calls = s.calls := rfl
@[simp] theorem State.hostWriteB_msgs (s : State) (a : Nat) (bs : List Byte) : (s.hostWriteB a bs).msgs = s.msgs := rfl
@[simp] theorem State.hostWriteB_tissues (s : State) (a : Nat) (bs : List Byte) : (s.hostWriteB a bs).tissues = s.tissues := rfl
@[simp] theorem State.hostWriteB_late (s : State) (a : Nat) (bs : List Byte) : (s.hostWriteB a bs).late = s.late := rfl
@[simp] theorem State.hostWriteB_groups (s : State) (a : Nat) (bs : List Byte) : (s.hostWriteB a bs).groups = s.groups := rfl
@[simp] theorem State.hostWriteB_launches (s : State) (a : Nat) (bs : List Byte) : (s.hostWriteB a bs).launches = s.launches := rfl
@[simp] theorem State.hostWriteB_ctxs (s : State) (a : Nat) (bs : List Byte) : (s.hostWriteB a bs).ctxs = s.ctxs := rfl
@[simp] theorem State.hostWriteB_parts (s : State) (a : Nat) (bs : List Byte) : (s.hostWriteB a bs).parts = s.parts := rfl
@[simp] theorem State.hostWriteB_queues (s : State) (a : Nat) (bs : List Byte) : (s.hostWriteB a bs).queues = s.queues := rfl
@[simp] theorem State.hostWriteB_savedCtx (s : State) (a : Nat) (bs : List Byte) : (s.hostWriteB a bs).savedCtx = s.savedCtx := rfl
@[simp] theorem State.hostWriteB_host (s : State) (a : Nat) (bs : List Byte) : (s.hostWriteB a bs).host = swriteN s.host a bs := rfl
@[simp] theorem State.hostWriteB_hostq (s : State) (a : Nat) (bs : List Byte) : (s.hostWriteB a bs).hostq = s.hostq := rfl
@[simp] theorem State.hostWriteB_peerq (s : State) (a : Nat) (bs : List Byte) : (s.hostWriteB a bs).peerq = s.peerq := rfl
@[simp] theorem State.hostWriteB_toPeer (s : State) (a : Nat) (bs : List Byte) : (s.hostWriteB a bs).toPeer = s.toPeer := rfl
@[simp] theorem State.hostWriteB_peerAns (s : State) (a : Nat) (bs : List Byte) : (s.hostWriteB a bs).peerAns = s.peerAns := rfl
@[simp] theorem State.hostWriteB_cwport (s : State) (a : Nat) (bs : List Byte) : (s.hostWriteB a bs).cwport = s.cwport := rfl
@[simp] theorem State.hostWriteB_planes (s : State) (a : Nat) (bs : List Byte) : (s.hostWriteB a bs).planes = s.planes := rfl
@[simp] theorem State.hostWriteB_pwrcap (s : State) (a : Nat) (bs : List Byte) : (s.hostWriteB a bs).pwrcap = s.pwrcap := rfl
@[simp] theorem State.hostWriteB_throttle (s : State) (a : Nat) (bs : List Byte) : (s.hostWriteB a bs).throttle = s.throttle := rfl
@[simp] theorem State.hostWriteB_therm (s : State) (a : Nat) (bs : List Byte) : (s.hostWriteB a bs).therm = s.therm := rfl
@[simp] theorem State.hostWriteB_nvmNext (s : State) (a : Nat) (bs : List Byte) : (s.hostWriteB a bs).nvmNext = s.nvmNext := rfl
@[simp] theorem State.hostWriteB_meas (s : State) (a : Nat) (bs : List Byte) : (s.hostWriteB a bs).meas = s.meas := rfl
@[simp] theorem State.hostWriteB_feaddrReg (s : State) (a : Nat) (bs : List Byte) : (s.hostWriteB a bs).feaddrReg = s.feaddrReg := rfl
@[simp] theorem State.hostWriteB_feq (s : State) (a : Nat) (bs : List Byte) : (s.hostWriteB a bs).feq = s.feq := rfl
@[simp] theorem State.hostWriteB_hostReads (s : State) (a : Nat) (bs : List Byte) : (s.hostWriteB a bs).hostReads = s.hostReads := rfl
@[simp] theorem State.hostWriteB_winq (s : State) (a : Nat) (bs : List Byte) : (s.hostWriteB a bs).winq = s.winq := rfl
@[simp] theorem State.hostWriteB_attq (s : State) (a : Nat) (bs : List Byte) : (s.hostWriteB a bs).attq = s.attq := rfl
@[simp] theorem State.hostWriteB_appSpared (s : State) (a : Nat) (bs : List Byte) : (s.hostWriteB a bs).appSpared = s.appSpared := rfl
@[simp] theorem State.hostWriteB_linkDown (s : State) (a : Nat) (bs : List Byte) : (s.hostWriteB a bs).linkDown = s.linkDown := rfl

/-! ### One lemma per accessor per update of another table -/

@[simp] theorem State.die_setThr (s : State) (ti : SlotId) (x : Thread) (d' : Nat) : (s.setThr ti x).die d' = s.die d' := rfl
@[simp] theorem State.part_setThr (s : State) (ti : SlotId) (x : Thread) (p' : Nat) : (s.setThr ti x).part p' = s.part p' := rfl
@[simp] theorem State.ctx_setThr (s : State) (ti : SlotId) (x : Thread) (p' c' : Nat) : (s.setThr ti x).ctx p' c' = s.ctx p' c' := rfl
@[simp] theorem State.reed_setThr (s : State) (ti : SlotId) (x : Thread) (q' : Nat) : (s.setThr ti x).reed q' = s.reed q' := rfl
@[simp] theorem State.sluice_setThr (s : State) (ti : SlotId) (x : Thread) (q' g' : Nat) : (s.setThr ti x).sluice q' g' = s.sluice q' g' := rfl
@[simp] theorem State.half_setThr (s : State) (ti : SlotId) (x : Thread) (d' c' x' : Nat) : (s.setThr ti x).half d' c' x' = s.half d' c' x' := rfl
@[simp] theorem State.cluster_setThr (s : State) (ti : SlotId) (x : Thread) (d' c' : Nat) : (s.setThr ti x).cluster d' c' = s.cluster d' c' := rfl
@[simp] theorem State.run_setThr (s : State) (ti : SlotId) (x : Thread) (r' : RunId) : (s.setThr ti x).run r' = s.run r' := rfl
@[simp] theorem State.grp_setThr (s : State) (ti : SlotId) (x : Thread) (g' : Nat) : (s.setThr ti x).grp g' = s.grp g' := rfl
@[simp] theorem State.partOf_setThr (s : State) (ti : SlotId) (x : Thread) (d' : Nat) : (s.setThr ti x).partOf d' = s.partOf d' := rfl
@[simp] theorem State.pOf_setThr (s : State) (ti : SlotId) (x : Thread) (tj : SlotId) : (s.setThr ti x).pOf tj = s.pOf tj := rfl
@[simp] theorem State.cx_setThr (s : State) (ti : SlotId) (x : Thread) (tj : SlotId) : (s.setThr ti x).cx tj = s.cx tj := rfl

@[simp] theorem State.die_modThr (s : State) (ti : SlotId) (f : Thread → Thread) (d' : Nat) : (s.modThr ti f).die d' = s.die d' := rfl
@[simp] theorem State.part_modThr (s : State) (ti : SlotId) (f : Thread → Thread) (p' : Nat) : (s.modThr ti f).part p' = s.part p' := rfl
@[simp] theorem State.ctx_modThr (s : State) (ti : SlotId) (f : Thread → Thread) (p' c' : Nat) : (s.modThr ti f).ctx p' c' = s.ctx p' c' := rfl
@[simp] theorem State.reed_modThr (s : State) (ti : SlotId) (f : Thread → Thread) (q' : Nat) : (s.modThr ti f).reed q' = s.reed q' := rfl
@[simp] theorem State.sluice_modThr (s : State) (ti : SlotId) (f : Thread → Thread) (q' g' : Nat) : (s.modThr ti f).sluice q' g' = s.sluice q' g' := rfl
@[simp] theorem State.half_modThr (s : State) (ti : SlotId) (f : Thread → Thread) (d' c' x' : Nat) : (s.modThr ti f).half d' c' x' = s.half d' c' x' := rfl
@[simp] theorem State.cluster_modThr (s : State) (ti : SlotId) (f : Thread → Thread) (d' c' : Nat) : (s.modThr ti f).cluster d' c' = s.cluster d' c' := rfl
@[simp] theorem State.run_modThr (s : State) (ti : SlotId) (f : Thread → Thread) (r' : RunId) : (s.modThr ti f).run r' = s.run r' := rfl
@[simp] theorem State.grp_modThr (s : State) (ti : SlotId) (f : Thread → Thread) (g' : Nat) : (s.modThr ti f).grp g' = s.grp g' := rfl
@[simp] theorem State.partOf_modThr (s : State) (ti : SlotId) (f : Thread → Thread) (d' : Nat) : (s.modThr ti f).partOf d' = s.partOf d' := rfl
@[simp] theorem State.pOf_modThr (s : State) (ti : SlotId) (f : Thread → Thread) (tj : SlotId) : (s.modThr ti f).pOf tj = s.pOf tj := rfl
@[simp] theorem State.cx_modThr (s : State) (ti : SlotId) (f : Thread → Thread) (tj : SlotId) : (s.modThr ti f).cx tj = s.cx tj := rfl

@[simp] theorem State.die_modMe (s : State) (f : Thread → Thread) (d' : Nat) : (s.modMe f).die d' = s.die d' := rfl
@[simp] theorem State.part_modMe (s : State) (f : Thread → Thread) (p' : Nat) : (s.modMe f).part p' = s.part p' := rfl
@[simp] theorem State.ctx_modMe (s : State) (f : Thread → Thread) (p' c' : Nat) : (s.modMe f).ctx p' c' = s.ctx p' c' := rfl
@[simp] theorem State.reed_modMe (s : State) (f : Thread → Thread) (q' : Nat) : (s.modMe f).reed q' = s.reed q' := rfl
@[simp] theorem State.sluice_modMe (s : State) (f : Thread → Thread) (q' g' : Nat) : (s.modMe f).sluice q' g' = s.sluice q' g' := rfl
@[simp] theorem State.half_modMe (s : State) (f : Thread → Thread) (d' c' x' : Nat) : (s.modMe f).half d' c' x' = s.half d' c' x' := rfl
@[simp] theorem State.cluster_modMe (s : State) (f : Thread → Thread) (d' c' : Nat) : (s.modMe f).cluster d' c' = s.cluster d' c' := rfl
@[simp] theorem State.run_modMe (s : State) (f : Thread → Thread) (r' : RunId) : (s.modMe f).run r' = s.run r' := rfl
@[simp] theorem State.grp_modMe (s : State) (f : Thread → Thread) (g' : Nat) : (s.modMe f).grp g' = s.grp g' := rfl
@[simp] theorem State.partOf_modMe (s : State) (f : Thread → Thread) (d' : Nat) : (s.modMe f).partOf d' = s.partOf d' := rfl
@[simp] theorem State.pOf_modMe (s : State) (f : Thread → Thread) (tj : SlotId) : (s.modMe f).pOf tj = s.pOf tj := rfl
@[simp] theorem State.cx_modMe (s : State) (f : Thread → Thread) (tj : SlotId) : (s.modMe f).cx tj = s.cx tj := rfl

@[simp] theorem State.thr_setDie (s : State) (d : Nat) (x : Die) (tj : SlotId) : (s.setDie d x).thr tj = s.thr tj := rfl
@[simp] theorem State.part_setDie (s : State) (d : Nat) (x : Die) (p' : Nat) : (s.setDie d x).part p' = s.part p' := rfl
@[simp] theorem State.ctx_setDie (s : State) (d : Nat) (x : Die) (p' c' : Nat) : (s.setDie d x).ctx p' c' = s.ctx p' c' := rfl
@[simp] theorem State.reed_setDie (s : State) (d : Nat) (x : Die) (q' : Nat) : (s.setDie d x).reed q' = s.reed q' := rfl
@[simp] theorem State.sluice_setDie (s : State) (d : Nat) (x : Die) (q' g' : Nat) : (s.setDie d x).sluice q' g' = s.sluice q' g' := rfl
@[simp] theorem State.half_setDie (s : State) (d : Nat) (x : Die) (d' c' x' : Nat) : (s.setDie d x).half d' c' x' = s.half d' c' x' := rfl
@[simp] theorem State.cluster_setDie (s : State) (d : Nat) (x : Die) (d' c' : Nat) : (s.setDie d x).cluster d' c' = s.cluster d' c' := rfl
@[simp] theorem State.run_setDie (s : State) (d : Nat) (x : Die) (r' : RunId) : (s.setDie d x).run r' = s.run r' := rfl
@[simp] theorem State.grp_setDie (s : State) (d : Nat) (x : Die) (g' : Nat) : (s.setDie d x).grp g' = s.grp g' := rfl
@[simp] theorem State.partOf_setDie (s : State) (d : Nat) (x : Die) (d' : Nat) : (s.setDie d x).partOf d' = s.partOf d' := rfl
@[simp] theorem State.pOf_setDie (s : State) (d : Nat) (x : Die) (tj : SlotId) : (s.setDie d x).pOf tj = s.pOf tj := rfl
@[simp] theorem State.cx_setDie (s : State) (d : Nat) (x : Die) (tj : SlotId) : (s.setDie d x).cx tj = s.cx tj := rfl

@[simp] theorem State.thr_setPart (s : State) (p : Nat) (x : Part) (tj : SlotId) : (s.setPart p x).thr tj = s.thr tj := rfl
@[simp] theorem State.die_setPart (s : State) (p : Nat) (x : Part) (d' : Nat) : (s.setPart p x).die d' = s.die d' := rfl
@[simp] theorem State.ctx_setPart (s : State) (p : Nat) (x : Part) (p' c' : Nat) : (s.setPart p x).ctx p' c' = s.ctx p' c' := rfl
@[simp] theorem State.reed_setPart (s : State) (p : Nat) (x : Part) (q' : Nat) : (s.setPart p x).reed q' = s.reed q' := rfl
@[simp] theorem State.sluice_setPart (s : State) (p : Nat) (x : Part) (q' g' : Nat) : (s.setPart p x).sluice q' g' = s.sluice q' g' := rfl
@[simp] theorem State.half_setPart (s : State) (p : Nat) (x : Part) (d' c' x' : Nat) : (s.setPart p x).half d' c' x' = s.half d' c' x' := rfl
@[simp] theorem State.cluster_setPart (s : State) (p : Nat) (x : Part) (d' c' : Nat) : (s.setPart p x).cluster d' c' = s.cluster d' c' := rfl
@[simp] theorem State.run_setPart (s : State) (p : Nat) (x : Part) (r' : RunId) : (s.setPart p x).run r' = s.run r' := rfl
@[simp] theorem State.grp_setPart (s : State) (p : Nat) (x : Part) (g' : Nat) : (s.setPart p x).grp g' = s.grp g' := rfl

@[simp] theorem State.thr_setCtx (s : State) (p c : Nat) (x : Ctx) (tj : SlotId) : (s.setCtx p c x).thr tj = s.thr tj := rfl
@[simp] theorem State.die_setCtx (s : State) (p c : Nat) (x : Ctx) (d' : Nat) : (s.setCtx p c x).die d' = s.die d' := rfl
@[simp] theorem State.part_setCtx (s : State) (p c : Nat) (x : Ctx) (p' : Nat) : (s.setCtx p c x).part p' = s.part p' := rfl
@[simp] theorem State.reed_setCtx (s : State) (p c : Nat) (x : Ctx) (q' : Nat) : (s.setCtx p c x).reed q' = s.reed q' := rfl
@[simp] theorem State.sluice_setCtx (s : State) (p c : Nat) (x : Ctx) (q' g' : Nat) : (s.setCtx p c x).sluice q' g' = s.sluice q' g' := rfl
@[simp] theorem State.half_setCtx (s : State) (p c : Nat) (x : Ctx) (d' c' x' : Nat) : (s.setCtx p c x).half d' c' x' = s.half d' c' x' := rfl
@[simp] theorem State.cluster_setCtx (s : State) (p c : Nat) (x : Ctx) (d' c' : Nat) : (s.setCtx p c x).cluster d' c' = s.cluster d' c' := rfl
@[simp] theorem State.run_setCtx (s : State) (p c : Nat) (x : Ctx) (r' : RunId) : (s.setCtx p c x).run r' = s.run r' := rfl
@[simp] theorem State.grp_setCtx (s : State) (p c : Nat) (x : Ctx) (g' : Nat) : (s.setCtx p c x).grp g' = s.grp g' := rfl
@[simp] theorem State.partOf_setCtx (s : State) (p c : Nat) (x : Ctx) (d' : Nat) : (s.setCtx p c x).partOf d' = s.partOf d' := rfl
@[simp] theorem State.pOf_setCtx (s : State) (p c : Nat) (x : Ctx) (tj : SlotId) : (s.setCtx p c x).pOf tj = s.pOf tj := rfl

@[simp] theorem State.thr_setReed (s : State) (q : Nat) (x : Reed) (tj : SlotId) : (s.setReed q x).thr tj = s.thr tj := rfl
@[simp] theorem State.die_setReed (s : State) (q : Nat) (x : Reed) (d' : Nat) : (s.setReed q x).die d' = s.die d' := rfl
@[simp] theorem State.part_setReed (s : State) (q : Nat) (x : Reed) (p' : Nat) : (s.setReed q x).part p' = s.part p' := rfl
@[simp] theorem State.ctx_setReed (s : State) (q : Nat) (x : Reed) (p' c' : Nat) : (s.setReed q x).ctx p' c' = s.ctx p' c' := rfl
@[simp] theorem State.sluice_setReed (s : State) (q : Nat) (x : Reed) (q' g' : Nat) : (s.setReed q x).sluice q' g' = s.sluice q' g' := rfl
@[simp] theorem State.half_setReed (s : State) (q : Nat) (x : Reed) (d' c' x' : Nat) : (s.setReed q x).half d' c' x' = s.half d' c' x' := rfl
@[simp] theorem State.cluster_setReed (s : State) (q : Nat) (x : Reed) (d' c' : Nat) : (s.setReed q x).cluster d' c' = s.cluster d' c' := rfl
@[simp] theorem State.run_setReed (s : State) (q : Nat) (x : Reed) (r' : RunId) : (s.setReed q x).run r' = s.run r' := rfl
@[simp] theorem State.grp_setReed (s : State) (q : Nat) (x : Reed) (g' : Nat) : (s.setReed q x).grp g' = s.grp g' := rfl
@[simp] theorem State.partOf_setReed (s : State) (q : Nat) (x : Reed) (d' : Nat) : (s.setReed q x).partOf d' = s.partOf d' := rfl
@[simp] theorem State.pOf_setReed (s : State) (q : Nat) (x : Reed) (tj : SlotId) : (s.setReed q x).pOf tj = s.pOf tj := rfl
@[simp] theorem State.cx_setReed (s : State) (q : Nat) (x : Reed) (tj : SlotId) : (s.setReed q x).cx tj = s.cx tj := rfl

@[simp] theorem State.thr_setSluice (s : State) (q g : Nat) (x : Sluice) (tj : SlotId) : (s.setSluice q g x).thr tj = s.thr tj := rfl
@[simp] theorem State.die_setSluice (s : State) (q g : Nat) (x : Sluice) (d' : Nat) : (s.setSluice q g x).die d' = s.die d' := rfl
@[simp] theorem State.part_setSluice (s : State) (q g : Nat) (x : Sluice) (p' : Nat) : (s.setSluice q g x).part p' = s.part p' := rfl
@[simp] theorem State.ctx_setSluice (s : State) (q g : Nat) (x : Sluice) (p' c' : Nat) : (s.setSluice q g x).ctx p' c' = s.ctx p' c' := rfl
@[simp] theorem State.reed_setSluice (s : State) (q g : Nat) (x : Sluice) (q' : Nat) : (s.setSluice q g x).reed q' = s.reed q' := rfl
@[simp] theorem State.half_setSluice (s : State) (q g : Nat) (x : Sluice) (d' c' x' : Nat) : (s.setSluice q g x).half d' c' x' = s.half d' c' x' := rfl
@[simp] theorem State.cluster_setSluice (s : State) (q g : Nat) (x : Sluice) (d' c' : Nat) : (s.setSluice q g x).cluster d' c' = s.cluster d' c' := rfl
@[simp] theorem State.run_setSluice (s : State) (q g : Nat) (x : Sluice) (r' : RunId) : (s.setSluice q g x).run r' = s.run r' := rfl
@[simp] theorem State.grp_setSluice (s : State) (q g : Nat) (x : Sluice) (g' : Nat) : (s.setSluice q g x).grp g' = s.grp g' := rfl
@[simp] theorem State.partOf_setSluice (s : State) (q g : Nat) (x : Sluice) (d' : Nat) : (s.setSluice q g x).partOf d' = s.partOf d' := rfl
@[simp] theorem State.pOf_setSluice (s : State) (q g : Nat) (x : Sluice) (tj : SlotId) : (s.setSluice q g x).pOf tj = s.pOf tj := rfl
@[simp] theorem State.cx_setSluice (s : State) (q g : Nat) (x : Sluice) (tj : SlotId) : (s.setSluice q g x).cx tj = s.cx tj := rfl

@[simp] theorem State.thr_setHalf (s : State) (d c x : Nat) (h : Half) (tj : SlotId) : (s.setHalf d c x h).thr tj = s.thr tj := rfl
@[simp] theorem State.die_setHalf (s : State) (d c x : Nat) (h : Half) (d' : Nat) : (s.setHalf d c x h).die d' = s.die d' := rfl
@[simp] theorem State.part_setHalf (s : State) (d c x : Nat) (h : Half) (p' : Nat) : (s.setHalf d c x h).part p' = s.part p' := rfl
@[simp] theorem State.ctx_setHalf (s : State) (d c x : Nat) (h : Half) (p' c' : Nat) : (s.setHalf d c x h).ctx p' c' = s.ctx p' c' := rfl
@[simp] theorem State.reed_setHalf (s : State) (d c x : Nat) (h : Half) (q' : Nat) : (s.setHalf d c x h).reed q' = s.reed q' := rfl
@[simp] theorem State.sluice_setHalf (s : State) (d c x : Nat) (h : Half) (q' g' : Nat) : (s.setHalf d c x h).sluice q' g' = s.sluice q' g' := rfl
@[simp] theorem State.cluster_setHalf (s : State) (d c x : Nat) (h : Half) (d' c' : Nat) : (s.setHalf d c x h).cluster d' c' = s.cluster d' c' := rfl
@[simp] theorem State.run_setHalf (s : State) (d c x : Nat) (h : Half) (r' : RunId) : (s.setHalf d c x h).run r' = s.run r' := rfl
@[simp] theorem State.grp_setHalf (s : State) (d c x : Nat) (h : Half) (g' : Nat) : (s.setHalf d c x h).grp g' = s.grp g' := rfl
@[simp] theorem State.partOf_setHalf (s : State) (d c x : Nat) (h : Half) (d' : Nat) : (s.setHalf d c x h).partOf d' = s.partOf d' := rfl
@[simp] theorem State.pOf_setHalf (s : State) (d c x : Nat) (h : Half) (tj : SlotId) : (s.setHalf d c x h).pOf tj = s.pOf tj := rfl
@[simp] theorem State.cx_setHalf (s : State) (d c x : Nat) (h : Half) (tj : SlotId) : (s.setHalf d c x h).cx tj = s.cx tj := rfl

@[simp] theorem State.thr_setCluster (s : State) (d c : Nat) (x : Cluster) (tj : SlotId) : (s.setCluster d c x).thr tj = s.thr tj := rfl
@[simp] theorem State.die_setCluster (s : State) (d c : Nat) (x : Cluster) (d' : Nat) : (s.setCluster d c x).die d' = s.die d' := rfl
@[simp] theorem State.part_setCluster (s : State) (d c : Nat) (x : Cluster) (p' : Nat) : (s.setCluster d c x).part p' = s.part p' := rfl
@[simp] theorem State.ctx_setCluster (s : State) (d c : Nat) (x : Cluster) (p' c' : Nat) : (s.setCluster d c x).ctx p' c' = s.ctx p' c' := rfl
@[simp] theorem State.reed_setCluster (s : State) (d c : Nat) (x : Cluster) (q' : Nat) : (s.setCluster d c x).reed q' = s.reed q' := rfl
@[simp] theorem State.sluice_setCluster (s : State) (d c : Nat) (x : Cluster) (q' g' : Nat) : (s.setCluster d c x).sluice q' g' = s.sluice q' g' := rfl
@[simp] theorem State.half_setCluster (s : State) (d c : Nat) (x : Cluster) (d' c' x' : Nat) : (s.setCluster d c x).half d' c' x' = s.half d' c' x' := rfl
@[simp] theorem State.run_setCluster (s : State) (d c : Nat) (x : Cluster) (r' : RunId) : (s.setCluster d c x).run r' = s.run r' := rfl
@[simp] theorem State.grp_setCluster (s : State) (d c : Nat) (x : Cluster) (g' : Nat) : (s.setCluster d c x).grp g' = s.grp g' := rfl
@[simp] theorem State.partOf_setCluster (s : State) (d c : Nat) (x : Cluster) (d' : Nat) : (s.setCluster d c x).partOf d' = s.partOf d' := rfl
@[simp] theorem State.pOf_setCluster (s : State) (d c : Nat) (x : Cluster) (tj : SlotId) : (s.setCluster d c x).pOf tj = s.pOf tj := rfl
@[simp] theorem State.cx_setCluster (s : State) (d c : Nat) (x : Cluster) (tj : SlotId) : (s.setCluster d c x).cx tj = s.cx tj := rfl

@[simp] theorem State.thr_setRun (s : State) (r : RunId) (x : Run) (tj : SlotId) : (s.setRun r x).thr tj = s.thr tj := rfl
@[simp] theorem State.die_setRun (s : State) (r : RunId) (x : Run) (d' : Nat) : (s.setRun r x).die d' = s.die d' := rfl
@[simp] theorem State.part_setRun (s : State) (r : RunId) (x : Run) (p' : Nat) : (s.setRun r x).part p' = s.part p' := rfl
@[simp] theorem State.ctx_setRun (s : State) (r : RunId) (x : Run) (p' c' : Nat) : (s.setRun r x).ctx p' c' = s.ctx p' c' := rfl
@[simp] theorem State.reed_setRun (s : State) (r : RunId) (x : Run) (q' : Nat) : (s.setRun r x).reed q' = s.reed q' := rfl
@[simp] theorem State.sluice_setRun (s : State) (r : RunId) (x : Run) (q' g' : Nat) : (s.setRun r x).sluice q' g' = s.sluice q' g' := rfl
@[simp] theorem State.half_setRun (s : State) (r : RunId) (x : Run) (d' c' x' : Nat) : (s.setRun r x).half d' c' x' = s.half d' c' x' := rfl
@[simp] theorem State.cluster_setRun (s : State) (r : RunId) (x : Run) (d' c' : Nat) : (s.setRun r x).cluster d' c' = s.cluster d' c' := rfl
@[simp] theorem State.grp_setRun (s : State) (r : RunId) (x : Run) (g' : Nat) : (s.setRun r x).grp g' = s.grp g' := rfl
@[simp] theorem State.partOf_setRun (s : State) (r : RunId) (x : Run) (d' : Nat) : (s.setRun r x).partOf d' = s.partOf d' := rfl
@[simp] theorem State.pOf_setRun (s : State) (r : RunId) (x : Run) (tj : SlotId) : (s.setRun r x).pOf tj = s.pOf tj := rfl
@[simp] theorem State.cx_setRun (s : State) (r : RunId) (x : Run) (tj : SlotId) : (s.setRun r x).cx tj = s.cx tj := rfl

@[simp] theorem State.thr_newId (s : State) (tj : SlotId) : (s.newId).thr tj = s.thr tj := rfl
@[simp] theorem State.die_newId (s : State) (d' : Nat) : (s.newId).die d' = s.die d' := rfl
@[simp] theorem State.part_newId (s : State) (p' : Nat) : (s.newId).part p' = s.part p' := rfl
@[simp] theorem State.ctx_newId (s : State) (p' c' : Nat) : (s.newId).ctx p' c' = s.ctx p' c' := rfl
@[simp] theorem State.reed_newId (s : State) (q' : Nat) : (s.newId).reed q' = s.reed q' := rfl
@[simp] theorem State.sluice_newId (s : State) (q' g' : Nat) : (s.newId).sluice q' g' = s.sluice q' g' := rfl
@[simp] theorem State.half_newId (s : State) (d' c' x' : Nat) : (s.newId).half d' c' x' = s.half d' c' x' := rfl
@[simp] theorem State.cluster_newId (s : State) (d' c' : Nat) : (s.newId).cluster d' c' = s.cluster d' c' := rfl
@[simp] theorem State.run_newId (s : State) (r' : RunId) : (s.newId).run r' = s.run r' := rfl
@[simp] theorem State.grp_newId (s : State) (g' : Nat) : (s.newId).grp g' = s.grp g' := rfl
@[simp] theorem State.partOf_newId (s : State) (d' : Nat) : (s.newId).partOf d' = s.partOf d' := rfl
@[simp] theorem State.pOf_newId (s : State) (tj : SlotId) : (s.newId).pOf tj = s.pOf tj := rfl
@[simp] theorem State.cx_newId (s : State) (tj : SlotId) : (s.newId).cx tj = s.cx tj := rfl

@[simp] theorem State.thr_setFull (s : State) (lin : Nat) (b : Bool) (tj : SlotId) : (s.setFull lin b).thr tj = s.thr tj := rfl
@[simp] theorem State.die_setFull (s : State) (lin : Nat) (b : Bool) (d' : Nat) : (s.setFull lin b).die d' = s.die d' := rfl
@[simp] theorem State.part_setFull (s : State) (lin : Nat) (b : Bool) (p' : Nat) : (s.setFull lin b).part p' = s.part p' := rfl
@[simp] theorem State.ctx_setFull (s : State) (lin : Nat) (b : Bool) (p' c' : Nat) : (s.setFull lin b).ctx p' c' = s.ctx p' c' := rfl
@[simp] theorem State.reed_setFull (s : State) (lin : Nat) (b : Bool) (q' : Nat) : (s.setFull lin b).reed q' = s.reed q' := rfl
@[simp] theorem State.sluice_setFull (s : State) (lin : Nat) (b : Bool) (q' g' : Nat) : (s.setFull lin b).sluice q' g' = s.sluice q' g' := rfl
@[simp] theorem State.half_setFull (s : State) (lin : Nat) (b : Bool) (d' c' x' : Nat) : (s.setFull lin b).half d' c' x' = s.half d' c' x' := rfl
@[simp] theorem State.cluster_setFull (s : State) (lin : Nat) (b : Bool) (d' c' : Nat) : (s.setFull lin b).cluster d' c' = s.cluster d' c' := rfl
@[simp] theorem State.run_setFull (s : State) (lin : Nat) (b : Bool) (r' : RunId) : (s.setFull lin b).run r' = s.run r' := rfl
@[simp] theorem State.grp_setFull (s : State) (lin : Nat) (b : Bool) (g' : Nat) : (s.setFull lin b).grp g' = s.grp g' := rfl
@[simp] theorem State.partOf_setFull (s : State) (lin : Nat) (b : Bool) (d' : Nat) : (s.setFull lin b).partOf d' = s.partOf d' := rfl
@[simp] theorem State.pOf_setFull (s : State) (lin : Nat) (b : Bool) (tj : SlotId) : (s.setFull lin b).pOf tj = s.pOf tj := rfl
@[simp] theorem State.cx_setFull (s : State) (lin : Nat) (b : Bool) (tj : SlotId) : (s.setFull lin b).cx tj = s.cx tj := rfl

@[simp] theorem State.thr_setPoison (s : State) (lin : Nat) (b : Bool) (tj : SlotId) : (s.setPoison lin b).thr tj = s.thr tj := rfl
@[simp] theorem State.die_setPoison (s : State) (lin : Nat) (b : Bool) (d' : Nat) : (s.setPoison lin b).die d' = s.die d' := rfl
@[simp] theorem State.part_setPoison (s : State) (lin : Nat) (b : Bool) (p' : Nat) : (s.setPoison lin b).part p' = s.part p' := rfl
@[simp] theorem State.ctx_setPoison (s : State) (lin : Nat) (b : Bool) (p' c' : Nat) : (s.setPoison lin b).ctx p' c' = s.ctx p' c' := rfl
@[simp] theorem State.reed_setPoison (s : State) (lin : Nat) (b : Bool) (q' : Nat) : (s.setPoison lin b).reed q' = s.reed q' := rfl
@[simp] theorem State.sluice_setPoison (s : State) (lin : Nat) (b : Bool) (q' g' : Nat) : (s.setPoison lin b).sluice q' g' = s.sluice q' g' := rfl
@[simp] theorem State.half_setPoison (s : State) (lin : Nat) (b : Bool) (d' c' x' : Nat) : (s.setPoison lin b).half d' c' x' = s.half d' c' x' := rfl
@[simp] theorem State.cluster_setPoison (s : State) (lin : Nat) (b : Bool) (d' c' : Nat) : (s.setPoison lin b).cluster d' c' = s.cluster d' c' := rfl
@[simp] theorem State.run_setPoison (s : State) (lin : Nat) (b : Bool) (r' : RunId) : (s.setPoison lin b).run r' = s.run r' := rfl
@[simp] theorem State.grp_setPoison (s : State) (lin : Nat) (b : Bool) (g' : Nat) : (s.setPoison lin b).grp g' = s.grp g' := rfl
@[simp] theorem State.partOf_setPoison (s : State) (lin : Nat) (b : Bool) (d' : Nat) : (s.setPoison lin b).partOf d' = s.partOf d' := rfl
@[simp] theorem State.pOf_setPoison (s : State) (lin : Nat) (b : Bool) (tj : SlotId) : (s.setPoison lin b).pOf tj = s.pOf tj := rfl
@[simp] theorem State.cx_setPoison (s : State) (lin : Nat) (b : Bool) (tj : SlotId) : (s.setPoison lin b).cx tj = s.cx tj := rfl

@[simp] theorem State.thr_dramWrite (s : State) (lin : Nat) (bs : List Byte) (tj : SlotId) : (s.dramWrite lin bs).thr tj = s.thr tj := rfl
@[simp] theorem State.die_dramWrite (s : State) (lin : Nat) (bs : List Byte) (d' : Nat) : (s.dramWrite lin bs).die d' = s.die d' := rfl
@[simp] theorem State.part_dramWrite (s : State) (lin : Nat) (bs : List Byte) (p' : Nat) : (s.dramWrite lin bs).part p' = s.part p' := rfl
@[simp] theorem State.ctx_dramWrite (s : State) (lin : Nat) (bs : List Byte) (p' c' : Nat) : (s.dramWrite lin bs).ctx p' c' = s.ctx p' c' := rfl
@[simp] theorem State.reed_dramWrite (s : State) (lin : Nat) (bs : List Byte) (q' : Nat) : (s.dramWrite lin bs).reed q' = s.reed q' := rfl
@[simp] theorem State.sluice_dramWrite (s : State) (lin : Nat) (bs : List Byte) (q' g' : Nat) : (s.dramWrite lin bs).sluice q' g' = s.sluice q' g' := rfl
@[simp] theorem State.half_dramWrite (s : State) (lin : Nat) (bs : List Byte) (d' c' x' : Nat) : (s.dramWrite lin bs).half d' c' x' = s.half d' c' x' := rfl
@[simp] theorem State.cluster_dramWrite (s : State) (lin : Nat) (bs : List Byte) (d' c' : Nat) : (s.dramWrite lin bs).cluster d' c' = s.cluster d' c' := rfl
@[simp] theorem State.run_dramWrite (s : State) (lin : Nat) (bs : List Byte) (r' : RunId) : (s.dramWrite lin bs).run r' = s.run r' := rfl
@[simp] theorem State.grp_dramWrite (s : State) (lin : Nat) (bs : List Byte) (g' : Nat) : (s.dramWrite lin bs).grp g' = s.grp g' := rfl
@[simp] theorem State.partOf_dramWrite (s : State) (lin : Nat) (bs : List Byte) (d' : Nat) : (s.dramWrite lin bs).partOf d' = s.partOf d' := rfl
@[simp] theorem State.pOf_dramWrite (s : State) (lin : Nat) (bs : List Byte) (tj : SlotId) : (s.dramWrite lin bs).pOf tj = s.pOf tj := rfl
@[simp] theorem State.cx_dramWrite (s : State) (lin : Nat) (bs : List Byte) (tj : SlotId) : (s.dramWrite lin bs).cx tj = s.cx tj := rfl

@[simp] theorem State.thr_class0 (s : State) (lin : Nat) (tj : SlotId) : (s.class0 lin).thr tj = s.thr tj := rfl
@[simp] theorem State.die_class0 (s : State) (lin : Nat) (d' : Nat) : (s.class0 lin).die d' = s.die d' := rfl
@[simp] theorem State.part_class0 (s : State) (lin : Nat) (p' : Nat) : (s.class0 lin).part p' = s.part p' := rfl
@[simp] theorem State.ctx_class0 (s : State) (lin : Nat) (p' c' : Nat) : (s.class0 lin).ctx p' c' = s.ctx p' c' := rfl
@[simp] theorem State.reed_class0 (s : State) (lin : Nat) (q' : Nat) : (s.class0 lin).reed q' = s.reed q' := rfl
@[simp] theorem State.sluice_class0 (s : State) (lin : Nat) (q' g' : Nat) : (s.class0 lin).sluice q' g' = s.sluice q' g' := rfl
@[simp] theorem State.half_class0 (s : State) (lin : Nat) (d' c' x' : Nat) : (s.class0 lin).half d' c' x' = s.half d' c' x' := rfl
@[simp] theorem State.cluster_class0 (s : State) (lin : Nat) (d' c' : Nat) : (s.class0 lin).cluster d' c' = s.cluster d' c' := rfl
@[simp] theorem State.run_class0 (s : State) (lin : Nat) (r' : RunId) : (s.class0 lin).run r' = s.run r' := rfl
@[simp] theorem State.grp_class0 (s : State) (lin : Nat) (g' : Nat) : (s.class0 lin).grp g' = s.grp g' := rfl
@[simp] theorem State.partOf_class0 (s : State) (lin : Nat) (d' : Nat) : (s.class0 lin).partOf d' = s.partOf d' := rfl
@[simp] theorem State.pOf_class0 (s : State) (lin : Nat) (tj : SlotId) : (s.class0 lin).pOf tj = s.pOf tj := rfl
@[simp] theorem State.cx_class0 (s : State) (lin : Nat) (tj : SlotId) : (s.class0 lin).cx tj = s.cx tj := rfl

@[simp] theorem State.thr_hostWriteB (s : State) (a : Nat) (bs : List Byte) (tj : SlotId) : (s.hostWriteB a bs).thr tj = s.thr tj := rfl
@[simp] theorem State.die_hostWriteB (s : State) (a : Nat) (bs : List Byte) (d' : Nat) : (s.hostWriteB a bs).die d' = s.die d' := rfl
@[simp] theorem State.part_hostWriteB (s : State) (a : Nat) (bs : List Byte) (p' : Nat) : (s.hostWriteB a bs).part p' = s.part p' := rfl
@[simp] theorem State.ctx_hostWriteB (s : State) (a : Nat) (bs : List Byte) (p' c' : Nat) : (s.hostWriteB a bs).ctx p' c' = s.ctx p' c' := rfl
@[simp] theorem State.reed_hostWriteB (s : State) (a : Nat) (bs : List Byte) (q' : Nat) : (s.hostWriteB a bs).reed q' = s.reed q' := rfl
@[simp] theorem State.sluice_hostWriteB (s : State) (a : Nat) (bs : List Byte) (q' g' : Nat) : (s.hostWriteB a bs).sluice q' g' = s.sluice q' g' := rfl
@[simp] theorem State.half_hostWriteB (s : State) (a : Nat) (bs : List Byte) (d' c' x' : Nat) : (s.hostWriteB a bs).half d' c' x' = s.half d' c' x' := rfl
@[simp] theorem State.cluster_hostWriteB (s : State) (a : Nat) (bs : List Byte) (d' c' : Nat) : (s.hostWriteB a bs).cluster d' c' = s.cluster d' c' := rfl
@[simp] theorem State.run_hostWriteB (s : State) (a : Nat) (bs : List Byte) (r' : RunId) : (s.hostWriteB a bs).run r' = s.run r' := rfl
@[simp] theorem State.grp_hostWriteB (s : State) (a : Nat) (bs : List Byte) (g' : Nat) : (s.hostWriteB a bs).grp g' = s.grp g' := rfl
@[simp] theorem State.partOf_hostWriteB (s : State) (a : Nat) (bs : List Byte) (d' : Nat) : (s.hostWriteB a bs).partOf d' = s.partOf d' := rfl
@[simp] theorem State.pOf_hostWriteB (s : State) (a : Nat) (bs : List Byte) (tj : SlotId) : (s.hostWriteB a bs).pOf tj = s.pOf tj := rfl
@[simp] theorem State.cx_hostWriteB (s : State) (a : Nat) (bs : List Byte) (tj : SlotId) : (s.hostWriteB a bs).cx tj = s.cx tj := rfl

/-! ### Updates that a thread or a Reed core makes -/

theorem State.setReg_rest (s : State) (r : Reg) (v : W64) :
    s.setReg r v = { s with slots := (s.setReg r v).slots, reeds := (s.setReg r v).reeds } := by
  unfold State.setReg; split <;> rfl
@[simp] theorem State.setReg_cur (s : State) (r : Reg) (v : W64) : (s.setReg r v).cur = s.cur := congrArg State.cur (s.setReg_rest r v) |>.trans rfl
@[simp] theorem State.setReg_agenda (s : State) (r : Reg) (v : W64) : (s.setReg r v).agenda = s.agenda := congrArg State.agenda (s.setReg_rest r v) |>.trans rfl
@[simp] theorem State.setReg_turns (s : State) (r : Reg) (v : W64) : (s.setReg r v).turns = s.turns := congrArg State.turns (s.setReg_rest r v) |>.trans rfl
@[simp] theorem State.setReg_frees (s : State) (r : Reg) (v : W64) : (s.setReg r v).frees = s.frees := congrArg State.frees (s.setReg_rest r v) |>.trans rfl
@[simp] theorem State.setReg_clk (s : State) (r : Reg) (v : W64) : (s.setReg r v).clk = s.clk := congrArg State.clk (s.setReg_rest r v) |>.trans rfl
@[simp] theorem State.setReg_fresh (s : State) (r : Reg) (v : W64) : (s.setReg r v).fresh = s.fresh := congrArg State.fresh (s.setReg_rest r v) |>.trans rfl
@[simp] theorem State.setReg_boot (s : State) (r : Reg) (v : W64) : (s.setReg r v).boot = s.boot := congrArg State.boot (s.setReg_rest r v) |>.trans rfl
@[simp] theorem State.setReg_clusters (s : State) (r : Reg) (v : W64) : (s.setReg r v).clusters = s.clusters := congrArg State.clusters (s.setReg_rest r v) |>.trans rfl
@[simp] theorem State.setReg_halves (s : State) (r : Reg) (v : W64) : (s.setReg r v).halves = s.halves := congrArg State.halves (s.setReg_rest r v) |>.trans rfl
@[simp] theorem State.setReg_dies (s : State) (r : Reg) (v : W64) : (s.setReg r v).dies = s.dies := congrArg State.dies (s.setReg_rest r v) |>.trans rfl
@[simp] theorem State.setReg_runs (s : State) (r : Reg) (v : W64) : (s.setReg r v).runs = s.runs := congrArg State.runs (s.setReg_rest r v) |>.trans rfl
@[simp] theorem State.setReg_ins (s : State) (r : Reg) (v : W64) : (s.setReg r v).ins = s.ins := congrArg State.ins (s.setReg_rest r v) |>.trans rfl
@[simp] theorem State.setReg_vunit (s : State) (r : Reg) (v : W64) : (s.setReg r v).vunit = s.vunit := congrArg State.vunit (s.setReg_rest r v) |>.trans rfl
@[simp] theorem State.setReg_mem (s : State) (r : Reg) (v : W64) : (s.setReg r v).mem = s.mem := congrArg State.mem (s.setReg_rest r v) |>.trans rfl
@[simp] theorem State.setReg_full (s : State) (r : Reg) (v : W64) : (s.setReg r v).full = s.full := congrArg State.full (s.setReg_rest r v) |>.trans rfl
@[simp] theorem State.setReg_cells (s : State) (r : Reg) (v : W64) : (s.setReg r v).cells = s.cells := congrArg State.cells (s.setReg_rest r v) |>.trans rfl
@[simp] theorem State.setReg_poison (s : State) (r : Reg) (v : W64) : (s.setReg r v).poison = s.poison := congrArg State.poison (s.setReg_rest r v) |>.trans rfl
@[simp] theorem State.setReg_sluices (s : State) (r : Reg) (v : W64) : (s.setReg r v).sluices = s.sluices := congrArg State.sluices (s.setReg_rest r v) |>.trans rfl
@[simp] theorem State.setReg_asked (s : State) (r : Reg) (v : W64) : (s.setReg r v).asked = s.asked := congrArg State.asked (s.setReg_rest r v) |>.trans rfl
@[simp] theorem State.setReg_loads (s : State) (r : Reg) (v : W64) : (s.setReg r v).loads = s.loads := congrArg State.loads (s.setReg_rest r v) |>.trans rfl
@[simp] theorem State.setReg_copies (s : State) (r : Reg) (v : W64) : (s.setReg r v).copies = s.copies := congrArg State.copies (s.setReg_rest r v) |>.trans rfl
@[simp] theorem State.setReg_winnow (s : State) (r : Reg) (v : W64) : (s.setReg r v).winnow = s.winnow := congrArg State.winnow (s.setReg_rest r v) |>.trans rfl
@[simp] theorem State.setReg_calls (s : State) (r : Reg) (v : W64) : (s.setReg r v).calls = s.calls := congrArg State.calls (s.setReg_rest r v) |>.trans rfl
@[simp] theorem State.setReg_msgs (s : State) (r : Reg) (v : W64) : (s.setReg r v).msgs = s.msgs := congrArg State.msgs (s.setReg_rest r v) |>.trans rfl
@[simp] theorem State.setReg_tissues (s : State) (r : Reg) (v : W64) : (s.setReg r v).tissues = s.tissues := congrArg State.tissues (s.setReg_rest r v) |>.trans rfl
@[simp] theorem State.setReg_late (s : State) (r : Reg) (v : W64) : (s.setReg r v).late = s.late := congrArg State.late (s.setReg_rest r v) |>.trans rfl
@[simp] theorem State.setReg_groups (s : State) (r : Reg) (v : W64) : (s.setReg r v).groups = s.groups := congrArg State.groups (s.setReg_rest r v) |>.trans rfl
@[simp] theorem State.setReg_launches (s : State) (r : Reg) (v : W64) : (s.setReg r v).launches = s.launches := congrArg State.launches (s.setReg_rest r v) |>.trans rfl
@[simp] theorem State.setReg_ctxs (s : State) (r : Reg) (v : W64) : (s.setReg r v).ctxs = s.ctxs := congrArg State.ctxs (s.setReg_rest r v) |>.trans rfl
@[simp] theorem State.setReg_parts (s : State) (r : Reg) (v : W64) : (s.setReg r v).parts = s.parts := congrArg State.parts (s.setReg_rest r v) |>.trans rfl
@[simp] theorem State.setReg_queues (s : State) (r : Reg) (v : W64) : (s.setReg r v).queues = s.queues := congrArg State.queues (s.setReg_rest r v) |>.trans rfl
@[simp] theorem State.setReg_savedCtx (s : State) (r : Reg) (v : W64) : (s.setReg r v).savedCtx = s.savedCtx := congrArg State.savedCtx (s.setReg_rest r v) |>.trans rfl
@[simp] theorem State.setReg_host (s : State) (r : Reg) (v : W64) : (s.setReg r v).host = s.host := congrArg State.host (s.setReg_rest r v) |>.trans rfl
@[simp] theorem State.setReg_hostq (s : State) (r : Reg) (v : W64) : (s.setReg r v).hostq = s.hostq := congrArg State.hostq (s.setReg_rest r v) |>.trans rfl
@[simp] theorem State.setReg_peerq (s : State) (r : Reg) (v : W64) : (s.setReg r v).peerq = s.peerq := congrArg State.peerq (s.setReg_rest r v) |>.trans rfl
@[simp] theorem State.setReg_toPeer (s : State) (r : Reg) (v : W64) : (s.setReg r v).toPeer = s.toPeer := congrArg State.toPeer (s.setReg_rest r v) |>.trans rfl
@[simp] theorem State.setReg_peerAns (s : State) (r : Reg) (v : W64) : (s.setReg r v).peerAns = s.peerAns := congrArg State.peerAns (s.setReg_rest r v) |>.trans rfl
@[simp] theorem State.setReg_cwport (s : State) (r : Reg) (v : W64) : (s.setReg r v).cwport = s.cwport := congrArg State.cwport (s.setReg_rest r v) |>.trans rfl
@[simp] theorem State.setReg_planes (s : State) (r : Reg) (v : W64) : (s.setReg r v).planes = s.planes := congrArg State.planes (s.setReg_rest r v) |>.trans rfl
@[simp] theorem State.setReg_pwrcap (s : State) (r : Reg) (v : W64) : (s.setReg r v).pwrcap = s.pwrcap := congrArg State.pwrcap (s.setReg_rest r v) |>.trans rfl
@[simp] theorem State.setReg_throttle (s : State) (r : Reg) (v : W64) : (s.setReg r v).throttle = s.throttle := congrArg State.throttle (s.setReg_rest r v) |>.trans rfl
@[simp] theorem State.setReg_therm (s : State) (r : Reg) (v : W64) : (s.setReg r v).therm = s.therm := congrArg State.therm (s.setReg_rest r v) |>.trans rfl
@[simp] theorem State.setReg_nvmNext (s : State) (r : Reg) (v : W64) : (s.setReg r v).nvmNext = s.nvmNext := congrArg State.nvmNext (s.setReg_rest r v) |>.trans rfl
@[simp] theorem State.setReg_meas (s : State) (r : Reg) (v : W64) : (s.setReg r v).meas = s.meas := congrArg State.meas (s.setReg_rest r v) |>.trans rfl
@[simp] theorem State.setReg_feaddrReg (s : State) (r : Reg) (v : W64) : (s.setReg r v).feaddrReg = s.feaddrReg := congrArg State.feaddrReg (s.setReg_rest r v) |>.trans rfl
@[simp] theorem State.setReg_feq (s : State) (r : Reg) (v : W64) : (s.setReg r v).feq = s.feq := congrArg State.feq (s.setReg_rest r v) |>.trans rfl
@[simp] theorem State.setReg_hostReads (s : State) (r : Reg) (v : W64) : (s.setReg r v).hostReads = s.hostReads := congrArg State.hostReads (s.setReg_rest r v) |>.trans rfl
@[simp] theorem State.setReg_winq (s : State) (r : Reg) (v : W64) : (s.setReg r v).winq = s.winq := congrArg State.winq (s.setReg_rest r v) |>.trans rfl
@[simp] theorem State.setReg_attq (s : State) (r : Reg) (v : W64) : (s.setReg r v).attq = s.attq := congrArg State.attq (s.setReg_rest r v) |>.trans rfl
@[simp] theorem State.setReg_appSpared (s : State) (r : Reg) (v : W64) : (s.setReg r v).appSpared = s.appSpared := congrArg State.appSpared (s.setReg_rest r v) |>.trans rfl
@[simp] theorem State.setReg_linkDown (s : State) (r : Reg) (v : W64) : (s.setReg r v).linkDown = s.linkDown := congrArg State.linkDown (s.setReg_rest r v) |>.trans rfl

theorem State.fall_rest (s : State) :
    s.fall = { s with slots := (s.fall).slots, reeds := (s.fall).reeds } := by
  unfold State.fall; split <;> rfl
@[simp] theorem State.fall_cur (s : State) : (s.fall).cur = s.cur := congrArg State.cur (s.fall_rest) |>.trans rfl
@[simp] theorem State.fall_agenda (s : State) : (s.fall).agenda = s.agenda := congrArg State.agenda (s.fall_rest) |>.trans rfl
@[simp] theorem State.fall_turns (s : State) : (s.fall).turns = s.turns := congrArg State.turns (s.fall_rest) |>.trans rfl
@[simp] theorem State.fall_frees (s : State) : (s.fall).frees = s.frees := congrArg State.frees (s.fall_rest) |>.trans rfl
@[simp] theorem State.fall_clk (s : State) : (s.fall).clk = s.clk := congrArg State.clk (s.fall_rest) |>.trans rfl
@[simp] theorem State.fall_fresh (s : State) : (s.fall).fresh = s.fresh := congrArg State.fresh (s.fall_rest) |>.trans rfl
@[simp] theorem State.fall_boot (s : State) : (s.fall).boot = s.boot := congrArg State.boot (s.fall_rest) |>.trans rfl
@[simp] theorem State.fall_clusters (s : State) : (s.fall).clusters = s.clusters := congrArg State.clusters (s.fall_rest) |>.trans rfl
@[simp] theorem State.fall_halves (s : State) : (s.fall).halves = s.halves := congrArg State.halves (s.fall_rest) |>.trans rfl
@[simp] theorem State.fall_dies (s : State) : (s.fall).dies = s.dies := congrArg State.dies (s.fall_rest) |>.trans rfl
@[simp] theorem State.fall_runs (s : State) : (s.fall).runs = s.runs := congrArg State.runs (s.fall_rest) |>.trans rfl
@[simp] theorem State.fall_ins (s : State) : (s.fall).ins = s.ins := congrArg State.ins (s.fall_rest) |>.trans rfl
@[simp] theorem State.fall_vunit (s : State) : (s.fall).vunit = s.vunit := congrArg State.vunit (s.fall_rest) |>.trans rfl
@[simp] theorem State.fall_mem (s : State) : (s.fall).mem = s.mem := congrArg State.mem (s.fall_rest) |>.trans rfl
@[simp] theorem State.fall_full (s : State) : (s.fall).full = s.full := congrArg State.full (s.fall_rest) |>.trans rfl
@[simp] theorem State.fall_cells (s : State) : (s.fall).cells = s.cells := congrArg State.cells (s.fall_rest) |>.trans rfl
@[simp] theorem State.fall_poison (s : State) : (s.fall).poison = s.poison := congrArg State.poison (s.fall_rest) |>.trans rfl
@[simp] theorem State.fall_sluices (s : State) : (s.fall).sluices = s.sluices := congrArg State.sluices (s.fall_rest) |>.trans rfl
@[simp] theorem State.fall_asked (s : State) : (s.fall).asked = s.asked := congrArg State.asked (s.fall_rest) |>.trans rfl
@[simp] theorem State.fall_loads (s : State) : (s.fall).loads = s.loads := congrArg State.loads (s.fall_rest) |>.trans rfl
@[simp] theorem State.fall_copies (s : State) : (s.fall).copies = s.copies := congrArg State.copies (s.fall_rest) |>.trans rfl
@[simp] theorem State.fall_winnow (s : State) : (s.fall).winnow = s.winnow := congrArg State.winnow (s.fall_rest) |>.trans rfl
@[simp] theorem State.fall_calls (s : State) : (s.fall).calls = s.calls := congrArg State.calls (s.fall_rest) |>.trans rfl
@[simp] theorem State.fall_msgs (s : State) : (s.fall).msgs = s.msgs := congrArg State.msgs (s.fall_rest) |>.trans rfl
@[simp] theorem State.fall_tissues (s : State) : (s.fall).tissues = s.tissues := congrArg State.tissues (s.fall_rest) |>.trans rfl
@[simp] theorem State.fall_late (s : State) : (s.fall).late = s.late := congrArg State.late (s.fall_rest) |>.trans rfl
@[simp] theorem State.fall_groups (s : State) : (s.fall).groups = s.groups := congrArg State.groups (s.fall_rest) |>.trans rfl
@[simp] theorem State.fall_launches (s : State) : (s.fall).launches = s.launches := congrArg State.launches (s.fall_rest) |>.trans rfl
@[simp] theorem State.fall_ctxs (s : State) : (s.fall).ctxs = s.ctxs := congrArg State.ctxs (s.fall_rest) |>.trans rfl
@[simp] theorem State.fall_parts (s : State) : (s.fall).parts = s.parts := congrArg State.parts (s.fall_rest) |>.trans rfl
@[simp] theorem State.fall_queues (s : State) : (s.fall).queues = s.queues := congrArg State.queues (s.fall_rest) |>.trans rfl
@[simp] theorem State.fall_savedCtx (s : State) : (s.fall).savedCtx = s.savedCtx := congrArg State.savedCtx (s.fall_rest) |>.trans rfl
@[simp] theorem State.fall_host (s : State) : (s.fall).host = s.host := congrArg State.host (s.fall_rest) |>.trans rfl
@[simp] theorem State.fall_hostq (s : State) : (s.fall).hostq = s.hostq := congrArg State.hostq (s.fall_rest) |>.trans rfl
@[simp] theorem State.fall_peerq (s : State) : (s.fall).peerq = s.peerq := congrArg State.peerq (s.fall_rest) |>.trans rfl
@[simp] theorem State.fall_toPeer (s : State) : (s.fall).toPeer = s.toPeer := congrArg State.toPeer (s.fall_rest) |>.trans rfl
@[simp] theorem State.fall_peerAns (s : State) : (s.fall).peerAns = s.peerAns := congrArg State.peerAns (s.fall_rest) |>.trans rfl
@[simp] theorem State.fall_cwport (s : State) : (s.fall).cwport = s.cwport := congrArg State.cwport (s.fall_rest) |>.trans rfl
@[simp] theorem State.fall_planes (s : State) : (s.fall).planes = s.planes := congrArg State.planes (s.fall_rest) |>.trans rfl
@[simp] theorem State.fall_pwrcap (s : State) : (s.fall).pwrcap = s.pwrcap := congrArg State.pwrcap (s.fall_rest) |>.trans rfl
@[simp] theorem State.fall_throttle (s : State) : (s.fall).throttle = s.throttle := congrArg State.throttle (s.fall_rest) |>.trans rfl
@[simp] theorem State.fall_therm (s : State) : (s.fall).therm = s.therm := congrArg State.therm (s.fall_rest) |>.trans rfl
@[simp] theorem State.fall_nvmNext (s : State) : (s.fall).nvmNext = s.nvmNext := congrArg State.nvmNext (s.fall_rest) |>.trans rfl
@[simp] theorem State.fall_meas (s : State) : (s.fall).meas = s.meas := congrArg State.meas (s.fall_rest) |>.trans rfl
@[simp] theorem State.fall_feaddrReg (s : State) : (s.fall).feaddrReg = s.feaddrReg := congrArg State.feaddrReg (s.fall_rest) |>.trans rfl
@[simp] theorem State.fall_feq (s : State) : (s.fall).feq = s.feq := congrArg State.feq (s.fall_rest) |>.trans rfl
@[simp] theorem State.fall_hostReads (s : State) : (s.fall).hostReads = s.hostReads := congrArg State.hostReads (s.fall_rest) |>.trans rfl
@[simp] theorem State.fall_winq (s : State) : (s.fall).winq = s.winq := congrArg State.winq (s.fall_rest) |>.trans rfl
@[simp] theorem State.fall_attq (s : State) : (s.fall).attq = s.attq := congrArg State.attq (s.fall_rest) |>.trans rfl
@[simp] theorem State.fall_appSpared (s : State) : (s.fall).appSpared = s.appSpared := congrArg State.appSpared (s.fall_rest) |>.trans rfl
@[simp] theorem State.fall_linkDown (s : State) : (s.fall).linkDown = s.linkDown := congrArg State.linkDown (s.fall_rest) |>.trans rfl

theorem State.jump_rest (s : State) (a : W64) :
    s.jump a = { s with slots := (s.jump a).slots, reeds := (s.jump a).reeds } := by
  unfold State.jump; split <;> rfl
@[simp] theorem State.jump_cur (s : State) (a : W64) : (s.jump a).cur = s.cur := congrArg State.cur (s.jump_rest a) |>.trans rfl
@[simp] theorem State.jump_agenda (s : State) (a : W64) : (s.jump a).agenda = s.agenda := congrArg State.agenda (s.jump_rest a) |>.trans rfl
@[simp] theorem State.jump_turns (s : State) (a : W64) : (s.jump a).turns = s.turns := congrArg State.turns (s.jump_rest a) |>.trans rfl
@[simp] theorem State.jump_frees (s : State) (a : W64) : (s.jump a).frees = s.frees := congrArg State.frees (s.jump_rest a) |>.trans rfl
@[simp] theorem State.jump_clk (s : State) (a : W64) : (s.jump a).clk = s.clk := congrArg State.clk (s.jump_rest a) |>.trans rfl
@[simp] theorem State.jump_fresh (s : State) (a : W64) : (s.jump a).fresh = s.fresh := congrArg State.fresh (s.jump_rest a) |>.trans rfl
@[simp] theorem State.jump_boot (s : State) (a : W64) : (s.jump a).boot = s.boot := congrArg State.boot (s.jump_rest a) |>.trans rfl
@[simp] theorem State.jump_clusters (s : State) (a : W64) : (s.jump a).clusters = s.clusters := congrArg State.clusters (s.jump_rest a) |>.trans rfl
@[simp] theorem State.jump_halves (s : State) (a : W64) : (s.jump a).halves = s.halves := congrArg State.halves (s.jump_rest a) |>.trans rfl
@[simp] theorem State.jump_dies (s : State) (a : W64) : (s.jump a).dies = s.dies := congrArg State.dies (s.jump_rest a) |>.trans rfl
@[simp] theorem State.jump_runs (s : State) (a : W64) : (s.jump a).runs = s.runs := congrArg State.runs (s.jump_rest a) |>.trans rfl
@[simp] theorem State.jump_ins (s : State) (a : W64) : (s.jump a).ins = s.ins := congrArg State.ins (s.jump_rest a) |>.trans rfl
@[simp] theorem State.jump_vunit (s : State) (a : W64) : (s.jump a).vunit = s.vunit := congrArg State.vunit (s.jump_rest a) |>.trans rfl
@[simp] theorem State.jump_mem (s : State) (a : W64) : (s.jump a).mem = s.mem := congrArg State.mem (s.jump_rest a) |>.trans rfl
@[simp] theorem State.jump_full (s : State) (a : W64) : (s.jump a).full = s.full := congrArg State.full (s.jump_rest a) |>.trans rfl
@[simp] theorem State.jump_cells (s : State) (a : W64) : (s.jump a).cells = s.cells := congrArg State.cells (s.jump_rest a) |>.trans rfl
@[simp] theorem State.jump_poison (s : State) (a : W64) : (s.jump a).poison = s.poison := congrArg State.poison (s.jump_rest a) |>.trans rfl
@[simp] theorem State.jump_sluices (s : State) (a : W64) : (s.jump a).sluices = s.sluices := congrArg State.sluices (s.jump_rest a) |>.trans rfl
@[simp] theorem State.jump_asked (s : State) (a : W64) : (s.jump a).asked = s.asked := congrArg State.asked (s.jump_rest a) |>.trans rfl
@[simp] theorem State.jump_loads (s : State) (a : W64) : (s.jump a).loads = s.loads := congrArg State.loads (s.jump_rest a) |>.trans rfl
@[simp] theorem State.jump_copies (s : State) (a : W64) : (s.jump a).copies = s.copies := congrArg State.copies (s.jump_rest a) |>.trans rfl
@[simp] theorem State.jump_winnow (s : State) (a : W64) : (s.jump a).winnow = s.winnow := congrArg State.winnow (s.jump_rest a) |>.trans rfl
@[simp] theorem State.jump_calls (s : State) (a : W64) : (s.jump a).calls = s.calls := congrArg State.calls (s.jump_rest a) |>.trans rfl
@[simp] theorem State.jump_msgs (s : State) (a : W64) : (s.jump a).msgs = s.msgs := congrArg State.msgs (s.jump_rest a) |>.trans rfl
@[simp] theorem State.jump_tissues (s : State) (a : W64) : (s.jump a).tissues = s.tissues := congrArg State.tissues (s.jump_rest a) |>.trans rfl
@[simp] theorem State.jump_late (s : State) (a : W64) : (s.jump a).late = s.late := congrArg State.late (s.jump_rest a) |>.trans rfl
@[simp] theorem State.jump_groups (s : State) (a : W64) : (s.jump a).groups = s.groups := congrArg State.groups (s.jump_rest a) |>.trans rfl
@[simp] theorem State.jump_launches (s : State) (a : W64) : (s.jump a).launches = s.launches := congrArg State.launches (s.jump_rest a) |>.trans rfl
@[simp] theorem State.jump_ctxs (s : State) (a : W64) : (s.jump a).ctxs = s.ctxs := congrArg State.ctxs (s.jump_rest a) |>.trans rfl
@[simp] theorem State.jump_parts (s : State) (a : W64) : (s.jump a).parts = s.parts := congrArg State.parts (s.jump_rest a) |>.trans rfl
@[simp] theorem State.jump_queues (s : State) (a : W64) : (s.jump a).queues = s.queues := congrArg State.queues (s.jump_rest a) |>.trans rfl
@[simp] theorem State.jump_savedCtx (s : State) (a : W64) : (s.jump a).savedCtx = s.savedCtx := congrArg State.savedCtx (s.jump_rest a) |>.trans rfl
@[simp] theorem State.jump_host (s : State) (a : W64) : (s.jump a).host = s.host := congrArg State.host (s.jump_rest a) |>.trans rfl
@[simp] theorem State.jump_hostq (s : State) (a : W64) : (s.jump a).hostq = s.hostq := congrArg State.hostq (s.jump_rest a) |>.trans rfl
@[simp] theorem State.jump_peerq (s : State) (a : W64) : (s.jump a).peerq = s.peerq := congrArg State.peerq (s.jump_rest a) |>.trans rfl
@[simp] theorem State.jump_toPeer (s : State) (a : W64) : (s.jump a).toPeer = s.toPeer := congrArg State.toPeer (s.jump_rest a) |>.trans rfl
@[simp] theorem State.jump_peerAns (s : State) (a : W64) : (s.jump a).peerAns = s.peerAns := congrArg State.peerAns (s.jump_rest a) |>.trans rfl
@[simp] theorem State.jump_cwport (s : State) (a : W64) : (s.jump a).cwport = s.cwport := congrArg State.cwport (s.jump_rest a) |>.trans rfl
@[simp] theorem State.jump_planes (s : State) (a : W64) : (s.jump a).planes = s.planes := congrArg State.planes (s.jump_rest a) |>.trans rfl
@[simp] theorem State.jump_pwrcap (s : State) (a : W64) : (s.jump a).pwrcap = s.pwrcap := congrArg State.pwrcap (s.jump_rest a) |>.trans rfl
@[simp] theorem State.jump_throttle (s : State) (a : W64) : (s.jump a).throttle = s.throttle := congrArg State.throttle (s.jump_rest a) |>.trans rfl
@[simp] theorem State.jump_therm (s : State) (a : W64) : (s.jump a).therm = s.therm := congrArg State.therm (s.jump_rest a) |>.trans rfl
@[simp] theorem State.jump_nvmNext (s : State) (a : W64) : (s.jump a).nvmNext = s.nvmNext := congrArg State.nvmNext (s.jump_rest a) |>.trans rfl
@[simp] theorem State.jump_meas (s : State) (a : W64) : (s.jump a).meas = s.meas := congrArg State.meas (s.jump_rest a) |>.trans rfl
@[simp] theorem State.jump_feaddrReg (s : State) (a : W64) : (s.jump a).feaddrReg = s.feaddrReg := congrArg State.feaddrReg (s.jump_rest a) |>.trans rfl
@[simp] theorem State.jump_feq (s : State) (a : W64) : (s.jump a).feq = s.feq := congrArg State.feq (s.jump_rest a) |>.trans rfl
@[simp] theorem State.jump_hostReads (s : State) (a : W64) : (s.jump a).hostReads = s.hostReads := congrArg State.hostReads (s.jump_rest a) |>.trans rfl
@[simp] theorem State.jump_winq (s : State) (a : W64) : (s.jump a).winq = s.winq := congrArg State.winq (s.jump_rest a) |>.trans rfl
@[simp] theorem State.jump_attq (s : State) (a : W64) : (s.jump a).attq = s.attq := congrArg State.attq (s.jump_rest a) |>.trans rfl
@[simp] theorem State.jump_appSpared (s : State) (a : W64) : (s.jump a).appSpared = s.appSpared := congrArg State.appSpared (s.jump_rest a) |>.trans rfl
@[simp] theorem State.jump_linkDown (s : State) (a : W64) : (s.jump a).linkDown = s.linkDown := congrArg State.linkDown (s.jump_rest a) |>.trans rfl

theorem State.setPhase_rest (s : State) (x : Phase) :
    s.setPhase x = { s with slots := (s.setPhase x).slots, reeds := (s.setPhase x).reeds } := by
  unfold State.setPhase; split <;> rfl
@[simp] theorem State.setPhase_cur (s : State) (x : Phase) : (s.setPhase x).cur = s.cur := congrArg State.cur (s.setPhase_rest x) |>.trans rfl
@[simp] theorem State.setPhase_agenda (s : State) (x : Phase) : (s.setPhase x).agenda = s.agenda := congrArg State.agenda (s.setPhase_rest x) |>.trans rfl
@[simp] theorem State.setPhase_turns (s : State) (x : Phase) : (s.setPhase x).turns = s.turns := congrArg State.turns (s.setPhase_rest x) |>.trans rfl
@[simp] theorem State.setPhase_frees (s : State) (x : Phase) : (s.setPhase x).frees = s.frees := congrArg State.frees (s.setPhase_rest x) |>.trans rfl
@[simp] theorem State.setPhase_clk (s : State) (x : Phase) : (s.setPhase x).clk = s.clk := congrArg State.clk (s.setPhase_rest x) |>.trans rfl
@[simp] theorem State.setPhase_fresh (s : State) (x : Phase) : (s.setPhase x).fresh = s.fresh := congrArg State.fresh (s.setPhase_rest x) |>.trans rfl
@[simp] theorem State.setPhase_boot (s : State) (x : Phase) : (s.setPhase x).boot = s.boot := congrArg State.boot (s.setPhase_rest x) |>.trans rfl
@[simp] theorem State.setPhase_clusters (s : State) (x : Phase) : (s.setPhase x).clusters = s.clusters := congrArg State.clusters (s.setPhase_rest x) |>.trans rfl
@[simp] theorem State.setPhase_halves (s : State) (x : Phase) : (s.setPhase x).halves = s.halves := congrArg State.halves (s.setPhase_rest x) |>.trans rfl
@[simp] theorem State.setPhase_dies (s : State) (x : Phase) : (s.setPhase x).dies = s.dies := congrArg State.dies (s.setPhase_rest x) |>.trans rfl
@[simp] theorem State.setPhase_runs (s : State) (x : Phase) : (s.setPhase x).runs = s.runs := congrArg State.runs (s.setPhase_rest x) |>.trans rfl
@[simp] theorem State.setPhase_ins (s : State) (x : Phase) : (s.setPhase x).ins = s.ins := congrArg State.ins (s.setPhase_rest x) |>.trans rfl
@[simp] theorem State.setPhase_vunit (s : State) (x : Phase) : (s.setPhase x).vunit = s.vunit := congrArg State.vunit (s.setPhase_rest x) |>.trans rfl
@[simp] theorem State.setPhase_mem (s : State) (x : Phase) : (s.setPhase x).mem = s.mem := congrArg State.mem (s.setPhase_rest x) |>.trans rfl
@[simp] theorem State.setPhase_full (s : State) (x : Phase) : (s.setPhase x).full = s.full := congrArg State.full (s.setPhase_rest x) |>.trans rfl
@[simp] theorem State.setPhase_cells (s : State) (x : Phase) : (s.setPhase x).cells = s.cells := congrArg State.cells (s.setPhase_rest x) |>.trans rfl
@[simp] theorem State.setPhase_poison (s : State) (x : Phase) : (s.setPhase x).poison = s.poison := congrArg State.poison (s.setPhase_rest x) |>.trans rfl
@[simp] theorem State.setPhase_sluices (s : State) (x : Phase) : (s.setPhase x).sluices = s.sluices := congrArg State.sluices (s.setPhase_rest x) |>.trans rfl
@[simp] theorem State.setPhase_asked (s : State) (x : Phase) : (s.setPhase x).asked = s.asked := congrArg State.asked (s.setPhase_rest x) |>.trans rfl
@[simp] theorem State.setPhase_loads (s : State) (x : Phase) : (s.setPhase x).loads = s.loads := congrArg State.loads (s.setPhase_rest x) |>.trans rfl
@[simp] theorem State.setPhase_copies (s : State) (x : Phase) : (s.setPhase x).copies = s.copies := congrArg State.copies (s.setPhase_rest x) |>.trans rfl
@[simp] theorem State.setPhase_winnow (s : State) (x : Phase) : (s.setPhase x).winnow = s.winnow := congrArg State.winnow (s.setPhase_rest x) |>.trans rfl
@[simp] theorem State.setPhase_calls (s : State) (x : Phase) : (s.setPhase x).calls = s.calls := congrArg State.calls (s.setPhase_rest x) |>.trans rfl
@[simp] theorem State.setPhase_msgs (s : State) (x : Phase) : (s.setPhase x).msgs = s.msgs := congrArg State.msgs (s.setPhase_rest x) |>.trans rfl
@[simp] theorem State.setPhase_tissues (s : State) (x : Phase) : (s.setPhase x).tissues = s.tissues := congrArg State.tissues (s.setPhase_rest x) |>.trans rfl
@[simp] theorem State.setPhase_late (s : State) (x : Phase) : (s.setPhase x).late = s.late := congrArg State.late (s.setPhase_rest x) |>.trans rfl
@[simp] theorem State.setPhase_groups (s : State) (x : Phase) : (s.setPhase x).groups = s.groups := congrArg State.groups (s.setPhase_rest x) |>.trans rfl
@[simp] theorem State.setPhase_launches (s : State) (x : Phase) : (s.setPhase x).launches = s.launches := congrArg State.launches (s.setPhase_rest x) |>.trans rfl
@[simp] theorem State.setPhase_ctxs (s : State) (x : Phase) : (s.setPhase x).ctxs = s.ctxs := congrArg State.ctxs (s.setPhase_rest x) |>.trans rfl
@[simp] theorem State.setPhase_parts (s : State) (x : Phase) : (s.setPhase x).parts = s.parts := congrArg State.parts (s.setPhase_rest x) |>.trans rfl
@[simp] theorem State.setPhase_queues (s : State) (x : Phase) : (s.setPhase x).queues = s.queues := congrArg State.queues (s.setPhase_rest x) |>.trans rfl
@[simp] theorem State.setPhase_savedCtx (s : State) (x : Phase) : (s.setPhase x).savedCtx = s.savedCtx := congrArg State.savedCtx (s.setPhase_rest x) |>.trans rfl
@[simp] theorem State.setPhase_host (s : State) (x : Phase) : (s.setPhase x).host = s.host := congrArg State.host (s.setPhase_rest x) |>.trans rfl
@[simp] theorem State.setPhase_hostq (s : State) (x : Phase) : (s.setPhase x).hostq = s.hostq := congrArg State.hostq (s.setPhase_rest x) |>.trans rfl
@[simp] theorem State.setPhase_peerq (s : State) (x : Phase) : (s.setPhase x).peerq = s.peerq := congrArg State.peerq (s.setPhase_rest x) |>.trans rfl
@[simp] theorem State.setPhase_toPeer (s : State) (x : Phase) : (s.setPhase x).toPeer = s.toPeer := congrArg State.toPeer (s.setPhase_rest x) |>.trans rfl
@[simp] theorem State.setPhase_peerAns (s : State) (x : Phase) : (s.setPhase x).peerAns = s.peerAns := congrArg State.peerAns (s.setPhase_rest x) |>.trans rfl
@[simp] theorem State.setPhase_cwport (s : State) (x : Phase) : (s.setPhase x).cwport = s.cwport := congrArg State.cwport (s.setPhase_rest x) |>.trans rfl
@[simp] theorem State.setPhase_planes (s : State) (x : Phase) : (s.setPhase x).planes = s.planes := congrArg State.planes (s.setPhase_rest x) |>.trans rfl
@[simp] theorem State.setPhase_pwrcap (s : State) (x : Phase) : (s.setPhase x).pwrcap = s.pwrcap := congrArg State.pwrcap (s.setPhase_rest x) |>.trans rfl
@[simp] theorem State.setPhase_throttle (s : State) (x : Phase) : (s.setPhase x).throttle = s.throttle := congrArg State.throttle (s.setPhase_rest x) |>.trans rfl
@[simp] theorem State.setPhase_therm (s : State) (x : Phase) : (s.setPhase x).therm = s.therm := congrArg State.therm (s.setPhase_rest x) |>.trans rfl
@[simp] theorem State.setPhase_nvmNext (s : State) (x : Phase) : (s.setPhase x).nvmNext = s.nvmNext := congrArg State.nvmNext (s.setPhase_rest x) |>.trans rfl
@[simp] theorem State.setPhase_meas (s : State) (x : Phase) : (s.setPhase x).meas = s.meas := congrArg State.meas (s.setPhase_rest x) |>.trans rfl
@[simp] theorem State.setPhase_feaddrReg (s : State) (x : Phase) : (s.setPhase x).feaddrReg = s.feaddrReg := congrArg State.feaddrReg (s.setPhase_rest x) |>.trans rfl
@[simp] theorem State.setPhase_feq (s : State) (x : Phase) : (s.setPhase x).feq = s.feq := congrArg State.feq (s.setPhase_rest x) |>.trans rfl
@[simp] theorem State.setPhase_hostReads (s : State) (x : Phase) : (s.setPhase x).hostReads = s.hostReads := congrArg State.hostReads (s.setPhase_rest x) |>.trans rfl
@[simp] theorem State.setPhase_winq (s : State) (x : Phase) : (s.setPhase x).winq = s.winq := congrArg State.winq (s.setPhase_rest x) |>.trans rfl
@[simp] theorem State.setPhase_attq (s : State) (x : Phase) : (s.setPhase x).attq = s.attq := congrArg State.attq (s.setPhase_rest x) |>.trans rfl
@[simp] theorem State.setPhase_appSpared (s : State) (x : Phase) : (s.setPhase x).appSpared = s.appSpared := congrArg State.appSpared (s.setPhase_rest x) |>.trans rfl
@[simp] theorem State.setPhase_linkDown (s : State) (x : Phase) : (s.setPhase x).linkDown = s.linkDown := congrArg State.linkDown (s.setPhase_rest x) |>.trans rfl

/-! ### Tables -/

theorem aget_aset {κ α : Type} [DecidableEq κ] (d : α) (m : List (κ × α)) (k k' : κ) (v : α) :
    aget d (aset m k v) k' = if k = k' then v else aget d m k' := by
  induction m with
  | nil => simp [aset, aget]
  | cons p r ih =>
    obtain ⟨a, b⟩ := p
    by_cases h : a = k
    · subst h; by_cases h2 : a = k' <;> simp [aset, aget, h2]
    · by_cases h2 : a = k'
      · subst h2; simp [aset, aget, h, Ne.symm h]
      · simp [aset, aget, h, h2, ih]

@[simp] theorem aget_aset_self {κ α : Type} [DecidableEq κ] (d : α) (m : List (κ × α)) (k : κ) (v : α) : aget d (aset m k v) k = v := by
  simp [aget_aset]

theorem aget_aset_ne {κ α : Type} [DecidableEq κ] (d : α) (m : List (κ × α)) {k k' : κ} (h : k ≠ k') (v : α) :
    aget d (aset m k v) k' = aget d m k' := by simp [aget_aset, h]

theorem agetO_aset {κ α : Type} [DecidableEq κ] (m : List (κ × α)) (k k' : κ) (v : α) :
    aget? (aset m k v) k' = if k = k' then some v else aget? m k' := by
  induction m with
  | nil => simp [aset, aget?]
  | cons p r ih =>
    obtain ⟨a, b⟩ := p
    by_cases h : a = k
    · subst h; by_cases h2 : a = k' <;> simp [aset, aget?, h2]
    · by_cases h2 : a = k'
      · subst h2; simp [aset, aget?, h, Ne.symm h]
      · simp [aset, aget?, h, h2, ih]

@[simp] theorem agetO_aset_self {κ α : Type} [DecidableEq κ] (m : List (κ × α)) (k : κ) (v : α) : aget? (aset m k v) k = some v := by
  simp [agetO_aset]

/-! ### Units after an update -/

@[simp] theorem State.thr_setThr (s : State) (ti : SlotId) (x : Thread) : (s.setThr ti x).thr ti = x := aget_aset_self _ _ _ _
theorem State.thr_setThr_ne (s : State) {ti tj : SlotId} (h : tj ≠ ti) (x : Thread) : (s.setThr ti x).thr tj = s.thr tj :=
  aget_aset_ne _ _ (Ne.symm h) _
@[simp] theorem State.thr_modThr (s : State) (ti : SlotId) (f : Thread → Thread) : (s.modThr ti f).thr ti = f (s.thr ti) := aget_aset_self _ _ _ _
theorem State.thr_modThr_ne (s : State) {ti tj : SlotId} (h : tj ≠ ti) (f : Thread → Thread) : (s.modThr ti f).thr tj = s.thr tj :=
  aget_aset_ne _ _ (Ne.symm h) _
@[simp] theorem State.die_setDie (s : State) (d : Nat) (x : Die) : (s.setDie d x).die d = x := aget_aset_self _ _ _ _
@[simp] theorem State.part_setPart (s : State) (p : Nat) (x : Part) : (s.setPart p x).part p = x := aget_aset_self _ _ _ _
@[simp] theorem State.ctx_setCtx (s : State) (p c : Nat) (x : Ctx) : (s.setCtx p c x).ctx p c = x := aget_aset_self _ _ _ _
@[simp] theorem State.reed_setReed (s : State) (q : Nat) (x : Reed) : (s.setReed q x).reed q = x := aget_aset_self _ _ _ _
@[simp] theorem State.sluice_setSluice (s : State) (q g : Nat) (x : Sluice) : (s.setSluice q g x).sluice q g = x := aget_aset_self _ _ _ _
@[simp] theorem State.half_setHalf (s : State) (d c x : Nat) (h : Half) : (s.setHalf d c x h).half d c x = h := aget_aset_self _ _ _ _
@[simp] theorem State.cluster_setCluster (s : State) (d c : Nat) (x : Cluster) : (s.setCluster d c x).cluster d c = x := aget_aset_self _ _ _ _
@[simp] theorem State.run_setRun (s : State) (r : RunId) (x : Run) : (s.setRun r x).run r = x := aget_aset_self _ _ _ _

/-! ### Who issues -/

theorem State.issues.me_eq {s : State} {ti : SlotId} (h : s.issues ti) : s.me = ti := by simp [State.issues] at h; simp [State.me, h]
theorem State.issues.th_eq {s : State} {ti : SlotId} (h : s.issues ti) : s.th = s.thr ti := by rw [State.th, h.me_eq]
theorem State.issues.reg_eq {s : State} {ti : SlotId} (h : s.issues ti) (r : Reg) : s.reg r = (s.thr ti).reg r := by
  simp [State.issues] at h; simp [State.reg, h, State.th, State.me]
theorem State.issues.setReg_eq {s : State} {ti : SlotId} (h : s.issues ti) (r : Reg) (v : W64) :
    s.setReg r v = s.modThr ti fun t => t.setReg r v := by
  simp [State.issues] at h; simp [State.setReg, h, State.modMe, State.me]
theorem State.issues.fall_eq {s : State} {ti : SlotId} (h : s.issues ti) :
    s.fall = s.modThr ti fun t => t.fallThrough s.cur.addr s.cur.len := by
  simp [State.issues] at h; simp [State.fall, h, State.modMe, State.me]
theorem State.issues.jump_eq {s : State} {ti : SlotId} (h : s.issues ti) (a : W64) :
    s.jump a = s.modThr ti fun t => { t with pc := a, ph := Phase.zero, wait := .no } := by
  simp [State.issues] at h; simp [State.jump, h, State.modMe, State.me]
theorem State.issues.modThr {s : State} {ti : SlotId} (h : s.issues ti) (tj : SlotId) (f : Thread → Thread) : (s.modThr tj f).issues ti := h
theorem State.issues.setReg {s : State} {ti : SlotId} (h : s.issues ti) (r : Reg) (v : W64) : (s.setReg r v).issues ti := by
  rw [h.setReg_eq]; exact h

theorem State.modThr_modThr (s : State) (ti : SlotId) (f g : Thread → Thread) : (s.modThr ti f).modThr ti g = s.modThr ti fun t => g (f t) := by
  have h : ∀ (m : List (SlotId × Thread)) (a b : Thread), aset (aset m ti a) ti b = aset m ti b := by
    intro m a b
    induction m with
    | nil => simp [aset]
    | cons p r ih => obtain ⟨k, v⟩ := p; by_cases hk : k = ti <;> simp [aset, hk, ih]
  simp [State.modThr, State.setThr, State.thr, h]

/-! ### Registers -/

theorem vget_vset {n : Nat} (v : Vector W64 (n + 1)) (i j : Nat) (x : W64) :
    vget (vset v i x) j = if i % (n + 1) = j % (n + 1) then x else vget v j := by
  simp [vget, vset, Vector.getElem_set]

/-- A write of a register other than h0 is read back. -/
theorem Thread.reg_setReg (t : Thread) (r : Reg) (v : W64) (h : r ≠ 24#5) : (t.setReg r v).reg r = v := by
  have hn : r.toNat ≠ 24 := fun e => h (BitVec.eq_of_toNat_eq e)
  unfold Thread.setReg Thread.reg
  by_cases h1 : r.toNat < 24
  · simp [h1, vget_vset, Thread.physOf]
  · simp [h1, hn, vget_vset]

/-- h0 reads 0 after every write of it. -/
theorem Thread.reg_h0 (t : Thread) : t.reg 24#5 = 0#64 := by simp [Thread.reg]
theorem Thread.setReg_h0 (t : Thread) (v : W64) : t.setReg 24#5 v = t := by simp [Thread.setReg]

/-- The places a register write may change (R54). -/
theorem Thread.atPlace_setReg (t : Thread) (r : Reg) (v : W64) (pl : Nat) (hp : pl < 136) (h : pl ≠ t.place r) :
    (t.setReg r v).atPlace pl = t.atPlace pl := by
  have hr := r.isLt
  unfold Thread.setReg Thread.atPlace Thread.place at *
  by_cases h1 : r.toNat < 24
  · simp [h1] at h ⊢
    by_cases h2 : pl < 128
    · have : t.physOf r.toNat < 128 := Nat.mod_lt _ (by decide)
      simp [h2, vget_vset]
      intro e; exact absurd (by omega) h
    · simp [h2]
  · simp [h1] at h ⊢
    by_cases h0 : r.toNat = 24
    · simp [h0]
    · simp [h0]
      by_cases h2 : pl < 128
      · simp [h2]
      · simp [h2, vget_vset]
        intro e; exact absurd (by omega) h

theorem Thread.still_setReg (t : Thread) (r : Reg) (v : W64) : (t.setReg r v).still = t.still := by
  unfold Thread.setReg
  by_cases h : r.toNat < 24
  · simp only [h, if_true]; rfl
  · by_cases h0 : r.toNat = 24
    · simp [h0]
    · simp only [h, h0, if_false]; rfl

/-- All that completion with fall-through may change (R59). -/
theorem Thread.fallThrough_shape (t : Thread) (a : W64) (n : Nat) :
    ∃ c0 c1 p, t.fallThrough a n = { t with lc0 := c0, lc1 := c1, pc := p, ph := Phase.zero, wait := .no } := by
  unfold Thread.fallThrough
  simp only []
  split
  · split
    · exact ⟨_, _, _, rfl⟩
    · split
      · split <;> exact ⟨_, _, _, rfl⟩
      · exact ⟨_, _, _, rfl⟩
  · split
    · split <;> exact ⟨_, _, _, rfl⟩
    · exact ⟨_, _, _, rfl⟩

theorem Thread.still_fallThrough (t : Thread) (a : W64) (n : Nat) : (t.fallThrough a n).still = t.still := by
  obtain ⟨_, _, _, h⟩ := t.fallThrough_shape a n; rw [h]; rfl
theorem Thread.phys_fallThrough (t : Thread) (a : W64) (n : Nat) : (t.fallThrough a n).phys = t.phys := by
  obtain ⟨_, _, _, h⟩ := t.fallThrough_shape a n; rw [h]
theorem Thread.h_fallThrough (t : Thread) (a : W64) (n : Nat) : (t.fallThrough a n).h = t.h := by
  obtain ⟨_, _, _, h⟩ := t.fallThrough_shape a n; rw [h]
theorem Thread.rpois_fallThrough (t : Thread) (a : W64) (n : Nat) : (t.fallThrough a n).rpois = t.rpois := by
  obtain ⟨_, _, _, h⟩ := t.fallThrough_shape a n; rw [h]
theorem Thread.atPlace_fallThrough (t : Thread) (a : W64) (n pl : Nat) : (t.fallThrough a n).atPlace pl = t.atPlace pl := by
  simp [Thread.atPlace, Thread.phys_fallThrough, Thread.h_fallThrough]

/-- An update of one thread changes nothing else. -/
theorem onlyThread_modThr (s : State) (ti : SlotId) (f : Thread → Thread) : OnlyThread ti s (s.modThr ti f) :=
  ⟨rfl, fun _ h => State.thr_modThr_ne s h f, fun _ => rfl⟩

/-- A register's own poison mark goes when it is written; every other mark stays (R364). -/
theorem Thread.mem_rpois_setReg (t : Thread) (r : Reg) (v : W64) {pl : Nat} (h : pl ≠ t.place r) :
    pl ∈ (t.setReg r v).rpois ↔ pl ∈ t.rpois := by
  unfold Thread.setReg
  by_cases c : r.toNat < 24
  · simpa [Thread.place, c] using fun _ => by simpa [Thread.place, c] using h
  · by_cases c0 : r.toNat = 24
    · simp [c0]
    · simp only [c, c0, if_false, List.mem_filter, bne_iff_ne]
      exact and_iff_left (by simpa [Thread.place, c] using h)

/-- The frame of writing a register and falling through. -/
theorem regFrame_setReg_fall {s : State} {ti : SlotId} (h : s.issues ti) (r : Reg) (v : W64) : RegFrame ti [r] s (s.setReg r v).fall := by
  rw [(h.setReg r v).fall_eq, h.setReg_eq, State.modThr_modThr]
  refine ⟨onlyThread_modThr _ _ _, ?_, ?_, ?_⟩
  · intro pl hp hn
    simp at hn
    simp [Thread.atPlace_fallThrough, Thread.atPlace_setReg _ _ _ _ hp hn]
  · intro pl hn
    simp at hn
    simp [Thread.rpois_fallThrough, Thread.mem_rpois_setReg _ _ _ hn]
  · simp [Thread.still_fallThrough, Thread.still_setReg]

theorem regFrame_fall {s : State} {ti : SlotId} (h : s.issues ti) : RegFrame ti [] s s.fall := by
  rw [h.fall_eq]
  exact ⟨onlyThread_modThr _ _ _, fun pl _ _ => by simp [Thread.atPlace_fallThrough],
    fun pl _ => by simp [Thread.rpois_fallThrough], by simp [Thread.still_fallThrough]⟩

theorem regFrame_jump {s : State} {ti : SlotId} (h : s.issues ti) (a : W64) : RegFrame ti [] s (s.jump a) := by
  rw [h.jump_eq]
  exact ⟨onlyThread_modThr _ _ _, fun pl _ _ => by simp [Thread.atPlace], fun pl _ => by simp, by simp [Thread.still]⟩

end Sys2Proof.Machine
end

