-- ==== Sys2Proof/Laws/Memory.lean ====
section
/-!
SUPPORT. Laws/Memory.lean: the laws of device memory: reading after writing, and that every operation that writes memory keeps the
canonical form.
-/
namespace Sys2Proof.Machine
open Sys2Proof

/-! ### Bytes -/

theorem Memory.wfFrom_cons (lo a : Nat) (b : Byte) (r : Memory) :
    Memory.wfFrom lo ((a, b) :: r) = true ↔ lo ≤ a ∧ b ≠ Memory.unlisted ∧ Memory.wfFrom (a + 1) r = true := by
  simp [Memory.wfFrom, and_assoc]

theorem Memory.wfFrom_mono {m : Memory} {lo lo' : Nat} (h : Memory.wfFrom lo m = true) (hl : lo' ≤ lo) : Memory.wfFrom lo' m = true := by
  cases m with
  | nil => rfl
  | cons p r => obtain ⟨a, b⟩ := p; rw [Memory.wfFrom_cons] at *; exact ⟨Nat.le_trans hl h.1, h.2⟩

theorem Memory.wfFrom_write {m : Memory} {lo : Nat} (h : Memory.wfFrom lo m = true) (a : Nat) (b : Byte) (ha : lo ≤ a) :
    Memory.wfFrom lo (Memory.write m a b) = true := by
  induction m generalizing lo with
  | nil => unfold Memory.write; split <;> simp_all [Memory.wfFrom]
  | cons p r ih =>
    obtain ⟨k, c⟩ := p
    rw [Memory.wfFrom_cons] at h
    unfold Memory.write
    by_cases h1 : a < k
    · by_cases h2 : b = Memory.unlisted
      · simp only [h1, h2, if_true]; rw [Memory.wfFrom_cons]; exact h
      · simp only [h1, h2, if_true, if_false]; rw [Memory.wfFrom_cons, Memory.wfFrom_cons]; exact ⟨ha, h2, by omega, h.2⟩
    · by_cases h2 : a = k
      · subst h2
        by_cases h3 : b = Memory.unlisted
        · simp only [h3, if_true, Nat.lt_irrefl, if_false]; exact Memory.wfFrom_mono h.2.2 (by omega)
        · simp only [h3, if_true, Nat.lt_irrefl, if_false]; rw [Memory.wfFrom_cons]; exact ⟨ha, h3, h.2.2⟩
      · simp only [h1, h2, if_false]; rw [Memory.wfFrom_cons]
        exact ⟨h.1, h.2.1, ih h.2.2 (by omega)⟩

/-- Writing a byte keeps the canonical form. -/
theorem Memory.wf_write {m : Memory} (h : m.wf = true) (a : Nat) (b : Byte) : (m.write a b).wf = true :=
  Memory.wfFrom_write h a b (Nat.zero_le _)

/-- Writing bytes keeps the canonical form. -/
theorem Memory.wf_writeN {m : Memory} (h : m.wf = true) (a : Nat) (bs : List Byte) : (m.writeN a bs).wf = true := by
  induction bs generalizing m a with
  | nil => exact h
  | cons b bs ih => exact ih (Memory.wf_write h a b) (a + 1)

/-- Below the lower bound nothing is listed. -/
theorem Memory.read_below {m : Memory} {lo a : Nat} (h : Memory.wfFrom lo m = true) (ha : a < lo) : m.read a = Memory.unlisted := by
  cases m with
  | nil => rfl
  | cons p r =>
    obtain ⟨k, c⟩ := p
    rw [Memory.wfFrom_cons] at h
    unfold Memory.read
    rw [if_neg (by omega), if_pos (by omega)]

theorem Memory.readFrom_write {m : Memory} {lo : Nat} (h : Memory.wfFrom lo m = true) (a : Nat) (b : Byte) (x : Nat) :
    (m.write a b).read x = if x = a then b else m.read x := by
  induction m generalizing lo with
  | nil =>
    unfold Memory.write
    by_cases hb : b = Memory.unlisted <;> simp only [hb, if_true, if_false]
    · simp [Memory.read]
    · unfold Memory.read
      by_cases hx : x = a
      · simp [hx]
      · simp [hx, Ne.symm hx, Memory.read]
  | cons p r ih =>
    obtain ⟨k, c⟩ := p
    rw [Memory.wfFrom_cons] at h
    unfold Memory.write
    by_cases h1 : a < k
    · by_cases h2 : b = Memory.unlisted <;> simp only [h1, h2, if_true, if_false]
      · by_cases hx : x = a
        · subst hx; simp only [Memory.read, if_true]; rw [if_neg (by omega), if_pos h1]
        · simp only [hx, if_false]
      · by_cases hx : x = a
        · simp [hx, Memory.read]
        · simp only [Memory.read, hx, if_false, Ne.symm hx]
          by_cases hxa : x < a
          · rw [if_pos hxa, if_neg (by omega), if_pos (by omega)]
          · rw [if_neg hxa]
    · by_cases h2 : a = k
      · subst h2
        simp only [Nat.lt_irrefl, if_false, if_true]
        by_cases h3 : b = Memory.unlisted <;> simp only [h3, if_true, if_false]
        · by_cases hx : x = a
          · subst hx; simp only [if_true]; exact Memory.read_below h.2.2 (Nat.lt_succ_self _)
          · simp only [hx, if_false, Memory.read, Ne.symm hx]
            by_cases hxa : x < a
            · rw [if_pos hxa]; exact Memory.read_below h.2.2 (by omega)
            · rw [if_neg hxa]
        · by_cases hx : x = a
          · simp [hx, Memory.read]
          · simp only [hx, if_false, Memory.read, Ne.symm hx]
      · simp only [h1, h2, if_false, Memory.read]
        by_cases hk : k = x
        · subst hk; simp [Ne.symm h2]
        · simp only [hk, if_false]
          by_cases hxk : x < k
          · rw [if_pos hxk, if_pos hxk, if_neg (by omega)]
          · rw [if_neg hxk, if_neg hxk]; exact ih h.2.2

/-- A byte written is read back, and no other byte changes. -/
theorem Memory.read_write {m : Memory} (h : m.wf = true) (a : Nat) (b : Byte) (x : Nat) :
    (m.write a b).read x = if x = a then b else m.read x := Memory.readFrom_write h a b x

/-- A byte outside the bytes written is unchanged. -/
theorem Memory.read_writeN_other {m : Memory} (h : m.wf = true) (a : Nat) (bs : List Byte) (x : Nat) (hx : x < a ∨ a + bs.length ≤ x) :
    (m.writeN a bs).read x = m.read x := by
  induction bs generalizing m a with
  | nil => rfl
  | cons b bs ih =>
    show ((m.write a b).writeN (a + 1) bs).read x = _
    rw [ih (Memory.wf_write h a b) (a + 1) (by simp at hx; omega), Memory.read_write h, if_neg (by simp at hx; omega)]

/-- The bytes written are read back. -/
theorem Memory.readN_writeN {m : Memory} (h : m.wf = true) (a : Nat) (bs : List Byte) : (m.writeN a bs).readN a bs.length = bs := by
  induction bs generalizing m a with
  | nil => rfl
  | cons b bs ih =>
    show ((m.write a b).writeN (a + 1) bs).read a :: ((m.write a b).writeN (a + 1) bs).readN (a + 1) bs.length = _
    rw [Memory.read_writeN_other (Memory.wf_write h a b) (a + 1) bs a (by omega), Memory.read_write h, if_pos rfl, ih (Memory.wf_write h a b)]

/-- Little-endian bytes give their number back (R9). -/
theorem leNat_leBytes (n v : Nat) : leNat (leBytes n v) = v % 256 ^ n := by
  induction n generalizing v with
  | zero => simp [leBytes, leNat, Nat.mod_one]
  | succ n ih =>
    have e : 256 ^ (n + 1) = 256 * 256 ^ n := by rw [Nat.pow_succ, Nat.mul_comm]
    rw [e, Nat.mod_mul, ← ih]
    simp [leBytes, leNat]

@[simp] theorem length_leBytes (n v : Nat) : (leBytes n v).length = n := by
  induction n generalizing v with
  | zero => rfl
  | succ n ih => simp [leBytes, ih]

theorem reset_mem_wf : State.reset.mem.wf = true := rfl

/-! ### Operations on device memory keep the canonical form -/

theorem State.dramWrite_wf {s : State} (h : s.Inv) (lin : Nat) (bs : List Byte) : (s.dramWrite lin bs).Inv := Memory.wf_writeN h lin bs

/-- A word written is read back from the barn. -/
theorem State.dramRead_dramWrite {s : State} (h : s.Inv) (lin n v : Nat) : (s.dramWrite lin (leBytes n v)).dramRead lin n = v % 256 ^ n := by
  have := Memory.readN_writeN (m := s.mem) h lin (leBytes n v)
  simp only [length_leBytes] at this
  simp [State.dramRead, this, leNat_leBytes]

theorem State.errLog_wf {s : State} (h : s.Inv) (p kind site die clu unit addr : Nat) (c : Bool) : (s.errLog p kind site die clu unit addr c).Inv := by
  unfold State.errLog
  extract_lets
  split <;> exact h

/-- The state a Put carries keeps the canonical form. -/
def Put.Keeps : Put → Prop
  | .ok s => s.Inv
  | .behind s => s.Inv
  | _ => True

theorem State.barnApply_wf {s : State} (h : s.Inv) (e : Entry) : (s.barnApply e).Keeps := by
  unfold State.barnApply
  extract_lets _ _ _ t
  have h : t.Inv := h
  split
  · exact State.errLog_wf h _ _ _ _ _ _ _ _
  split
  · exact State.errLog_wf h _ _ _ _ _ _ _ _
  split
  · exact h
  split
  · trivial
  · extract_lets
    split
    · trivial
    · split
      · exact Memory.wf_writeN h _ _
      · exact Memory.wf_writeN h _ _

theorem State.barnFill_wf {s : State} (h : s.Inv) (lin : Nat) (v : W64) : (s.barnFill lin v).Inv := State.dramWrite_wf h _ _

end Sys2Proof.Machine
end

