-- ==== Sys2Proof/Laws/Ops.lean ====
section
/-!
SUPPORT. Ops.lean: what the shared operations answer: the end of a meaning, its checks, and what each operation leaves as it was.
-/
namespace Sys2Proof.Machine
open Sys2Proof

/-! ### Meanings (R323, R128) -/

@[simp] theorem finish_ok (s t : State) : finish s (.ok t) = .next t := rfl
@[simp] theorem finish_trap (s : State) (c sub : Nat) (fa : W64) : finish s (.error (.trap c sub fa)) = .next (s.takeTrap c sub fa) := rfl
@[simp] theorem finish_trapOn (s t : State) (c sub : Nat) (fa : W64) : finish s (.error (.trapOn t c sub fa)) = .next (t.takeTrap c sub fa) := rfl
@[simp] theorem finish_hold (s t : State) : finish s (.error (.hold t)) = .next t := rfl
/-- A meaning that ends through `finish` answers a next state. -/
theorem finish_next (s : State) (m : M State) : ∃ t, finish s m = .next t := by
  unfold finish; split <;> exact ⟨_, rfl⟩

theorem M.bind_eq_ok {α β : Type} (x : M α) (f : α → M β) (b : β) : (x >>= f) = .ok b ↔ ∃ a, x = .ok a ∧ f a = .ok b := by
  cases x <;> simp [bind, Except.bind]
@[simp] theorem M.ok_bind {α β : Type} (a : α) (f : α → M β) : ((Except.ok a : M α) >>= f) = f a := rfl
@[simp] theorem M.error_bind {α β : Type} (e : Stop) (f : α → M β) : ((Except.error e : M α) >>= f) = .error e := rfl
@[simp] theorem ensure_true (c : Nat) (fa : W64) : ensure true c fa = .ok () := rfl
@[simp] theorem ensure_false (c : Nat) (fa : W64) : ensure false c fa = .error (.trap c 0 fa) := rfl
theorem ensure_of {b : Bool} (h : b = true) (c : Nat) (fa : W64) : ensure b c fa = .ok () := by simp [h]
theorem ensure_not {b : Bool} (h : b = false) (c : Nat) (fa : W64) : ensure b c fa = .error (.trap c 0 fa) := by simp [h]

end Sys2Proof.Machine
end

