-- ==== Sys2Proof/Tests/Slice0.lean ====
section
/-!
SUPPORT. Slice0.lean: the package's own tests, on fixed values: words written out from the manual's encodings, ill-formed terms the
checks refuse, the manual's worked examples, and for each statement with hypotheses states that meet them (`wit_` theorems).
-/
namespace Sys2Proof.Tests
open Sys2Proof Sys2Proof.Machine

set_option Elab.async false

/-! ### Decoding: words written out field by field from R130 to R153, R247 and R273 -/

def dec (ws : List Nat) : DecR := decode ⟨false, false⟩ (fetchList ws)
def decReed (ws : List Nat) : DecR := decode ⟨true, false⟩ (fetchList ws)
def no : Ord := ⟨.none, .thread, false⟩
def p0 : PtrOp := ⟨0#3, false⟩
def p1 : PtrOp := ⟨1#3, false⟩
def p2 : PtrOp := ⟨2#3, false⟩
def p3 : PtrOp := ⟨3#3, false⟩

/-- Major 0 f 0; major 7 f 3 (R146). -/
theorem test_words_page0_registers : dec [0b00000_001_010_011_00] = .ok (.add 1#5 2#5 3#5) 2 ∧
    dec [0b00111_001_010_011_11] = .ok (.remu 1#5 2#5 3#5) 2 ∧ dec [0b00110_111_001_000_01] = .ok (.ctz 7#5 1#5) 2 := by decide
/-- Worked encodings of chapter 07: ADDI w12,w11,0x4_0000; an I form of the same size from R160; LIH (R161). -/
theorem test_words_page0_immediates : dec [0xFAA0, 0xF810, 0xF800, 0x4460] = .ok (.addi 12#5 11#5 0x40000#64) 8 ∧
    dec [0b01000_010_010_00001] = .ok (.addi 2#5 2#5 1#64) 2 ∧ dec [0b01000_010_010_11111] = .ok (.addi 2#5 2#5 (BitVec.allOnes 64)) 2 ∧
    dec [0xFA80, 0xF891, 0xF945, 0x9167] = .ok (.lih 9#5 0x01234567#64) 8 := by decide
/-- Page 0, B, J and T forms: BLT w1,w2,−2; LOOP lc1,w2,+4; JMP −1; CALL +5; SVC 5; MOVTS lc0,w3 (R146). -/
theorem test_words_control : dec [0b10101_001_010_11110] = .ok (.blt 1#5 2#5 (BitVec.ofInt 64 (-2))) 2 ∧
    dec [0b11001_001_010_00100] = .ok (.loop 1#1 2#5 4#64) 2 ∧ dec [0b11010_11111111111] = .ok (.jmp (BitVec.allOnes 64)) 2 ∧
    dec [0b11011_00000000101] = .ok (.call 5#64) 2 ∧ dec [0b11100_000_000_101_11] = .ok (.svc 5#5) 2 ∧
    dec [0b11110_000_011_001_11] = .ok (.movts .lc0 3#5) 2 ∧ dec [0b11110_000_011_000_11] = .illegal := by decide
/-- FSUM.f32 [w7+0],w14 and WAIT 0,15,15,15 of chapter 07; ATOM.iadd.d w5,[w6]; TAKE w2,[w1+8]; FENCE.acq.dev; BARP w1,w2 (R147). -/
theorem test_words_page1 : dec [0xFC01, 0xFA80, 0x5EE2] = .ok (.fsum .f32 no 14#5 7#5 0#64) 6 ∧
    dec [0xFC01, 0xF80F, 0x90FF] = .ok (.wait false 0#5 0x0FFF#16) 6 ∧
    dec [0xFC01, 0b01111_101_110_001_11] = .ok (.atom .iadd .d false no 5#5 6#5) 4 ∧
    dec [0xFC01, 0b10000_010_001_001_01] = .ok (.take false no 2#5 1#5 1#64) 4 ∧
    dec [0xFC01, 0b11111_11_00_01_100_0_0, 0b10001_000_000_000_00] = .ok (.fence ⟨.acq, .dev, false⟩) 6 ∧
    dec [0xFC01, 0b10011_000_001_010_01] = .ok (.barp no 1#5 2#5) 4 := by decide
/-- VFMA.f32 p1,p0+,p2 of chapter 07; VLD.w p1,[w2] (R148); CVT.bf16.f64 w3,w4 and VRSQRT.f32 p1,p2 (R149). -/
theorem test_words_vector : dec [0xFC02, 0xFA20, 0x010B] = .ok (.vfma .f32 .rne false ⟨1#3, false⟩ ⟨0#3, true⟩ ⟨2#3, false⟩) 6 ∧
    dec [0xFC02, 0xFA02, 0b00110_001_010_000_00] = .ok (.vld .w false p1 2#5) 6 ∧
    dec [0xFC03, 0b00000_011_100_010_11] = .ok (.cvtFromF64 .bf16 .rne 3#5 4#5) 4 ∧
    dec [0xFC03, 0b00001_001_010_000_11] = .ok (.vrsqrt .f32 false p1 p2) 4 := by decide
/-- MLATCH.fe4 w2; OFILL w1,w2,w3; GSTART w1,w2,w3; COPY w2,w4,w5; WCLASS; FERRY; SLCTL (R150, R277). -/
theorem test_words_engines : dec [0xFC04, 0xFA03, 0b00001_000_010_000_00] = .ok (.mlatch .fe4 2#5) 6 ∧
    dec [0xFC04, 0b00000_001_010_011_10] = .ok (.ofill 1#5 2#5 3#5) 4 ∧ dec [0xFC04, 0b00010_001_010_011_01] = .ok (.gstart 1#5 2#5 3#5) 4 ∧
    dec [0xFC05, 0b00000_010_100_101_00] = .ok (.copy 2#5 4#5 5#5) 4 ∧ dec [0xFC05, 0b00001_001_010_011_10] = .ok (.wclass 1#5 2#5 3#5) 4 ∧
    dec [0xFC05, 0b00010_001_010_011_00] = .ok (.ferry false false 1#5 2#5 3#5) 4 ∧ dec [0xFC05, 0x1002] = .ok .rsendReply 4 := by decide
/-- SRD h3,SYS.SPILL5 of chapter 19: 0xFC06, 0xFB80, 0xF801, 0x0305. -/
theorem test_words_page6 : dec [0xFC06, 0xFB80, 0xF801, 0x0305] = .ok (.srd 27#5 261#9) 8 := by decide
/-- SLUGO e1,e2 and OVSWAP e1,e2 (R151). -/
theorem test_words_page7 : decReed [0xFC07, 0b00000_000_001_010_01] = .ok (.slugo 1#5 2#5) 4 ∧
    decReed [0xFC07, 0b00001_000_001_010_11] = .ok (.ovswap 1#5 2#5) 4 ∧ dec [0xFC07, 0b00001_000_001_010_11] = .illegal := by decide
/-- GADDI j1,j2,−1 and GDJNZ j3,−2 (R247). -/
theorem test_words_gleaner : decodeGleaner 0b000111_0001_0010_111111111111111111 = some (.gaddi 1#4 2#4 (BitVec.allOnes 18)) ∧
    decodeGleaner 0b010011_0011_0000_111111111111111110 = some (.gdjnz 3#4 0x3FFFE#18) := by decide
/-- The microprogram of chapter 17: RLD a0,p0; RLD a1,p1; VFMAS.f16 a1,a0,s0; RST a1,p1; PINC p0,1; PINC p1,1; LOOP. -/
theorem test_words_sluice : [0x1000, 0x1240, 0x5600, 0x2240, 0x6001, 0x6041, 0x7000].map decodeSluice =
    [some (.rld ⟨0#2, 0#1, 0#1, 0#2, 0#6⟩), some (.rld ⟨0#2, 1#1, 0#1, 1#2, 0#6⟩), some (.vfmas ⟨1#2, 1#1, 0#1, 0#2, 0#6⟩),
     some (.rst ⟨0#2, 1#1, 0#1, 1#2, 0#6⟩), some (.pinc ⟨0#2, 0#1, 0#1, 0#2, 1#6⟩), some (.pinc ⟨0#2, 0#1, 0#1, 1#2, 1#6⟩),
     some (.sluLoop ⟨0#2, 0#1, 0#1, 0#2, 0#6⟩)] := by decide
/-- A second REG word before, a fifth such word, a PAGE of 8, an IMM before a T form, a reserved field, a word at user level (R140). -/
theorem test_words_illegal : dec [0xFA00, 0xFA00, 0x014C] = .illegal ∧ dec [0xFC08, 0x014C] = .illegal ∧ dec [0xF800, 0x014C] = .illegal ∧
    dec [0b11100_001_010_000_10] = .illegal ∧ decode ⟨false, true⟩ (fetchList [0xFC06, 0x0303]) = .privileged ∧
    decReed [0xFC04, 0x0140] = .illegal ∧ dec [0xFC01] = .fetchFault 1 := by decide

/-! ### An ill-formed term for each check of WellFormed -/

theorem test_illformed_register : wfZhoru true (.add 16#5 0#5 0#5) = false ∧ wfZhoru true (.add 15#5 0#5 0#5) = true := by decide
theorem test_illformed_immediate : wfZhoru false (.addi 8#5 1#5 (BitVec.ofNat 64 (2 ^ 40))) = false ∧ wfZhoru false (.shli 1#5 1#5 64#64) = false ∧
    wfZhoru false (.lih 1#5 (BitVec.ofNat 64 (2 ^ 32))) = false ∧ wfZhoru false (.shli 1#5 1#5 63#64) = true := by decide
theorem test_illformed_offset : wfZhoru false (.beq 1#5 2#5 (BitVec.ofNat 64 (2 ^ 41))) = false ∧ wfZhoru false (.jmp (BitVec.ofNat 64 (2 ^ 47))) = false ∧
    wfZhoru false (.ld .d false false no 8#5 9#5 (BitVec.ofNat 64 (2 ^ 20))) = false := by decide
theorem test_illformed_order : wfZhoru false (.ld .d false false ⟨.rel, .dev, false⟩ 1#5 2#5 0#64) = false ∧
    wfZhoru false (.ld .d false false ⟨.none, .dev, false⟩ 1#5 2#5 0#64) = false ∧ wfZhoru false (.st .d false ⟨.none, .thread, true⟩ 1#5 2#5 0#64) = false ∧
    wfZhoru false (.fence no) = false ∧ wfZhoru false (.settle .thread) = false := by decide
theorem test_illformed_forms : wfZhoru false (.ldS .d false false no 1#5 2#5 0#64) = false ∧ wfZhoru false (.ld .d true true no 1#5 2#5 0#64) = false ∧
    wfZhoru false (.movts .vl 1#5) = false ∧ wfZhoru false (.chpop no 1#5 1#5) = false ∧ wfZhoru false (.wait false 1#5 0#16) = false ∧
    wfZhoru false (.atom .fsum .d false no 1#5 2#5) = false ∧ wfZhoru false (.bar ⟨.acq, .clu, false⟩) = false := by decide
theorem test_illformed_vectors : wfZhoru false (.vadd .q4x .rne false p0 p1 p2) = false ∧ wfZhoru false (.vand .f32 false p0 p1 p2) = false ∧
    wfZhoru false (.vadd .f32 .rne false ⟨0#3, true⟩ p0 p2) = false ∧ wfZhoru false (.vcvt .f32 .f32 .rne false p0 p1) = false ∧
    wfZhoru false (.vupd .fadd64 .f32 false no p0 1#5) = false ∧ wfZhoru false (.vexp2 .i8 false p0 p1) = false ∧
    wfZhoru false (.vabs .f32 .sat false p0 p1) = false := by decide
theorem test_illformed_engines : wfZhoru false (.mlatch .f32 1#5) = false ∧ wfZhoru false (.mstream .q4x 1#5 2#5 3#5) = false ∧
    wfZhoru false (.copy 3#5 4#5 5#5) = false ∧ wfZhoru false (.ferry false false 16#5 1#5 2#5) = false ∧ wfZhoru false (.rsend 0#5 0#5) = false := by decide
theorem test_illformed_cores : wfZhoru true (.loop 0#1 1#5 4#64) = false ∧ wfZhoru true .exit = false ∧ wfZhoru false .tkend = false ∧
    wfZhoru true (.vld .w false p0 1#5) = false ∧ wfZhoru true (.ld .d true false no 1#5 2#5 0#64) = false := by decide
theorem test_illformed_sluice : wfSluice (.rld ⟨1#2, 0#1, 0#1, 0#2, 0#6⟩) = false ∧ wfSluice (.pinc ⟨0#2, 0#1, 1#1, 0#2, 0#6⟩) = false ∧
    wfSluice (.vmuls ⟨1#2, 0#1, 1#1, 0#2, 0#6⟩) = false ∧ wfGleaner .nop = false ∧ WellFormed (.ld .d true true no 1#5 2#5 0#64) = false := by decide

/-! ### Small states -/

/-- Thread 0 of core 0 of cluster 0 of die 0, context A. -/
def t0 : SlotId := ⟨0, 0, 0, 0, 0⟩
def t1 : SlotId := ⟨0, 0, 0, 1, 0⟩
def thr0 : Thread := { Thread.zero with live := true, grp := 1, uid := 7, pc := 0x1000#64 }
def grp0 : Group :=
  { launch := 1, gi := 0, die := 0, clu := 0, ctx := 0, row := 0, n := 2, spBase := 0, spSize := 0x10000, opPhys := [0, 1, 2, 3], claimed := [], live := [0, 1]
    ended := false, contained := false, contains := true, barArr := [], barRel := [], barps := [], barpRel := [], wd := 0, issued := false }
/-- A range entry that maps every address to itself on every die. -/
def ident : RangeE := ⟨0xF#64, 0x00FFFFFFFFFFF000#64, 0#64, 0xFF#64⟩
/-- The same of a page: every address of context A to itself, for engines (R355). -/
def identX : XEnt := ⟨0, 0, 44, 0, true, true, true⟩
/-- The die's second level holds every page, without WR. -/
def locked (s : State) : State := s.setDie 0 { s.die 0 with l2 := [{ identX with wr := false }] }
/-- The thread issues a word of 4 bytes at 0x1000. -/
def base (f : Thread → Thread) : State :=
  { State.reset with
    cur := ⟨.thread t0, 0x1000#64, 4, EvArgs.zero⟩, boot := .up, fresh := 100, slots := [(t0, f thr0)], groups := [(1, grp0)]
    dies := [(0, { Die.zero with ranges := [((0, 0), ident)], l2 := [identX] })] }
/-- Registers 1 to 3. -/
def rr (a b c : W64) (t : Thread) : Thread := ((t.setReg 1#5 a).setReg 2#5 b).setReg 3#5 c
def evs (i : Instr) (e : EvArgs) (s : State) : State := { s with cur := ⟨.event i e, 0#64, 0, e⟩ }
def nx (o : Out) : Option State := match o with | .next t => some t | _ => none
def gives (o : Out) (f : State → Bool) : Bool := match o with | .next t => f t | _ => false
def okS (m : M State) : Option State := match m with | .ok t => some t | _ => none
def okU (m : M Unit) : Bool := match m with | .ok _ => true | _ => false
def dram (s : State) (ea : W64) (n : Nat) (k : Need) (sub : Nat) : Option (Nat × State) :=
  match s.keyAt ea n k sub with | .ok (⟨pa, .dram _⟩, s') => some (pa, s') | _ => none
def hostKey (s : State) (ea : W64) (n : Nat) (k : Need) (sub : Nat) : Option (Nat × Nat × Nat × State) :=
  match s.keyAt ea n k sub with | .ok (⟨pa, .host rc a⟩, s') => some (pa, rc, a, s') | _ => none

/-- The state after the key has been found. -/
def keyed (s : State) (ea : W64) (n : Nat) (k : Need) (sub : Nat) : State := ((dram s ea n k sub).map (·.2)).getD s

theorem dramAccess_of {s : State} {ti : SlotId} {ea : W64} {n sub pa : Nat} {k : Need} (hi : s.cur.who = .thread ti)
    (hk : (dram s ea n k sub).map (·.1) = some pa) (hb : (keyed s ea n k sub).busyWords ti [wordOf pa] = false) :
    DramAccess s ti ea n k sub pa (keyed s ea n k sub) := by
  refine ⟨hi, ?_, hb⟩
  unfold keyed
  unfold dram at *
  split at hk
  · rename_i lin s' h
    cases hk
    exact ⟨lin, by simp [h]⟩
  · cases hk

/-- A vector base of 0x8000, and the pc after an instruction: 0x8000 + 64·code after a trap, 0x1004 after completing. -/
def tv (s : State) : State := { s with ctxs := [((0, 0), { Ctx.zero with tvec := 0x8000#64 })] }
def pcAfter (i : Instr) (s : State) : W64 := match exec i (tv s) with | .next t => (t.thr t0).pc | _ => 1#64

/-! ### The manual's worked examples -/

/-- The example of R159: BFXU and BFX of a field, by R159's own reading. A field of 4 bits at 4 of 0xFF93 is 9: zero-extended 9, sign-extended −7. -/
theorem test_bit_fields : gives (exec (.bfxu 1#5 2#5 3#5) (base (rr 0#64 0xFF93#64 0x304#64))) (fun t => (t.thr t0).reg 1#5 == 9#64) = true ∧
    gives (exec (.bfx 1#5 2#5 3#5) (base (rr 0#64 0xFF93#64 0x304#64))) (fun t => (t.thr t0).reg 1#5 == BitVec.ofInt 64 (-7)) = true := by decide +kernel
/-- Division by zero and the overflow of R157. -/
theorem test_division_corners : gives (exec (.div 1#5 2#5 3#5) (base (rr 0#64 5#64 0#64))) (fun t => (t.thr t0).reg 1#5 == BitVec.allOnes 64) = true ∧
    gives (exec (.rem 1#5 2#5 3#5) (base (rr 0#64 (BitVec.intMin 64) (BitVec.allOnes 64)))) (fun t => (t.thr t0).reg 1#5 == 0#64) = true ∧
    gives (exec (.rem 1#5 2#5 3#5) (base (rr 0#64 (BitVec.ofInt 64 (-7)) 2#64))) (fun t => (t.thr t0).reg 1#5 == BitVec.allOnes 64) = true := by decide +kernel
/-- A source that is also the destination is read first; h0 discards. -/
theorem test_destination_is_source : gives (exec (.sub 2#5 3#5 2#5) (base (rr 0#64 5#64 3#64))) (fun t => (t.thr t0).reg 2#5 == BitVec.ofInt 64 (-2)) = true ∧
    gives (exec (.add 24#5 2#5 3#5) (base (rr 0#64 5#64 3#64))) (fun t => (t.thr t0).reg 24#5 == 0#64 && (t.thr t0).pc == 0x1004#64) = true := by decide +kernel
/-- BLT compares signed, BLTU unsigned; targets count halfwords from the first byte (R132, R162). -/
theorem test_branches : gives (exec (.blt 2#5 3#5 (BitVec.ofInt 64 (-8))) (base (rr 0#64 (BitVec.allOnes 64) 1#64))) (fun t => (t.thr t0).pc == 0xFF0#64) = true ∧
    gives (exec (.bltu 2#5 3#5 (BitVec.ofInt 64 (-8))) (base (rr 0#64 (BitVec.allOnes 64) 1#64))) (fun t => (t.thr t0).pc == 0x1004#64) = true := by decide +kernel
/-- The offset of LD counts widths (R132): LD.d w1,[w2+8·2] reads the doubleword at 0x1010. -/
theorem test_load_scales : (let s := base (rr 0#64 0x1000#64 0#64)
    gives (exec (.ld .d false false no 1#5 2#5 2#64) { s with mem := s.mem.writeN (linOfInter 0x1010) [0x34#8, 0x12#8, 0#8, 0x80#8] })
      (fun t => (t.thr t0).reg 1#5 == 0x80001234#64)) = true := by decide +kernel
/-- LD.s.w sign-extends what LD.w zero-extends (R177). -/
theorem test_load_extends : (let s := base (rr 0#64 0x1000#64 0#64)
    let u : State := { s with mem := s.mem.writeN (linOfInter 0x1000) [0#8, 0#8, 0#8, 0x80#8] }
    gives (exec (.ldS .w false false no 1#5 2#5 0#64) u) (fun t => (t.thr t0).reg 1#5 == 0xFFFFFFFF80000000#64) &&
    gives (exec (.ld .w false false no 1#5 2#5 0#64) u) (fun t => (t.thr t0).reg 1#5 == 0x80000000#64)) = true := by decide +kernel
/-- CALL moves the window: w8 of the callee is the return address, its w0 the caller's w16 (R55, R164). -/
theorem test_call : gives (exec (.call 4#64) (base fun t => t.setReg 16#5 9#64)) (fun t => (t.thr t0).pc == 0x1008#64 && (t.thr t0).reg 8#5 == 0x1004#64 && (t.thr t0).reg 0#5 == 9#64) = true := by
  decide +kernel

/-! ### Witnesses: states that meet the hypotheses of the statements, clause by clause -/

/-- EveryStepKeepsInvariant. -/
theorem wit_inv_step : State.reset.Inv ∧ nx (step { State.reset with agenda := [.clk 1] }) ≠ none := by
  constructor
  · show Memory.wf State.reset.mem = true
    decide
  · intro h; cases h

/-- A thread at a word of memory, at the head of the agenda. -/
def atWord (ws : List Nat) (f : Thread → Thread) : State :=
  let s := base f
  { s with mem := s.mem.writeN (linOfInter 0x1000) (halfBytes ws), agenda := [.thread t0], slots := [(t0, { f thr0 with pc := 0x1000#64 })] }
/-- StepRunsTheDecodedInstruction: ADD, ready; a page-6 word at user level; a word that is no instruction; an address above 2^56. -/
theorem wit_step_decodes : (let s := atWord [0x014C] (rr 0#64 5#64 6#64)
    let a : State := { s with agenda := [] }
    slotExists t0 && a.canTurn t0 && (a.thr t0).wait == .no && !a.engPending t0 && a.nextDue t0 == none &&
      (match a.fetchDecode t0 with | .ok i n => i == .add 1#5 2#5 3#5 && n == 2 && (a.at (.thread t0) 0x1000#64 n).readyFor t0 (select i (a.at (.thread t0) 0x1000#64 n)) | _ => false) &&
      gives (step s) (fun t => (t.thr t0).reg 1#5 == 11#64 && (t.thr t0).pc == 0x1002#64)) = true := by decide +kernel
theorem wit_step_traps : ((atWord [0xFC06, 0x1000] id).fetchDecode t0 == .privileged && (atWord [0xE803] id).fetchDecode t0 != .illegal && (atWord [0xFC08] id).fetchDecode t0 == .illegal &&
    ((atWord [] id).modThr t0 fun t => { t with pc := 0xFFFFFFFFFFFFFE#64 }).fetchDecode t0 != .illegal &&
    ((atWord [] id).modThr t0 fun t => { t with pc := 0x100000000000000#64 }).fetchDecode t0 == .fetchFault 0) = true := by decide +kernel
/-- StepRunsTheDecodedInstruction: a thread that is not ready (15 non-blocking loads are outstanding, R178). -/
theorem wit_step_not_ready : (let s := atWord [0xFC01, 0xFE01, 0x0303] fun t => { t with loads := 15 }
    let a : State := { s with agenda := [] }
    (match a.fetchDecode t0 with | .ok i n => !(a.at (.thread t0) 0x1000#64 n).readyFor t0 (select i (a.at (.thread t0) 0x1000#64 n)) | _ => false) &&
      gives (step s) (fun t => (t.thr t0).pc == 0x1000#64)) = true := by decide +kernel
/-- OtherAgentsRunTheirInstruction: a Reed core at TKEND, a Gleaner at GEND, a Sluice unit at LOOP, an event. -/
theorem wit_other_agents : (let r := placeReed State.reset [0xFC07, 0x0802]
    let g := placeGleaner State.reset 0x60000000
    let u : State := { State.reset with sluices := [((0, 0), { Sluice.zero with busy := true, prog := 0x7000 :: List.replicate 15 0 })] }
    (match (r.reed 0).task with | some m => m.chan != 14 | none => false) && (r.reed 0).fetchDecode == .ok .tkend 4 &&
    (match (g.at (.gleaner 0 0) 0#64 0).gJob with | some x => (g.thr x.ti).uid == x.uid && !(g.thr x.ti).halted && decodeGleaner (x.store.getD x.pc 0) == some .gend | none => false) &&
    (u.sluice 0 0).busy && !(u.sluice 0 0).susp && !(u.sluice 0 0).win && decodeSluice ((u.sluice 0 0).prog.getD (u.sluice 0 0).upc 0) == some (.sluLoop ⟨0#2, 0#1, 0#1, 0#2, 0#6⟩) &&
    EvArgsExist EvArgs.zero) = true := by decide +kernel
/-- DecodeOfEncode and EngineWordsRoundTrip: instructions that are well formed and have words. -/
theorem wit_encode : wfZhoru false (.ld .b false true ⟨.acq, .sys, false⟩ 31#5 23#5 (BitVec.ofInt 64 (-2048))) = true ∧ wfZhoru true .tkend = true ∧
    wfSluice (.vfmas ⟨1#2, 1#1, 0#1, 3#2, 0#6⟩) = true ∧ (encodeGleaner (.gadd 1#4 2#4 15#4)).isSome = true ∧ (encodeGleaner (.gjmp 0x3FFFF#18)).isSome = true := by decide
/-- LoopEndsAtFallThrough: both levels end at the instruction, with 1 and 2 passes left. -/
theorem wit_loops : (let t (a b : W64) : Thread := { Thread.zero with lc0 := a, lc1 := b, ls0 := 0x100#64, ls1 := 0x200#64, le0 := 0x1000#64, le1 := 0x1000#64 }
    let f (a b : W64) : W64 × W64 × W64 := (((t a b).fallThrough 0x1000#64 2).pc, ((t a b).fallThrough 0x1000#64 2).lc0, ((t a b).fallThrough 0x1000#64 2).lc1)
    [f 0#64 0#64, f 0x500000002#64 0x700000002#64, f 0#64 0x700000001#64, f 0x500000002#64 0x700000001#64, f 0x500000001#64 0x700000001#64, f 0x500000002#64 0#64, f 0x500000001#64 0#64] ==
    [(0x1002#64, 0#64, 0#64), (0x200#64, 0x500000002#64, 0x700000001#64), (0x1002#64, 0#64, 0x700000000#64), (0x100#64, 0x500000001#64, 0x700000007#64),
     (0x1002#64, 0x500000000#64, 0x700000000#64), (0x100#64, 0x500000001#64, 0#64), (0x1002#64, 0x500000000#64, 0#64)]) = true := by decide +kernel
/-- ScalarFrame, BranchesAndJumps, ThreadControl and every other statement about an issuing thread. -/
theorem wit_issues : (base id).issues t0 := rfl
theorem wit_jump_targets : [pcAfter (.jr 2#5) (base (rr 0#64 0x2001#64 0#64)), pcAfter (.jr 2#5) (base (rr 0#64 0x2002#64 0#64))] = [0x8140#64, 0x2002#64] := by decide +kernel
/-- CallsMoveTheWindow: depth 0xFFFF; an odd target; six frames; RET at depth 0, with an odd w8, with WB = BOT, and completing. -/
theorem wit_calls : (let s (f : Thread → Thread) : State := { base f with ctxs := [((0, 0), { Ctx.zero with tvec := 0x8000#64 })] }
    let pc (o : Out) : W64 := match o with | .next t => (t.thr t0).pc | _ => 0#64
    [pc (exec (.call 4#64) (s fun t => { t with depth := 0xFFFF#16 })), pc (exec (.callr 2#5) (s (rr 0#64 3#64 0#64))), pc (exec (.call 4#64) (s fun t => { t with wb := 6#3 })),
     pc (exec .ret (s id)), pc (exec .ret (s fun t => { t.setReg 8#5 3#64 with depth := 1#16 })), pc (exec .ret (s fun t => { t.setReg 8#5 2#64 with depth := 1#16 })),
     pc (exec .ret (s fun t => { ({ t with wb := 1#3 } : Thread).setReg 8#5 0x40#64 with depth := 1#16 }))] ==
    [0x8040#64, 0x8140#64, 0x8280#64, 0x8040#64, 0x8140#64, 0x82C0#64, 0x40#64]) = true := by decide +kernel
/-- LoopSetUp: an end before the next address; a count of 0 with the word NOP at the end; a count of 1. -/
theorem wit_loop_set_up : (let s (c : W64) : State := { base (rr 0#64 c 0#64) with mem := Memory.writeN [] (linOfInter 0x1008) (halfBytes [0xE801]) }
    pcAfter (.loop 0#1 2#5 1#64) (s 1#64) == 0x8040#64 &&
    gives (exec (.loop 0#1 2#5 2#64) (s 1#64)) (fun t => (t.thr t0).lc0 == 0x100000001#64 && (t.thr t0).le0 == 0x1004#64) &&
    loopLen (fun k => (s 0#64).fetchWord t0 (wordAt 0x1008#64 k)) 5 0 == .ok .nop 2 &&
    gives (exec (.loop 0#1 2#5 4#64) (s 0x100000000#64)) (fun t => (t.thr t0).pc == 0x100A#64 && (t.thr t0).lc0 == 0#64)) = true := by decide +kernel
/-- ThreadControl: SETVL at 1, 4,096 and 4,097; MOVTS of an odd value; EXIT of one of two threads and of the last. -/
theorem wit_thread_control : (let v (a : W64) : Option State := nx (exec (.setvl 2#5) (base (rr 0#64 a 0#64)))
    (v 1#64).map (fun t => (t.thr t0).vl) == some 1#13 && (v 4096#64).map (fun t => (t.thr t0).vl) == some 4096#13 && pcAfter (.setvl 2#5) (base (rr 0#64 4097#64 0#64)) == 0x80C0#64 && pcAfter (.movts .le0 2#5) (base (rr 0#64 1#64 0#64)) == 0x80C0#64 &&
    gives (exec .exit (base id)) (fun t => !(t.thr t0).live && (t.grp 1).map (·.live) == some [1]) &&
    gives (exec .exit { base id with groups := [(1, { grp0 with live := [0] })] }) (fun t => (t.grp 1).map (·.ended) == some true) &&
    (base id).grp (thr0.grp) == some grp0 && (thr0.kind == .group)) = true := by decide +kernel
/-- TrapEntry: a precise trap, SVC, a due engine fault, a record due for the fault agent. -/
theorem wit_trap_entry : (let c : Ctx := { Ctx.zero with tvec := 0x8000#64 }
    let s (f : Thread → Thread) (c : Ctx) : State := { base f with ctxs := [((0, 0), c)] }
    let e : EvArgs := { EvArgs.zero with ti := t0 }
    let due := evs .engineFault e (s (fun t => { t with due := [(tEng, 0x90)], pc := 0x1000#64 }) c)
    let rec_ := evs .faultRecordDelivery e (s (fun t => { t with pc := 0x1000#64 }) { c with fagent := 0x10000#64, dueAgent := [0x80] })
    gives (exec (.trap 11 255 5#64) (s id c)) (fun t => (t.thr t0).pc == 0x82C0#64 && (t.thr t0).tpc == 0x1000#64 && (t.thr t0).taddr == 5#64 && (t.thr t0).tcause == 0xFF0B#64 && (t.thr t0).sup) &&
    gives (exec (.svc 31#5) (s id c)) (fun t => (t.thr t0).pc == 0x8300#64 && (t.thr t0).tpc == 0x1004#64 && (t.thr t0).tcause == 0x1F0C#64) &&
    due.mayTake t0 && !due.isAgent t0 && gives (exec .engineFault due) (fun t => (t.thr t0).pc == 0x8380#64 && (t.thr t0).tpc == 0x1000#64 && (t.thr t0).tcause == 0x1000E#64 && (t.thr t0).due == []) &&
    rec_.mayTake t0 && rec_.isAgent t0 && gives (exec .faultRecordDelivery rec_) (fun t => (t.thr t0).pc == 0x8340#64 && (t.thr t0).taddr == 0x80#64 && (t.cx t0).dueAgent == [])) = true := by
  decide +kernel
/-- TrapReturn: with INTRAP, without it, and at user level. -/
theorem wit_tret : (let u := base fun t => { t with sup := true, tstat := 4#64, tpc := 0x2000#64 }
    let v := base fun t => { t with sup := true }
    gives (exec .tret u) (fun t => !(t.thr t0).sup && (t.thr t0).tstat == 0#64 && (t.thr t0).pc == 0x2000#64) &&
    pcAfter .tret v == 0x80C0#64 && pcAfter .tret (base id) == 0x8080#64) = true := by decide +kernel
/-- TrapWithoutVectorContains: TVEC 0; inside a handler; a ferry-slot handler. -/
theorem wit_containment : (let a := base id
    let b : State := { base fun t => { t with tstat := 4#64, sup := true } with ctxs := [((0, 0), { Ctx.zero with tvec := 0x8000#64 })] }
    let h := base fun t => { t with kind := .ferryH, call := some (5, 9), grp := 0 }
    gives (exec (.trap 3 0 5#64) a) (fun t => (t.grp 1).map (fun g => (g.ended, g.contained)) == some (true, true) && (t.thr t0).halted &&
      ((t.ctx 0 0).recq.getLast?.map fun r => (r.kind, fld (r.words.getD 1 0#64) 8 8)) == some (4, 3)) &&
    gives (exec (.trap 1 0 5#64) b) (fun t => (t.grp 1).map (·.contained) == some true) &&
    gives (exec (.trap 11 0 5#64) h) (fun t => !(t.thr t0).live &&
      idState (t.half 0 0 0).ids (srcKey 5 0) 9 == some (.finished (1 + 2 ^ 8 * 11) ([5#64, 0x1000#64] ++ List.replicate 6 0#64)))) = true := by decide +kernel

def ranged (e : RangeE) (s : State) : State := { s with dies := [(0, { Die.zero with ranges := [((0, 0), e)] })] }
/-- Base register w2, value w3. -/
def at2 (a : W64) : State := base (rr 0#64 a 0x55#64)

/-- AddressChecks: misaligned; at 2^56; a page a walk has answered with a fault; a malformed entry; no WR; no USR; no such address. -/
theorem wit_address_checks : (let ld : Instr := .ld .d false false no 1#5 2#5 0#64
    let st : Instr := .st .d false no 3#5 2#5 0#64
    [pcAfter ld (at2 0x2004#64), pcAfter ld (at2 0x100000000000000#64),
     pcAfter st (base fun t => { rr 0#64 0x2000#64 0#64 t with ph := { t.ph with xfault := some 2 } }),
     pcAfter ld (ranged { ident with w3 := 0x100FF#64 } (at2 0x2000#64)), pcAfter st (ranged { ident with w0 := 0xD#64 } (at2 0x2000#64)),
     pcAfter ld (ranged { ident with w0 := 0x7#64 } (at2 0x2000#64)), pcAfter ld (at2 0x9FE0000000#64), pcAfter ld (at2 0x9FDFFFFFF8#64)] ==
    [0x8180#64, 0x81C0#64, 0x81C0#64, 0x81C0#64, 0x81C0#64, 0x81C0#64, 0x8200#64, 0x1004#64]) = true := by decide +kernel
theorem wit_address_hypotheses : (let s := at2 0x2000#64
    (ranged { ident with w3 := 0x100FF#64 } s).rangeLook 0 0 0x2000 == .fault &&
    (match (ranged { ident with w0 := 0xD#64 } s).rangeLook 0 0 0x2000 with | .hit m => !m.grants .write false && m.grants .read false | _ => false) &&
    (match s.rangeLook 0 0 0x9FE0000000 with | .hit m => m.grants .read false && s.classify 0 m.pa == .none | _ => false) &&
    (match s.rangeLook 0 0 0x2000 with | .hit m => m.grants .write false && s.classify 0 m.pa == .dram (linOfInter 0x2000) | _ => false)) = true := by decide +kernel
/-- AddressChecks, scratchpad forms: misaligned; one byte past the region; at 2^32; the last byte of the region. -/
theorem wit_scratchpad_checks : (let ld (wd : Width) : Instr := .ld wd true false no 1#5 2#5 0#64
    [pcAfter (ld .h) (at2 1#64), pcAfter (ld .b) (at2 0x10000#64), pcAfter (ld .b) (at2 0x100000000#64), pcAfter (ld .b) (at2 0xFFFF#64)] ==
    [0x8180#64, 0x8240#64, 0x8240#64, 0x1004#64]) = true := by decide +kernel
/-- The access statements about device memory share: a key at the last doubleword of the interleaved window. -/
theorem wit_dram_access : DramAccess (at2 0x9FDFFFFFF8#64) t0 0x9FDFFFFFF8#64 8 .read subLoad 0x9FDFFFFFF8 (keyed (at2 0x9FDFFFFFF8#64) 0x9FDFFFFFF8#64 8 .read subLoad) ∧
    DramAccess (at2 0x2000#64) t0 0x2000#64 8 .write subUpd 0x2000 (keyed (at2 0x2000#64) 0x2000#64 8 .write subUpd) :=
  ⟨dramAccess_of rfl (by decide +kernel) (by decide +kernel), dramAccess_of rfl (by decide +kernel) (by decide +kernel)⟩
theorem wit_sp_access : SpAccess (at2 0xFFF8#64) t0 0xFFF8#64 8 := ⟨rfl, by decide +kernel, by decide +kernel, by decide +kernel⟩
/-- Nothing of the thread's own is under way for the word, and its release is done. -/
theorem wit_quiet : (⟨0, 0, 0⟩ : ThreadKey).quiet (at2 0x2000#64) 0x400 := ⟨by decide +kernel, by decide +kernel⟩
theorem wit_plain : Plain State.reset (pathOf t0) 0x400 :=
  ⟨by decide +kernel, by decide +kernel, by decide +kernel, by decide +kernel, by decide +kernel, by decide +kernel⟩

/-- An entry of thread 7 in the core's sheaf run. -/
def ent (op : KOp) (held : Bool) (v : W64) : Entry :=
  { word := 0x400, op := op, width := .d, be := 0xFF#8, bf := false, held := held, ctx := 0, qtag := 0, val := v, cell := Cell.zero, owners := [⟨1, 7⟩]
    marks := [], born := 0, handle := if held then 5 else 0, pendHome := false, poison := false }
def withEnt (r : RunId) (e : Entry) (s : State) : State := { s with runs := [(r, ⟨[e], [], false⟩)] }
/-- Loads: the fold answers; over a held entry the load waits; over poison it is consumed; host memory. -/
theorem wit_loads : (let ld : Instr := .ld .d false false no 1#5 2#5 0#64
    let s := at2 0x2000#64
    let e := withEnt (.sheaf 0 0 0) (ent .iadd false 5#64) s
    let h := withEnt (.sheaf 0 0 0) (ent .iadd true 5#64) s
    let p : State := { s with poison := [linOfInter 0x2000 / 8] }
    (match e.loadKey (pathOf t0) 0x2000 8 true with | .ok v _ => v == 5 | _ => false) && gives (exec ld e) (fun t => (t.thr t0).reg 1#5 == 5#64) &&
    (match h.loadKey (pathOf t0) 0x2000 8 true with | .held => true | _ => false) && pcAfter ld h == 0x1000#64 &&
    (hostKey (at2 0x4000000000008#64) 0x4000000000008#64 8 .read subLoad).isSome && !(at2 0x4000000000008#64).hostBusy t0 0 &&
    gives (exec ld { at2 0x4000000000008#64 with host := (List.range 8).map fun i => (8 + i, if i = 0 then 0xAB#8 else 0#8) }) (fun t => (t.thr t0).reg 1#5 == 0xAB#64) &&
    (match p.loadKey (pathOf t0) 0x2000 8 true with | .poison => true | _ => false)) = true := by decide +kernel
/-- ScratchpadLoadsAndStores: a store of the last doubleword, its bytes read back, its neighbour unchanged; a Reed core. -/
theorem wit_scratchpad : (let s := at2 0xFFF8#64
    (okS (s.ordRelease no)).isSome && gives (exec (.st .d true no 3#5 2#5 0#64) s) (fun t => t.spRead 1 0xFFF8 8 == leBytes 8 0x55) &&
    s.spBad 1 0xFFF8 8 == none && s.spBad 1 0xFFF7 1 == none) = true := by decide +kernel
/-- NonBlockingLoads: at issue; its completion, and over a held entry. -/
theorem wit_non_blocking : (let s := at2 0x2000#64
    let l : LoadOp := { id := 9, ti := t0, uid := 7, grp := 1, reg := some 5, signed := true, width := .w, acq := none, elems := [⟨0x2000, 0, 0, none, false⟩] }
    let u := evs .ldnbComplete { EvArgs.zero with q := 9 } { base fun t => { t with loads := 1 } with loads := [l] }
    let h := withEnt (.stook 0 0) (ent .iadd true 5#64) u
    gives (exec (.ld .d false true no 1#5 2#5 0#64) s) (fun t => (t.thr t0).loads == 1 && t.loads.length == 1) &&
    (u.loads.find? fun x => x.id == u.cur.ev.q && x.reg.isSome) == some l && (u.thr t0).uid == l.uid && (l.reg.all fun r => decide (r < 136)) && u.classify 0 0x2000 == .dram (linOfInter 0x2000) &&
    gives (exec .ldnbComplete u) (fun t => (t.thr t0).loads == 0 && t.loads == []) && (h.foldDefault (pathOf t0) 0x2000 4).2 &&
    gives (exec .ldnbComplete h) (fun t => (t.thr t0).flags == Flags.MF)) = true := by decide +kernel
/-- KeyedUpdates: an update of device memory, one of host memory, FADD64 under DET. -/
theorem wit_keyed_updates : (let s := at2 0x2000#64
    let h := at2 0x4000000000008#64
    let d := base fun t => { rr 0#64 0x2000#64 1#64 t with det := true }
    (okS (s.ordRelease ⟨.rel, .dev, false⟩)).isSome &&
    gives (exec (.iadd .w no 3#5 2#5 0#64) s) (fun t => (aget [] t.ins (0, 0, 0)).map (fun u => (u.key, u.op, u.width, u.src)) == [(0x2000, .iadd, .w, .val 0x55#64)] && (t.thr t0).updates == 1) &&
    (hostKey h 0x4000000000008#64 4 .write subUpd).isSome && gives (exec (.iadd .w no 3#5 2#5 0#64) h) (fun t => (aget [] t.hostq 0).map (fun u => (u.addr, u.val)) == [(8, 0x55#64)]) &&
    pcAfter (.fadd64 no 3#5 2#5 0#64) d == 0x80C0#64) = true := by decide +kernel
/-- UpdatesTravelToTheBarn: an insertion, a merge to the rick and a sending, an admission refused and granted, a lane written. -/
theorem wit_updates_travel : (let u : Ins := { ti := t0, owner := ⟨1, 7⟩, uop := 3, key := 0x2000, op := .iadd, width := .d, bf := false, ctx := 0, qtag := 0, src := .val 5#64, req := 0, stands := false }
    let s := evs .sheafInsert EvArgs.zero { base fun t => { t with updates := 1 } with ins := [((0, 0, 0), [u])] }
    let e := { ent .iadd false 5#64 with word := 0x400 }
    let x : Sent := ⟨e, 1, 0, 1, List.replicate 8 0⟩
    let a (st : List Nat) : State := evs .admitUpdate { EvArgs.zero with u := 1 } { base id with dies := [(1, { Die.zero with hseq := 1, sent := [{ x with stamp := st }] })] }
    !(s.run (.sheaf 0 0 0)).hasHeld 0x400 && gives (exec .sheafInsert s) (fun t => ((t.run (.sheaf 0 0 0)).ents.map fun e => (e.word, e.val)) == [(0x400, 5#64)] && (t.thr t0).updates == 0) &&
    homeOf 0x400 == 0 && homeOf (64 * 32) == 1 &&
    gives (exec .admitUpdate (a (List.replicate 8 0))) (fun t => (t.run (.rick 0)).ents.map (·.word) == [0x400]) &&
    gives (exec .admitUpdate (a [0, 1, 0, 0, 0, 0, 0, 0])) (fun t => (t.run (.rick 0)).ents == [] && (t.die 1).sent.length == 1) &&
    gives (exec .entryAgeTimeout (evs .entryAgeTimeout { EvArgs.zero with run := .rick 0 } { withEnt (.rick 0) e (base id) with clk := 65536 })) (fun t => (t.run (.rick 0)).want) &&
    (match (base id).barnApply (mkEntry 0x2000 .iadd .d false 0 0 5#64 [] 0) with | .ok t => t.mem.readN (linOfInter 0x2000) 8 == leBytes 8 5 | _ => false)) = true := by decide +kernel
theorem wit_runs_move : (let e := ent .iadd false 5#64
    let s := withEnt (.stook 1 0) e (base id)
    let h := withEnt (.stook 0 0) e (base id)
    ((s.run (.stook 1 0)).ents.find? fun x => x.word == 0x400 && !x.held) == some e && ((s.moveWord (.stook 1 0) 0x400).run (.rick 1)).ents.map (·.word) == [0x400] &&
    ((h.moveWord (.stook 0 0) 0x400).die 0).sent.map (·.e.word) == [0x400] && ((h.moveWord (.stook 0 0) 0x400).die 0).hseq == 1 &&
    (match State.put levels s (.sheaf 0 0 1) e true with | .ok t => (t.run (.sheaf 0 0 1)).ents.length == 1 | _ => false)) = true := by decide +kernel
/-- Atom: device memory; the operator's lane; host memory; FADD64 under DET; a Reed core on its own pseudo-channel. -/
theorem wit_atom : (let s := { at2 0x2000#64 with mem := Memory.writeN [] (linOfInter 0x2000) (leBytes 8 0x10) }
    let h := at2 0x4000000000008#64
    let d := base fun t => { rr 0#64 0x2000#64 1#64 t with det := true }
    let r : State := { State.reset with cur := ⟨.reed 0, 0#64, 4, EvArgs.zero⟩, reeds := [(0, { Reed.zero with e := (Vector.replicate 16 0#64).set 1 8#64 })] }
    (okS (s.ordRelease no)).isSome && !s.pathLeft 0 0 0 0x400 && !s.heldPath 0 0 0 0x400 &&
    gives (exec (.atom .iadd .d false no 3#5 2#5) s) (fun t => (t.thr t0).reg 3#5 == 0x10#64 && t.mem.readN (linOfInter 0x2000) 8 == leBytes 8 0x65) &&
    pcAfter (.atom .iadd .d false no 3#5 2#5) h == 0x80C0#64 && pcAfter (.atom .fadd64 .d false no 3#5 2#5) d == 0x80C0#64 &&
    (match r.reedAt 0 (r.reg 1#5) 8 with | .ok lin => lin == 8 | _ => false) && gives (exec (.atom .iadd .d false no 1#5 1#5) r) (fun t => t.mem.readN 8 8 == leBytes 8 8)) = true := by decide +kernel
/-- FullEmptyWords: FILL of an empty and of a full word, TAKE and PEEK of each, EMPTY; a woken waiter; a host key. -/
theorem wit_full_empty : (let s := at2 0x2000#64
    let f : State := { s with full := [linOfInter 0x2000 / 8], mem := Memory.writeN [] (linOfInter 0x2000) (leBytes 8 9) }
    let parked (o : Out) : Bool := match o with | .next t => (match (t.thr t0).wait with | .word _ => true | _ => false) && t.mem == f.mem && t.full == f.full | _ => false
    let parkedE (o : Out) : Bool := match o with | .next t => (match (t.thr t0).wait with | .word _ => true | _ => false) && t.full == [] | _ => false
    gives (exec (.fill false no 3#5 2#5 0#64) s) (fun t => t.full == [linOfInter 0x2000 / 8] && t.mem.readN (linOfInter 0x2000) 8 == leBytes 8 0x55) &&
    parked (exec (.fill false no 3#5 2#5 0#64) f) && gives (exec (.take false no 3#5 2#5 0#64) f) (fun t => t.full == [] && (t.thr t0).reg 3#5 == 9#64) &&
    parkedE (exec (.take false no 3#5 2#5 0#64) s) && gives (exec (.peek false no 3#5 2#5 0#64) f) (fun t => t.full == f.full && (t.thr t0).reg 3#5 == 9#64) &&
    parkedE (exec (.peek false no 3#5 2#5 0#64) s) && gives (exec (.empty false no 2#5 0#64) f) (fun t => t.full == [] && t.mem == f.mem) &&
    pcAfter (.take false no 3#5 2#5 0#64) (at2 0x4000000000008#64) == 0x80C0#64) = true := by decide +kernel
theorem wit_full_empty_scratchpad : (let s := at2 8#64
    let full (t : State) : Bool := (t.half 0 0 0).isFull 8
    s.spPhys 1 8 == some 8 && !full s && gives (exec (.fill true no 3#5 2#5 0#64) s) (fun t => full t && t.spRead 1 8 8 == leBytes 8 0x55 &&
      gives (exec (.take true no 1#5 2#5 0#64) { t with cur := s.cur }) (fun u => !full u && (u.thr t0).reg 1#5 == 0x55#64))) = true := by decide +kernel
theorem wit_waiters : (let f (l w : Bool) : FeOp := ⟨1, false, 0x2000, 1, 0#64, none, none, l, w, 3⟩
    let s (i : Instr) (l w : Bool) : State := evs i { EvArgs.zero with ti := t0 } { base fun t => { t with wait := .word (f l w) } with full := [linOfInter 0x2000 / 8] }
    (s .waiterRetry true true).canTurn t0 && !(s .waiterRetry true true).wokenBefore t0 (f true true) 3 && !(s .waitListPoll false false).wokenBefore t0 (f false false) 100 &&
    gives (exec .waiterRetry (s .waiterRetry true true)) (fun t => (t.thr t0).wait == .no && t.full == []) &&
    gives (exec .waitListPoll (s .waitListPoll false false)) (fun t => (t.thr t0).wait == .no && t.full == []) &&
    gives (exec .waiterRetry (s .waiterRetry true false)) (fun t => (t.thr t0).wait == .word (f true false))) = true := by decide +kernel

/-- FencesSettleAndWait: a release that is ready and one that is not; FENCE without an order; SETTLE over nothing, over a marked entry; WAIT. -/
theorem wit_fences : (let rel : Ord := ⟨.rel, .dev, false⟩
    let n := base id
    let o := withEnt (.sheaf 0 0 0) (ent .iadd false 5#64) (base id)
    n.relReady t0 .dev false 0 && gives (exec (.fence rel) n) (fun t => (t.thr t0).pc == 0x1004#64) &&
    !o.relReady t0 .dev false 0 && gives (exec (.fence rel) o) (fun t => (t.thr t0).ph.rel == 1 && (t.thr t0).pc == 0x1000#64) &&
    pcAfter (.fence no) n == 0x8040#64 && pcAfter (.settle .thread) n == 0x8040#64 && n.inserted t0 && pcAfter (.settle .sys) n == 0x1004#64 &&
    (n.settleRuns 0 0 0 .core).all (fun r => (n.run r).ents == []) && pcAfter (.settle .core) n == 0x1004#64) = true := by decide +kernel
theorem wit_settle_waits : (let st (e : Entry) : State := withEnt (.sheaf 0 0 0) e (base fun t => { t with ph := { t.ph with stage := 1, mark := 3 } })
    let m := st { ent .iadd false 5#64 with marks := [3] }
    m.settleLeft 3 0 0 0 .dev && pcAfter (.settle .dev) m == 0x1000#64 && !(st (ent .iadd false 5#64)).settleLeft 3 0 0 0 .dev && pcAfter (.settle .dev) (st (ent .iadd false 5#64)) == 0x1004#64 &&
    (let i := { base id with ins := [((0, 0, 0), [{ ti := t0, owner := ⟨1, 7⟩, uop := 3, key := 0x2000, op := .iadd, width := .d, bf := false, ctx := 0, qtag := 0, src := .val 5#64, req := 0, stands := false }])] }
     !i.inserted t0 && pcAfter (.settle .dev) i == 0x1000#64)) = true := by decide +kernel
theorem wit_wait : (let s (n : Nat) (d : Bool) : State := base fun t => { t with tiles := n, det := d, doneOps := [.dev] }
    pcAfter (.wait false 0#5 0x0003#16) (s 3 false) == 0x1004#64 && pcAfter (.wait false 0#5 0x0003#16) (s 4 false) == 0x1000#64 &&
    gives (exec (.wait true 1#5 0x0003#16) (s 4 false)) (fun t => (t.thr t0).reg 1#5 == 0#64 && (t.thr t0).doneOps == [.dev]) &&
    gives (exec (.wait true 1#5 0x0003#16) (s 3 false)) (fun t => (t.thr t0).reg 1#5 == 1#64 && (t.thr t0).doneOps == []) && pcAfter (.wait true 1#5 0x0003#16) (s 4 true) == 0x1000#64 &&
    (let u := evs .releaseComplete { EvArgs.zero with ti := t0 } (base fun t => { t with ph := { t.ph with rel := 1, relSc := .dev } })
     gives (exec .releaseComplete u) (fun t => (t.thr t0).ph.rel == 2))) = true := by decide +kernel
/-- Barriers: the first and the last to arrive; released; named barriers; a mask without the thread, beyond the group, another tag. -/
theorem wit_barriers : (let s (g : Group) : State := { base id with groups := [(1, g)] }
    let m (x y : W64) (g : Group) : State := { base (rr 0#64 x y) with groups := [(1, g)] }
    let bp : Instr := .barp no 2#5 3#5
    gives (exec (.bar no) (s grp0)) (fun t => (t.grp 1).map (·.barArr) == some [0] && (t.thr t0).pc == 0x1000#64) && pcAfter (.bar no) (s { grp0 with barArr := [0] }) == 0x1000#64 &&
    gives (exec (.bar no) (s { grp0 with barArr := [1] })) (fun t => (t.grp 1).map (fun g => (g.barArr, g.barRel)) == some ([], [1]) && (t.thr t0).pc == 0x1004#64) &&
    pcAfter (.bar no) (s { grp0 with barRel := [0] }) == 0x1004#64 &&
    pcAfter bp (m 0x103#64 2#64 grp0) == 0x80C0#64 && pcAfter bp (m 0x103#64 5#64 grp0) == 0x80C0#64 && pcAfter bp (m 0x103#64 3#64 { grp0 with barps := [(3, ⟨2, 3#64, [1]⟩)] }) == 0x80C0#64 &&
    pcAfter bp (m 0x103#64 3#64 { grp0 with barps := [(3, ⟨1, 3#64, [1]⟩)] }) == 0x1004#64 && pcAfter bp (m 0x103#64 1#64 grp0) == 0x1004#64 &&
    gives (exec bp (m 0x103#64 3#64 grp0)) (fun t => (t.grp 1).map (·.barps) == some [(3, ⟨1, 3#64, [0]⟩)]) && pcAfter bp (m 0x103#64 3#64 { grp0 with barps := [(3, ⟨1, 3#64, [0]⟩)] }) == 0x1000#64 &&
    pcAfter (.bar no) (base fun t => { t with kind := .rowH }) == 0x80C0#64) = true := by decide +kernel
/-- Channels: handles of LOG_N 0, 1, 12 and 13 and with a reserved bit; a push and a pop of a word in each state; the item index wraps. -/
theorem wit_channels : (let push : Instr := .chpush no 2#5 3#5
    let pop : Instr := .chpop no 1#5 2#5
    let h (l a : Nat) : W64 := BitVec.ofNat 64 (l * 2 ^ 56 + a)
    let f (s : State) : State := { s with full := [linOfInter 0x2008 / 8], mem := Memory.writeN [] (linOfInter 0x2008) (leBytes 8 9) }
    [pcAfter push (at2 (h 0 0x2000)), pcAfter push (at2 (h 13 0x10000)), pcAfter push (at2 (h 0x11 0x2000)), pcAfter push (at2 (h 1 0x2008)), pcAfter push (at2 (h 12 0x2008))] ==
      [0x80C0#64, 0x80C0#64, 0x80C0#64, 0x1004#64, 0x1004#64] &&
    gives (exec push (at2 (h 1 0x2008))) (fun t => (t.thr t0).reg 2#5 == h 1 0x2000 && t.full == [linOfInter 0x2008 / 8] && t.mem.readN (linOfInter 0x2008) 8 == leBytes 8 0x55) &&
    gives (exec pop (f (at2 (h 1 0x2008)))) (fun t => (t.thr t0).reg 2#5 == h 1 0x2000 && (t.thr t0).reg 1#5 == 9#64 && t.full == []) &&
    gives (exec pop (at2 (h 1 0x2008))) (fun t => (t.thr t0).reg 2#5 == h 1 0x2008 && (t.thr t0).wait != .no) && gives (exec push (f (at2 (h 1 0x2008)))) (fun t => (t.thr t0).wait != .no) &&
    pcAfter (.chpop no 2#5 2#5) (at2 (h 1 0x2008)) == 0x8040#64) = true := by decide +kernel
theorem wit_channel_roles : (let h : W64 := BitVec.ofNat 64 (2 ^ 56 + 0x2008)
    let k : W64 := BitVec.ofNat 64 (2 ^ 63 + 2 ^ 56 + 0x18)
    let s := at2 h
    let other : State := { s with dies := [(0, { Die.zero with ranges := [((0, 0), ident)], binds := [(0x4000, ⟨0x2000, some (1, 0, 5), none⟩)] })] }
    let sp := at2 k
    (s.bindGlobal 0x2000 0 false (s.binder t0)).isSome && !(other.bindGlobal 0x2000 0 false (s.binder t0)).isSome && pcAfter (.chpush no 2#5 3#5) other == 0x80C0#64 &&
    sp.spPhys 1 0x18 == some 0x18 && (sp.bindSp t0 0x10 false).isSome && gives (exec (.chpush no 2#5 3#5) sp) (fun t => (t.half 0 0 0).isFull 0x18 && t.spRead 1 0x18 8 == leBytes 8 0x55 &&
      gives (exec (.chpop no 1#5 2#5) ({ t with cur := s.cur }.modThr t0 fun x => x.setReg 2#5 k)) (fun u => (u.thr t0).reg 1#5 == 0x55#64 && !(u.half 0 0 0).isFull 0x18)) &&
    (bindIn 1 (fun _ => true) [(1, ⟨0, none, none⟩)] 2 0 true (1, 2, 3)) == some [(1, ⟨0, none, none⟩)]) = true := by decide +kernel
/-- ResolvingHeldEntries: an address not aligned to 64; HANDLE 0, of no entry, of another context; RETRY, DROP, COMMIT. -/
theorem wit_mresolve : (let rec_ (hd : Nat) : Memory := Memory.writeN [] (linOfInter 0x3000) (leBytes 8 hd)
    let s (hd : Nat) (e : Entry) : State := { withEnt (.rick 0) e (base (rr 9#64 0x3000#64 0#64)) with mem := rec_ hd }
    let h := ent .iadd true 5#64
    let st (o : Out) : Option (W64 × List (Bool × W64)) := match o with | .next t => some ((t.thr t0).reg 1#5, (t.run (.rick 0)).ents.map fun e => (e.held, e.val)) | _ => none
    pcAfter (.mresolveDrop 1#5 2#5) (base (rr 9#64 0x3020#64 0#64)) == 0x8180#64 && (match (s 5 h).fenLoad 0x3000#64 8 false with | .ok (v, t) => v == 5 && (t.heldBy 5).isSome | _ => false) &&
    st (exec (.mresolveRetry 1#5 2#5) (s 0 h)) == some (1#64, [(true, 5#64)]) && st (exec (.mresolveRetry 1#5 2#5) (s 6 h)) == some (1#64, [(true, 5#64)]) &&
    st (exec (.mresolveDrop 1#5 2#5) (s 5 { h with ctx := 1 })) == some (2#64, [(true, 5#64)]) && st (exec (.mresolveRetry 1#5 2#5) (s 5 h)) == some (0#64, [(false, 9#64)]) &&
    st (exec (.mresolveDrop 1#5 2#5) (s 5 h)) == some (0#64, []) &&
    gives (exec (.mresolveCommit 1#5 2#5) (s 5 h)) (fun t => (t.thr t0).reg 1#5 == 0#64 && (t.run (.rick 0)).ents == [])) = true := by decide +kernel

/-! ### Vector states: p1 at 0x100, p2 at 0x200, p3 at 0x300, p7 at 0x700, vl 4, four bytes a source -/

def ptrs : Vector (BitVec 32) 8 := ((((Vector.replicate 8 0#32).set 1 0x100#32).set 2 0x200#32).set 3 0x300#32).set 7 0x700#32
def vec (vl : BitVec 13) (f : Thread → Thread) (xs ys zs ms : List Byte) : State :=
  (((((base fun t => f { t with vl := vl, p := ptrs }).spWrite 1 0x100 xs).spWrite 1 0x200 ys).spWrite 1 0x300 zs).spWrite 1 0x700 ms)
def bytes (l : List Nat) : List Byte := l.map fun n => BitVec.ofNat 8 n
def b4 (f : Thread → Thread) : State := vec 4#13 f (bytes [0x7F, 0x80, 3, 4]) (bytes [1, 0xFF, 5, 0]) (bytes [0xAA, 0xAA, 0xAA, 0xAA]) (bytes [0b1011])
def out3 (n : Nat) (o : Out) : List Nat := match o with | .next t => (t.spRead 1 0x300 n).map BitVec.toNat | _ => []
/-- VectorElementwise: i8 sums wrap and clamp, elements masked by p7 stay; post-increment; the vector unit is held. -/
theorem wit_elementwise : (let s := b4 id
    let i (r : Rnd) (mk : Bool) : Instr := .vadd .i8 r mk p3 p1 p2
    okU (s.vcheck (s.vmask true ++ [s.vop (.el 1) p3, s.vop (.el 1) p1, s.vop (.el 1) p2])) && out3 4 (exec (i .rne false) s) == [0x80, 0x7F, 8, 4] && out3 4 (exec (i .sat false) s) == [0x7F, 0x80, 8, 4] &&
    out3 4 (exec (i .rne true) s) == [0x80, 0x7F, 0xAA, 4] && gives (exec (i .sat false) s) (fun t => (t.thr t0).flags == Flags.SAT && (aget? t.vunit (coreKey t0)).map (·.ti) == some t0) &&
    out3 4 (exec (.vshl .i8 .rne false p3 p1 p2) s) != [] && pcAfter (.vand .f32 false p3 p1 p2) s == 0x8040#64 &&
    gives (exec (.vsub .i8 .rne false p3 ⟨1#3, true⟩ p2) s) (fun t => (t.thr t0).ptr 1#3 == 0x104#32 && (t.thr t0).ptr 2#3 == 0x200#32)) = true := by decide +kernel
/-- The same with FP32: 1.5 + 2.5 = 4, and the masked element stays (R73). -/
theorem test_vector_floats : (let s := vec 2#13 id (bytes [0, 0, 0xC0, 0x3F, 0, 0, 0x80, 0x3F]) (bytes [0, 0, 0x20, 0x40, 0, 0, 0x80, 0x3F]) (List.replicate 8 0xAA#8) (bytes [1])
    out3 8 (exec (.vadd .f32 .rne true p3 p1 p2) s) == [0, 0, 0x80, 0x40, 0xAA, 0xAA, 0xAA, 0xAA]) = true := by decide +kernel
/-- VectorComparesReductionsAndMoves. -/
theorem wit_vector_reductions : (let s := b4 (rr 0#64 0x12#64 0#64)
    let r (o : Out) : W64 := match o with | .next t => (t.thr t0).reg 1#5 | _ => 0#64
    out3 1 (exec (.vcmplt .i8 false p3 p1 p2) s) == [0b0110] && out3 1 (exec (.vcmplt .i8 true p3 p1 p2) s) == [0b0010] && r (exec (.vsum .i8 .rne false 1#5 p1) s) == 6#64 &&
    r (exec (.vdot .i8 .rne false 1#5 p1 p2) s) == BitVec.ofInt 64 (127 + 128 + 15) && r (exec (.vmaxr .i8 true 1#5 p1) s) == 127#64 && r (exec (.vnnz .i8 false 1#5 p2 p3) s) == 3#64 &&
    out3 4 (exec (.vscan .i8 .rne false p3 p1) s) == [0x7F, 0xFF, 2, 6] && out3 4 (exec (.vfill .i8 true p3 2#5) s) == [0x12, 0x12, 0xAA, 0x12] && out3 4 (exec (.vcopy .i8 false p3 p1) s) == [0x7F, 0x80, 3, 4] &&
    out3 4 (exec (.vsel .i8 p3 p1 p2) s) == [0x7F, 0x80, 5, 4] && pcAfter (.vcvt .i8 .i8 .rne false p3 p1) s == 0x8040#64) = true := by decide +kernel
/-- VectorComparesReductionsAndMoves, floats: VSUM of FP32 1.0 and 1.5; VMAXR; VCVT of FP32 to FP16; the worked VRCP of R82's table. -/
theorem wit_vector_floats : (let s := vec 2#13 id (bytes [0, 0, 0x80, 0x3F, 0, 0, 0xC0, 0x3F]) [] (List.replicate 8 0xAA#8) []
    let r (o : Out) : W64 := match o with | .next t => (t.thr t0).reg 1#5 | _ => 0#64
    r (exec (.vsum .f32 .rne false 1#5 p1) s) == 0x40200000#64 && r (exec (.vmaxr .f32 false 1#5 p1) s) == 0x3FC00000#64 && out3 4 (exec (.vcvt .f32 .f16 .rne false p3 p1) s) == [0, 0x3C, 0, 0x3E] &&
    out3 4 (exec (.vexp2 .f32 false p3 p1) s) == [0, 0, 0, 0x40] &&
    out3 4 (exec (.vrcp .f32 false p3 p1) (vec 1#13 id (bytes [0, 0x80, 0x80, 0x3F]) [] (List.replicate 4 0#8) [])) == [0xFF, 0, 0x7F, 0x3F]) = true := by decide +kernel
/-- VectorLoadsAndUpdates: VLD and its completion, VGATH, VST masked, VSCAT with and without an operator's width, a beat. -/
theorem wit_vector_memory : (let s := b4 (rr 0#64 0x2000#64 0#64)
    let ld (o : Out) : Nat × List (Nat × Nat) := match o with | .next t => ((t.thr t0).loads, t.loads.flatMap fun l => l.elems.map fun e => (e.key, e.dst)) | _ => (0, [])
    let st (o : Out) : Nat × List (Nat × InsSrc) := match o with | .next t => ((t.thr t0).updates, (aget [] t.ins (0, 0, 0)).map fun u => (u.key, u.src)) | _ => (0, [])
    (match s.keysAt 1 .read subLoad [(0, 0x2000#64), (3, 0x2003#64)] with | .ok (ks, _) => ks.length == 2 | _ => false) &&
    ld (exec (.vld .b false p3 2#5) s) == (1, [(0x2000, 0x300), (0x2001, 0x301), (0x2002, 0x302), (0x2003, 0x303)]) &&
    st (exec (.vst .b true no p3 2#5) s) == (1, [(0x2000, .sp 1 0x300), (0x2001, .sp 1 0x301), (0x2003, .sp 1 0x303)]) && vupdOk .iadd .i32 && !vupdOk .fsum .i8 &&
    gives (exec (.vst .b false no p3 2#5) s) (fun t => ((aget? t.vunit (0, 0, 0)).map fun v => v.beats.length).isSome &&
      gives (exec .vectorBeat (evs .vectorBeat EvArgs.zero t)) (fun u => (aget [] u.ins (0, 0, 0)).any fun x => x.src == .val 0xAA#64))) = true := by decide +kernel
/-- VectorLoadsAndUpdates: VGATH and VSCAT by indices 2 and 0; a descriptor of no operator, and of FSUM on bytes. -/
theorem wit_gather_scatter : (let s (d : Nat) : State := vec 2#13 (rr 0#64 (BitVec.ofNat 64 d) 0#64) (bytes [2, 0, 0, 0, 0, 0, 0, 0]) [] (bytes [7, 8, 9, 9, 9, 9, 9, 9]) []
    let st (o : Out) : Nat × List (Nat × KOp × InsSrc) := match o with | .next t => ((t.thr t0).updates, (aget [] t.ins (0, 0, 0)).map fun u => (u.key, u.op, u.src)) | _ => (0, [])
    gives (exec (.vgath .h false p3 p1 2#5) (s 0x2000)) (fun t => (t.loads.flatMap fun l => l.elems.map fun e => (e.key, e.dst)) == [(0x2004, 0x300), (0x2000, 0x302)]) &&
    kopOf 1 == some .iadd && kopOf 13 == none && opWidthOk .iadd .b && !opWidthOk .fsum .b &&
    st (exec (.vscat .b false no p3 p1 2#5) (s (2 ^ 56 + 0x2000))) == (1, [(0x2002, .iadd, .sp 1 0x300), (0x2000, .iadd, .sp 1 0x301)]) &&
    pcAfter (.vscat .b false no p3 p1 2#5) (s (13 * 2 ^ 56 + 0x2000)) == 0x80C0#64 && pcAfter (.vscat .b false no p3 p1 2#5) (s (9 * 2 ^ 56 + 0x2000)) == 0x80C0#64) = true := by decide +kernel
/-- VLOAD_COMPLETE writes the elements; over a held entry it waits. -/
theorem wit_vector_load_completes : (let l : LoadOp := { id := 9, ti := t0, uid := 7, grp := 1, reg := none, signed := false, width := .d, acq := none, elems := [⟨0x2000, 0x300, 0, none, false⟩] }
    let u := evs .vloadComplete { EvArgs.zero with q := 9 } { base fun t => { t with loads := 1 } with loads := [l], mem := Memory.writeN [] (linOfInter 0x2000) (leBytes 8 0x1234) }
    let h := withEnt (.stook 0 0) (ent .iadd true 5#64) u
    gives (exec .vloadComplete u) (fun t => (t.thr t0).loads == 0 && t.loads == [] && t.spRead 1 0x300 8 == leBytes 8 0x1234) &&
    (h.loadElemsOf l 0 1 l.elems).2.1 == l.elems && gives (exec .vloadComplete h) (fun t => t.loads == [l])) = true := by decide +kernel
/-- ConversionsPointersAndQ4X: CVT to an integer and to a float, to and from FP64; pointers; a Q4X block copied and counted. -/
theorem wit_conversions : (let s := base (rr 0#64 0x3FC00000#64 0#64)
    let r (i : Instr) : W64 := match exec i s with | .next t => (t.thr t0).reg 1#5 | _ => 0#64
    r (.cvt .f32 .i32 .rne 1#5 2#5) == 2#64 && r (.cvt .f32 .bf16 .rne 1#5 2#5) == 0x3FC0#64 && r (.cvtToF64 .f32 .rne 1#5 2#5) == 0x3FF8000000000000#64 &&
    pcAfter (.cvt .f32 .f32 .rne 1#5 2#5) s == 0x8040#64 && pcAfter (.cvtToF64 .q4x .rne 1#5 2#5) s == 0x8040#64 &&
    gives (exec (.cvtFromF64 .i8 .rtz 1#5 2#5) (base (rr 0#64 0xBFF8000000000000#64 0#64))) (fun t => (t.thr t0).reg 1#5 == BitVec.allOnes 64) &&
    gives (exec (.padd 1#3 2#5) ((base (rr 0#64 0xFFFFFFFF#64 0#64)).modThr t0 fun t => { t with p := ptrs })) (fun t => (t.thr t0).ptr 1#3 == 0xFF#32)) = true := by decide +kernel
theorem wit_q4x : (let q : List Byte := bytes ([0, 0x3C] ++ List.replicate 16 0x11)
    let s := vec 32#13 id q [] (List.replicate 32 0xAA#8) (bytes [0xFF, 0xFF, 0, 0])
    okU (s.vcheck (s.vmask true ++ [s.vop .q4x p3, s.vop .q4x p1])) && (s.vop .q4x p1).addr % 2 == 0 && gives (exec (.vcopy .q4x true p3 p1) s) (fun t => t.spRead 1 0x300 18 == q) &&
    pcAfter (.vcopy .q4x false p3 p1) (vec 31#13 id q [] [] []) == 0x80C0#64) = true := by decide +kernel
/-- VectorChecks: the lowest misaligned pointer; the lowest invalid byte, masked or not; a base of VLD misaligned and at 2^56. -/
theorem wit_vector_checks : (let s (a b : BitVec 32) : State := (b4 id).modThr t0 fun t => { t with p := (t.p.set 1 a).set 2 b }
    let i : Instr := .vadd .f16 .rne false p3 p1 p2
    let fa (st : State) : W64 × W64 := match exec i (tv st) with | .next t => ((t.thr t0).pc, (t.thr t0).taddr) | _ => (0#64, 0#64)
    [fa (s 0x101#32 0x203#32), fa (s 0x20001#32 0x203#32), fa (s 0x20000#32 0x200#32), fa (s 0xFFFA#32 0x10000#32), fa (s 0xFFF8#32 0x200#32)] ==
      [(0x8180#64, 0x101#64), (0x8180#64, 0x203#64), (0x8240#64, 0x20000#64), (0x8240#64, 0x10000#64), (0x1004#64, 0#64)] &&
    [pcAfter (.vld .w false p3 2#5) (b4 (rr 0#64 2#64 0#64)), pcAfter (.vst .w false no p3 2#5) (b4 (rr 0#64 0x100000000000000#64 0#64))] == [0x8180#64, 0x81C0#64]) = true := by decide +kernel

/-! ### The matrix array, the Gleaner -/

/-- Bytes that stand from an address on. -/
def placed (a : Nat) (bs : List Byte) : List (Nat × Byte) := ((List.range bs.length).map (a + ·)).zip bs
def grpC (c : List Nat) : Group := { grp0 with claimed := c }
/-- OperandSlots: OCLAIM of 0, 16 and of what is there; OREL of claimed, held and unclaimed slots; OFILL both ways, misaligned, too long. -/
theorem wit_operand_slots : (let s (c : List Nat) (a b d : W64) : State := { base (rr a b d) with groups := [(1, grpC c)] }
    let r (o : Out) : W64 := match o with | .next t => (t.thr t0).reg 1#5 | _ => 0#64
    let oc (c : List Nat) (n : W64) : W64 := r (exec (.oclaim 1#5 2#5) (s c 0#64 n 0#64))
    [oc [0] 2#64, oc [1, 2] 3#64, oc [] 4#64] == [1#64, BitVec.allOnes 64, 0#64] && pcAfter (.oclaim 1#5 2#5) (s [] 0#64 0#64 0#64) == 0x80C0#64 && pcAfter (.oclaim 1#5 2#5) (s [] 0#64 17#64 0#64) == 0x80C0#64 &&
    gives (exec (.orel 2#5 3#5) (s [0, 1, 2] 0#64 1#64 2#64)) (fun t => (t.grp 1).map (·.claimed) == some [0]) && pcAfter (.orel 2#5 3#5) (s [0] 0#64 0#64 2#64) == 0x80C0#64 &&
    pcAfter (.orel 2#5 3#5) ((s [0, 1] 0#64 0#64 2#64).setHalf 0 0 0 { Half.zero with held := [1] }) == 0x1000#64) = true := by decide +kernel
theorem wit_ofill : (let s (d n len : W64) : State := ({ base (rr d n len) with groups := [(1, grpC [0, 1])] } : State).setHalf 0 0 0 { Half.zero with sp := placed 0x40 (List.replicate 64 0x5A#8) }
    let i : Instr := .ofill 1#5 2#5 3#5
    (grpC [0, 1]).physRun 0 2 == [0, 1] && [pcAfter i (s 0x4000#64 0x41#64 64#64), pcAfter i (s 0#64 0xFFC0#64 128#64), pcAfter i (s 2#64 0x40#64 64#64), pcAfter i (s 0#64 0x40#64 0#64)] ==
      [0x8180#64, 0x8240#64, 0x80C0#64, 0x80C0#64] &&
    gives (exec i (s 0x4000#64 0x40#64 64#64)) (fun t => (t.half 0 0 0).opByte 64 == 0x5A#8 && (t.half 0 0 0).opByte 127 == 0x5A#8 && (t.thr t0).pc == 0x1004#64 &&
      gives (exec i ({ t with cur := (base id).cur, vunit := [] }.modThr t0 fun x => rr 0x4080#64 0x80#64 64#64 x)) (fun u => u.spRead 1 0x80 64 == List.replicate 64 0x5A#8)) &&
    pcAfter i ((s 0x4000#64 0x40#64 64#64).setHalf 0 0 0 { ((s 0x4000#64 0x40#64 64#64).half 0 0 0) with held := [0] }) == 0x1000#64) = true := by decide +kernel
/-- MatrixIssue: MLATCH of a narrow cluster's formats and of one it has not; MSTREAM with and without a latch; MCURVE. -/
theorem wit_matrix_issue : (let s (a b c : W64) (h : Half) : State := ({ base (rr a b c) with groups := [(1, grpC [0, 1, 2, 3])] } : State).setHalf 0 0 0 h
    let l : MOp := { kind := 0, ti := t1, uid := 8, grp := 1, fmt := .fe4, s := 0#64, t := 0#64, hentry := 0#64, begun := false, rows := [], out := [], ready := [], drained := 0, bufUse := [], inFlight := none, consumed := false, cfg := [], bw := [], tile := (0, 0) }
    let latched : Half := { Half.zero with arr := { MArray.zero with queue := [l] } }
    let q (o : Out) : List (Nat × List Nat) := match o with | .next t => (t.half 0 0 0).arr.queue.map (fun o => (o.kind, (t.half 0 0 0).held)) | _ => []
    latched.arr.latchAhead == some 1 && q (exec (.mlatch .fe4 2#5) (s 0#64 0#64 0#64 Half.zero)) == [(0, [0, 1])] &&
    [pcAfter (.mlatch .bf16 2#5) (s 0#64 0#64 0#64 Half.zero), pcAfter (.mlatch .fe4 2#5) (s 0#64 3#64 0#64 Half.zero), pcAfter (.mlatch .f32 2#5) (s 0#64 0#64 0#64 Half.zero),
     pcAfter (.mstream .fe4 1#5 2#5 3#5) (s 0#64 0x140#64 0x20#64 latched), pcAfter (.mstream .fe4 1#5 2#5 3#5) (s 0#64 0x140#64 0xFC000#64 latched), pcAfter (.mstream .fe4 1#5 2#5 3#5) (s 0#64 0x100#64 0#64 Half.zero),
     pcAfter (.mstream .f32 1#5 2#5 3#5) (s 0#64 0x100#64 0#64 latched), pcAfter (.mcurve 2#5 3#5) (s 0#64 16#64 0#64 Half.zero), pcAfter (.mcurve 2#5 3#5) (s 0#64 0#64 8#64 Half.zero)] ==
     [0x80C0#64, 0x80C0#64, 0x8040#64, 0x8180#64, 0x8240#64, 0x80C0#64, 0x8040#64, 0x80C0#64, 0x8180#64] &&
    gives (exec (.mstream .fe4 1#5 2#5 3#5) (s 0#64 0x140#64 0#64 latched)) (fun t => (t.half 0 0 0).arr.queue.length == 2 && (t.thr t0).wait == .engine && (t.thr t0).tiles == 1) &&
    gives (exec (.mcurve 2#5 3#5) (s 0#64 15#64 0xF0#64 Half.zero)) (fun t => (t.thr t0).wait == .engine && (t.half 0 0 0).arr.queue.length == 1)) = true := by decide +kernel
/-- An entry of the array's queue, of thread 0. -/
def mop (kind : Nat) (sw tw : W64) : MOp :=
  { kind := kind, ti := t0, uid := 7, grp := 1, fmt := .fe4, s := sw, t := tw, hentry := 0#64, begun := false, rows := [], out := [], ready := [], drained := 0
    bufUse := [], inFlight := none, consumed := false, cfg := [], bw := [], tile := (0, 0) }
def arrSt (i : Instr) (q : List MOp) : State :=
  let s := evs i EvArgs.zero ({ base fun t => { t with wait := .engine, tiles := 1 } with groups := [(1, grpC [0, 1, 2, 3])] })
  s.setHalf 0 0 0 { Half.zero with held := [0, 1], arr := { MArray.zero with queue := q, fmt := some .fe4, owner := 1, acc := [(3, List.replicate 128 0x3F800000)] } }
/-- MatrixArrayAtWork: each kind at the head, a row entered, drained and dispatched, ROWDONE. -/
theorem wit_array_head : (gives (exec .arrayQueueHead (arrSt .arrayQueueHead [mop 0 0#64 0#64])) (fun t => (t.half 0 0 0).arr.owner == 1 && (t.half 0 0 0).arr.queue == [] && (t.half 0 0 0).held == [] && (t.thr t0).wait == .no) &&
    gives (exec .arrayQueueHead (arrSt .arrayQueueHead [mop 1 0x900#64 0#64])) (fun t => (t.half 0 0 0).arr.queue.map (fun o => (o.begun, o.rows)) == [(true, [0, 3])]) &&
    gives (exec .arrayQueueHead (arrSt .arrayQueueHead [mop 4 0#64 0#64])) (fun t => (t.half 0 0 0).arr.fmt == none && (t.half 0 0 0).arr.owner == 0)) = true := by decide +kernel
theorem wit_array_rows : (let r := arrSt .rowReady [{ mop 1 0x940#64 0x100000#64 with begun := true, out := [(3, List.replicate 128 0x3F800000, [])] }]
    let f := arrSt .rowReady [{ mop 1 0x900#64 0x100000#64 with begun := true, out := [(3, List.replicate 128 0x3F800000, [])] }]
    let d := arrSt .rowHandlerDispatch [{ mop 1 0x5000000000940#64 0x100#64 with hentry := 0x4000#64, begun := true, ready := [(3, 0, [])] }]
    (ofmt 0x100000#64).bytes == 2 && gives (exec .rowReady r) (fun t => t.spRead 1 (3 * 256) 2 == leBytes 2 0x3C00) && gives (exec .rowReady f) (fun t => (t.half 0 0 0).sp == []) &&
    (d.thr ⟨0, 0, 0, 0, 15⟩).live == false && d.rotating ⟨0, 0, 0, 0, 15⟩ &&
    gives (exec .rowHandlerDispatch d) (fun t => let y := t.thr ⟨0, 0, 0, 0, 15⟩; y.kind == .rowH && y.pc == 0x4000#64 && y.reg 0#5 == 0x100#64 && y.reg 1#5 == 3#64 && y.reg 3#5 == 5#64 && y.live &&
      gives (exec .rowdone { t with cur := ⟨.thread ⟨0, 0, 0, 0, 15⟩, 0x4000#64, 4, EvArgs.zero⟩ }) (fun u => !(u.thr ⟨0, 0, 0, 0, 15⟩).live)) && pcAfter .rowdone (base id) == 0x80C0#64) = true := by decide +kernel
/-- One row of FE4 of value 1 against a column of ones enters an MSTREAM with ACC 0 and a row still to come. -/
theorem wit_row_entry : (let h : Half := { Half.zero with opm := (List.range 4096).map fun i => (2 * 8192 + i, 0x38#8), arr := { MArray.zero with tile := List.replicate 16384 0x38#8, fmt := some .fe4, owner := 1, queue := [{ mop 1 0x302#64 0#64 with begun := true, rows := [0, 1] }] } }
    let s := (evs .rowEntry EvArgs.zero { base id with groups := [(1, grpC [0, 1, 2, 3])] }).setHalf 0 0 0 h
    s.rotating ⟨0, 0, 0, 0, 0⟩ && (match s.half 0 0 0 with | x => x.arr.queue.map (·.rows) == [[0, 1]])) = true := by decide +kernel
/-- Gleaner: a job queued by GSTART; a program counter outside the program; a block that breaks a bound. -/
def gBlk (d80 d88 : Nat) : List Byte := (List.range 16).flatMap (fun i => leBytes 8 i) ++ leBytes 8 d80 ++ leBytes 8 d88 ++ leBytes 8 0 ++ leBytes 8 0
def gst (d80 d88 : Nat) (p a : W64) : State :=
  ({ base (rr 0#64 p a) with groups := [(1, grpC [0, 1])] } : State).setHalf 0 0 0 { Half.zero with
    sp := placed 0x100 (gBlk d80 d88) ++ placed 0x400 ((List.range 4).flatMap fun _ => leBytes 4 0x60000000) }
theorem wit_gstart : (let i : Instr := .gstart 1#5 2#5 3#5
    [pcAfter i (gst 0x20001 0x40 0x402#64 0x100#64), pcAfter i (gst 0x20001 0x40 0x400#64 0x104#64), pcAfter i (gst 0x20002 0x40 0x400#64 0x100#64), pcAfter i (gst 0x20001 0 0x400#64 0x100#64),
     pcAfter i (gst 0x20001 0x60 0x400#64 0x100#64)] == [0x8180#64, 0x8180#64, 0x80C0#64, 0x80C0#64, 0x80C0#64] &&
    gives (exec i (gst 0x20001 0x4000040 0x400#64 0x100#64)) (fun t => (t.cluster 0 0).gleaner.map (fun j => (j.pc, j.plen, j.nslot, j.off, vget j.j 5)) == [(1, 2, 2, 16384, 5#64)] && (t.thr t0).wait == .engine)) = true := by decide +kernel
def gjob (pc off : Nat) : GJob :=
  { id := 9, ti := t0, uid := 7, grp := 1, rd := 1, block := 0x100, first := 0x1000#64, store := [], j := (Vector.replicate 16 0#64).set 2 5#64, pc := pc, plen := 2, outslot := 0, nslot := 1, off := off, rows := 0#64 }
def gs (pc off : Nat) : State :=
  let s := { base (fun t => { t with wait := .engine, ph := { t.ph with len := 4 } }) with groups := [(1, grpC [0, 1])], cur := ⟨.gleaner 0 0, 0#64, 0, EvArgs.zero⟩ }
  s.setCluster 0 0 { s.cluster 0 0 with gleaner := [gjob pc off] }
/-- Gleaner: an add inside the program; past its end; GHASH by 0; an append to the last byte and past it; GEND; a load that faults. -/
theorem wit_gleaner : (let j (o : Out) : List (Nat × Nat × W64) := match o with | .next t => (t.cluster 0 0).gleaner.map fun x => (x.pc, x.off, vget x.j 1) | _ => []
    let st (o : Out) : W64 := match o with | .next t => (t.thr t0).reg 1#5 | _ => 99#64
    j (exec (.gaddi 1#4 2#4 0x3FFFF#18) (gs 0 0)) == [(1, 0, 4#64)] && st (exec (.gaddi 1#4 2#4 0#18) (gs 1 0)) == 3#64 && st (exec (.ghash 1#4 2#4 0#4) (gs 0 0)) == 3#64 &&
    j (exec (.gappz 8#18) (gs 0 8184)) == [(1, 8192, 0#64)] && st (exec (.gappz 8#18) (gs 0 8185)) == 2#64 && st (exec (.gappz 4#18) (gs 0 0)) == 3#64 && st (exec (.gshli 1#4 2#4 64#18) (gs 0 0)) == 3#64 &&
    j (exec (.gjmp 1#18) (gs 0 0)) == [(1, 0, 0#64)] && st (exec (.gjmp 0x3FFFE#18) (gs 1 0)) == 3#64 && gives (exec .gend (gs 1 0)) (fun t => (t.thr t0).wait == .no && (t.thr t0).pc == 0x1004#64 && t.spRead 1 0x198 8 == leBytes 8 0) &&
    (match (gs 0 0).gLoad (gjob 0 0) 0x2001#64 8 with | .fault c _ _ => c == tAlign | _ => false) && (match (gs 0 0).gLoad (gjob 0 0) 0x2000#64 8 with | .ok v _ => v == 0 | _ => false)) = true := by decide +kernel

/-! ### Copy engines, Winnow, FERRY and Reed -/

/-- Descriptor pair in w4 and w5, source in w2, destination in w3. -/
def cpy (d0 d1 a b : W64) : State := base fun t => ((rr 0#64 a b t).setReg 4#5 d0).setReg 5#5 d1
def cop (d0 a b : W64) (row byte : Nat) : CopyOp :=
  { id := 9, die := 0, eng := 0, ti := some t0, uid := 7, grp := 1, clu := 0, ctx := 0, qent := none, sup := false, first := 0x1000#64, multi := false, d0 := d0, d1 := 0#64
    s := a, t := b, row := row, byte := byte, mem := [], await := [], lost := [], stop := none, buf := [], want := 0#64, sys := false }
def cpe (i : Instr) (o : CopyOp) (e : EvArgs) : State :=
  evs i { e with q := 9 } { base fun t => { t with copies := 1 } with copies := [o], mem := Memory.writeN [] (linOfInter 0x2000) (leBytes 8 0x1122334455667788) }
/-- CopyEngines, issue: an odd pair, h0, a reserved bit, an invalid scratchpad side, LEN 0, the shorter queue. -/
theorem wit_copy_issue : (let i : Instr := .copy 4#5 2#5 3#5
    (okS ((cpy 8#64 0#64 0x2000#64 0x3000#64).release .die false)).isSome &&
    [pcAfter (.copy 5#5 2#5 3#5) (cpy 8#64 0#64 0x2000#64 0x3000#64), pcAfter (.copy 24#5 2#5 3#5) (cpy 8#64 0#64 0x2000#64 0x3000#64), pcAfter i (cpy 0x4000000000#64 0#64 0x2000#64 0x3000#64),
     pcAfter i (cpy 0x2000000010#64 0#64 0xFFF8#64 0x3000#64), pcAfter i (cpy 0x2000000008#64 0#64 0xFFF8#64 0x3000#64)] == [0x8040#64, 0x8040#64, 0x80C0#64, 0x8240#64, 0x1004#64] &&
    gives (exec i (cpy 0#64 0#64 0x2000#64 0x3000#64)) (fun t => t.copies == [] && (t.thr t0).doneOps == [.die]) &&
    gives (exec i { cpy 8#64 0#64 0x2000#64 0x3000#64 with copies := [cop 8#64 0#64 0#64 0 0] }) (fun t => t.copies.map (·.eng) == [0, 1] && (t.thr t0).copies == 1) &&
    pcAfter (.copym 4#5 2#5 3#5) (cpy 0x1000000000#64 0#64 0x2000#64 0x3000#64) == 0x80C0#64) = true := by decide +kernel
/-- The engine: a word from a misaligned source into memory and one into scratchpad; an address no entry maps; the end; the last member. -/
theorem wit_copy_engine : (let g := cop 8#64 0x2004#64 0x3000#64 0 0
    (cpe .copyComplete g EvArgs.zero).copyTurn g && gives (exec .copyComplete (cpe .copyComplete g EvArgs.zero)) (fun t => t.copies.map (fun o => (o.row, o.byte)) == [(1, 0)] && (t.die 0).sent.map (fun x => (x.e.word, x.e.val, x.e.be)) == [(0x600, 0x11223344#64, 0xFF#8)]) &&
    gives (exec .copyComplete (cpe .copyComplete (cop 0x1000000008#64 0x2000#64 0x300#64 0 0) EvArgs.zero)) (fun t => t.copies.map (fun o => (o.row, o.byte)) == [(1, 0)] && t.spRead 1 0x300 8 == leBytes 8 0x1122334455667788) &&
    gives (exec .copyComplete (locked (cpe .copyComplete g EvArgs.zero))) (fun t => t.copies.map (fun o => o.stop.isSome) == [true] && (t.thr t0).copies == 1) &&
    gives (exec .copyComplete (locked (cpe .copyComplete g { EvArgs.zero with n := 1 }))) (fun t => t.copies == [] && (t.thr t0).copies == 0 && (t.ctx 0 0).recq.length == 1) &&
    gives (exec .copyComplete (cpe .copyComplete (cop 8#64 0x2000#64 0x3000#64 1 0) EvArgs.zero)) (fun t => t.copies == [] && (t.thr t0).copies == 0) &&
    (let m := { cop 8#64 0x2000#64 0x3000#64 1 0 with multi := true, mem := [(1, 0), (2, 0)], await := [1, 2] }
     let e (u : Nat) (f : Bool) : EvArgs := { EvArgs.zero with u := u, flag := f }
     gives (exec .copymMemberAnswer (cpe .copymMemberAnswer m (e 1 false))) (fun t => t.copies.map (·.await) == [[2]]) &&
     gives (exec .copymMemberAnswer (cpe .copymMemberAnswer { m with await := [2] } (e 2 false))) (fun t => t.copies == [] && (t.ctx 0 0).recq == []) &&
     gives (exec .copymMemberAnswer (cpe .copymMemberAnswer { m with await := [2] } (e 2 true))) (fun t => t.copies == [] && (t.ctx 0 0).recq.length == 1))) = true := by decide +kernel
/-- Winnow, issue: alignments, NREC of 4,096 and 4,097, a WREPLAY of no region and of 2^32. -/
theorem wit_winnow_issue : (let s (d a t : W64) : State := base (rr d a t)
    let q (i : Instr) (d a t : W64) : W64 := pcAfter i (s d a t)
    [q (.wbin 1#5 2#5 3#5) 1#64 8#64 0#64, q (.wbin 1#5 2#5 3#5) 1#64 16#64 0x20#64, q (.wbin 1#5 2#5 3#5) 4097#64 0#64 0#64, q (.wbin 1#5 2#5 3#5) 4096#64 0#64 0x4000#64, q (.wreplay 1#5 2#5 3#5) 1#64 0#64 0x20#64,
     q (.wreplay 1#5 2#5 3#5) 0x100000000#64 0#64 0#64, q (.wclass 1#5 2#5 3#5) 1#64 2#64 0#64, q (.wclass 1#5 2#5 3#5) 1#64 4#64 16#64] ==
    [0x8180#64, 0x8180#64, 0x80C0#64, 0x1004#64, 0x8180#64, 0x80C0#64, 0x8180#64, 0x8180#64] &&
    gives (exec (.wreplay 1#5 2#5 3#5) (s 0#64 0#64 0x40#64)) (fun t => t.winnow == []) && gives (exec (.wclass 1#5 2#5 3#5) (s 5#64 4#64 0x20#64)) (fun t => t.winnow.map (·.kind) == [2] && (t.thr t0).copies == 1)) = true := by decide +kernel
/-- A bin table at 0x4000 of two regions of 4 words with BASE 0x5000, CAP 2; the records, offsets and lists stand where the operations find them. -/
def hdr0 : List W64 := [0x6000#64, 0x200000202#64, 0#64, 0#64, 0#64, 0#64, 0#64, 0#64]
def wop (kind : Nat) (d a t : W64) (pos : Nat) : WinOp :=
  { id := 9, kind := kind, die := 0, ti := t0, uid := 7, grp := 1, clu := 0, ctx := 0, sup := false, det := false, first := 0x1000#64, d := d, s := a, t := t, pos := pos, hdr := some hdr0, staged := none, own := 0 }
def wst (o : WinOp) (count : Nat) (r0 : Nat) (offs : List Nat) : State :=
  let s := evs .winnowComplete EvArgs.zero { base fun t => { t with copies := 1 } with winnow := [o], mem := Memory.writeN (Memory.writeN [] (linOfInter 0x4040) (leBytes 8 0x5000 ++ leBytes 8 (count + 2 ^ 33))) (linOfInter 0x2000) (offs.flatMap (leBytes 4)) }
  s.setHalf 0 0 0 { Half.zero with sp := placed 0x100 (leBytes 8 r0 ++ leBytes 8 5) }
def wgot (o : Out) : List Nat × Nat := match o with | .next t => (t.winnow.map (·.pos), (t.ctx 0 0).recq.length) | _ => ([], 99)
/-- Winnow at work: a record appended, a full region, a bad record, a region past NREG, a header not in order; WCLASS of the four lengths; the end. -/
theorem wit_winnow_bins : (headerOk hdr0 && recOk hdr0 false (2 ^ 40) && !recOk hdr0 false (13 * 2 ^ 40) && (hWidth hdr0).bytes == 4 &&
    [wgot (exec .winnowComplete (wst (wop 0 1#64 0x100#64 0x4000#64 0) 0 (2 ^ 40 + 3) [])), wgot (exec .winnowComplete (wst (wop 0 1#64 0x100#64 0x4000#64 0) 2 (2 ^ 40 + 3) [])), wgot (exec .winnowComplete (wst (wop 0 1#64 0x100#64 0x4000#64 0) 0 (13 * 2 ^ 40) [])),
     wgot (exec .winnowComplete (wst (wop 0 1#64 0x100#64 0x4000#64 0) 0 (2 ^ 40 + 8) [])), wgot (exec .winnowComplete (wst { wop 0 1#64 0x100#64 0x4000#64 0 with hdr := some [] } 0 0 [])), wgot (exec .winnowComplete (wst (wop 0 1#64 0x100#64 0x4000#64 1) 0 0 []))] ==
    [([1], 0), ([], 1), ([], 1), ([], 1), ([], 1), ([], 0)] &&
    gives (exec .winnowComplete (wst (wop 0 1#64 0x100#64 0x4000#64 0) 1 (2 ^ 40 + 3) [])) (fun t => t.mem.readN (linOfInter 0x4048) 4 == leBytes 4 2)) = true := by decide +kernel
theorem wit_winnow_classes : (let c (l : Nat) : W64 := 0#64 + BitVec.ofNat 64 l
    let st (offs : List Nat) : Out := exec .winnowComplete (wst (wop 2 (c 1) 0x2000#64 0x4000#64 0) 0 0 offs)
    [wgot (st [5, 4]), wgot (st [5, 5]), wgot (st [5, 7])] == [([], 1), ([1], 0), ([], 1)] && gives (st [5, 5]) (fun t => t.mem.readN (linOfInter 0x4000) 8 == leBytes 8 1) &&
    (let r := wst (wop 1 2#64 0#64 0x4000#64 0) 0 0 []
     wgot (exec .winnowComplete r) == ([1], 0))) = true := by decide +kernel
/-- FerryAndMessages: destinations w15, w16, w23 and h0; an odd entry and 0x2000; a handler; a call, its timer, its reply. -/
theorem wit_ferry : (let i (r : Reg) : Instr := .ferry false false r 2#5 3#5
    let s (e : W64) : State := base (rr 0#64 0x2000#64 e)
    [pcAfter (i 16#5) (s 0#64), pcAfter (i 23#5) (s 0#64), pcAfter (i 1#5) (s 1#64), pcAfter (i 1#5) (s 0x2000#64), pcAfter (i 24#5) ((s 0#64).modThr t0 fun t => { t with kind := .rowH })] ==
      [0x8040#64, 0x8040#64, 0x80C0#64, 0x80C0#64, 0x80C0#64] &&
    (dram (s 0#64) 0x2000#64 1 .read subEng).isSome && (okS ((s 0#64).barnRelease (chanOf 0x2000))).isSome &&
    gives (exec (i 15#5) (s 0x1FFE#64)) (fun t => t.calls.map (fun c => (c.tgt, c.entry, c.sends)) == [(chanOf 0x2000, 0x1FFE, 1)] && (t.thr t0).wait == .engine && (t.thr t0).callCtr == 1#16)) = true := by decide +kernel
def acall (sends : Nat) (fly : List Bool) (r : Option (Nat × List W64)) : Call :=
  { ti := t0, uid := 7, rd := 1, tt := false, id := 3, cl := false, tgt := 32, peer := none, entry := 0, pay := List.replicate 8 6#64, src := 0, ctx := 0, sends := sends, inFly := fly, reply := r, ended := false }
def callSt (i : Instr) (c : Call) : State := evs i { EvArgs.zero with ti := t0 } { base fun t => { t with wait := .engine, ph := { t.ph with len := 4 } } with calls := [c] }
theorem wit_ferry_events : (let f (c : Call) : Out := exec .ferryRetransmit (callSt .ferryRetransmit c)
    let g (st : Nat) : Out := exec .ferryReply (callSt .ferryReply (acall 1 [] (some (st, (List.range 8).map fun i => BitVec.ofNat 64 (10 + i)))))
    gives (f (acall 15 [] none)) (fun t => t.calls.map (fun c => (c.sends, c.inFly)) == [(16, [true])]) && gives (f (acall 16 [] none)) (fun t => t.calls == [] && (t.thr t0).reg 1#5 == 2#64 && (t.thr t0).pc == 0x1004#64) &&
    gives (g 0) (fun t => t.calls == [] && (t.thr t0).reg 1#5 == 0#64 && (t.thr t0).reg 23#5 == 17#64) && gives (g 0x301) (fun t => (t.thr t0).reg 1#5 == 0x301#64 && (t.thr t0).reg 17#5 == 11#64 && (t.thr t0).reg 18#5 == 0#64) &&
    gives (g 3) (fun t => (t.thr t0).reg 1#5 == 3#64 && (t.thr t0).reg 16#5 == 0#64)) = true := by decide +kernel
/-- RSEND to channels 13 and 14; IXRED of a valid command and of one with 17 rows; a handler's reply; SLCTL of an idle and of a busy unit. -/
theorem wit_messages : (let s (c : W64) : State := base (rr 0#64 0x2000#64 c)
    let cmd (n : Nat) : State := (base (rr 0#64 0x40#64 0x2000#64)).setHalf 0 0 0 { Half.zero with sp := placed 0x40 (List.replicate 48 0#8 ++ leBytes 4 0 ++ leBytes 4 (n + 2 ^ 8) ++ leBytes 4 0x400 ++ leBytes 4 0x600) }
    let h : State := (base (fun t => { t with kind := .ferryH, call := some (5, 9), grp := 0 })).setHalf 0 0 0 { Half.zero with ids := [(srcKey 5 0, [(9, .active)])] }
    gives (exec (.rsend 2#5 3#5) (s 13#64)) (fun t => t.msgs.map (fun m => (m.kind, m.chan)) == [(1, 13)] && (t.thr t0).copies == 1) && pcAfter (.rsend 2#5 3#5) (s 14#64) == 0x80C0#64 &&
    gives (exec (.ixred 2#5 3#5) (cmd 16)) (fun t => t.msgs.map (fun m => (m.kind, m.chan)) == [(2, 14)]) && pcAfter (.ixred 2#5 3#5) (cmd 17) == 0x80C0#64 && pcAfter (.ixred 2#5 3#5) (cmd 0) == 0x80C0#64 &&
    pcAfter .rsendReply (base id) == 0x80C0#64 && (okS (h.release .dev false)).isSome && gives (exec .rsendReply h) (fun t => !(t.thr t0).live) &&
    gives (exec (.slctlStatus 1#5 2#5 3#5) (s 0#64)) (fun t => (t.thr t0).reg 1#5 == 0#64) && pcAfter (.slctlStatus 1#5 2#5 3#5) (s 2#64) == 0x80C0#64 &&
    gives (exec (.slctlAbort 1#5 2#5 3#5) { s 1#64 with sluices := [((32, 0), { Sluice.zero with busy := true })] }) (fun t => chanOf 0x2000 == 32 && (t.thr t0).reg 1#5 == 12#64)) = true := by decide +kernel
/-- A Reed core of pseudo-channel 32, channels 2 and 15 enabled at priorities 1 and 0. -/
def reed0 : Reed := { Reed.zero with ov0 := some [], table := lset (lset Reed.zero.table 15 (2 ^ 17)) 2 (2 ^ 17 + 2 ^ 14 + 8) }
def msg0 (c : Nat) : Msg := { kind := 1, q := 32, chan := c, src := 7, ctx := 0, id := 1, entry := 0x10, pay := List.replicate 8 6#64, ti := none, uid := 0, qent := none, first := 0#64, tile := none }
def reedSt (r : Reed) (s : State) : State := s.setReed 32 r
/-- ReedTasks: each answer to a copy of a call. -/
theorem wit_call_arrives : (let s (c : Call) (r : Reed) : Out := exec .ferryCallArrive (reedSt r (callSt .ferryCallArrive c))
    let fin (o : Out) : Option (Option (Nat × List W64)) := match o with | .next t => t.calls.head?.map (·.reply) | _ => none
    let c := acall 1 [false] none
    gives (s c reed0) (fun t => (t.reed 32).queue.map (fun m => (m.kind, m.chan, m.id)) == [(0, 15, 3)] && idState (t.reed 32).ids 0 3 == some .active) &&
    (fin (s c Reed.zero)).join.map (·.1) == some 3 && (fin (s { c with inFly := [true] } reed0)).join.map (·.1) == some 2 && (fin (s c { reed0 with ids := [(0, [(3, .active)])] })).join == none &&
    (fin (s c { reed0 with ids := [(0, [(3, .finished 0 [4#64])])] })).join.map (·.1) == some 0 && gives (s c { reed0 with queue := List.replicate 8 (msg0 15) }) (fun t => (t.reed 32).queue.length == 8 && t.calls == [c]) &&
    (let k := { c with cl := true, tgt := 97 }
     gives (exec .ferryCallArrive (callSt .ferryCallArrive k)) (fun t => (t.half 1 1 0).calls.map (·.id) == [3]))) = true := by decide +kernel
theorem wit_reed_queue : (let m (r : Reed) : Out := exec .reedMessageArrive (reedSt r (evs .reedMessageArrive { EvArgs.zero with q := 32 } { base id with msgs := [msg0 2] }))
    let d (r : Reed) : Out := exec .reedDispatch (reedSt r (evs .reedDispatch { EvArgs.zero with q := 32 } (base id)))
    gives (m reed0) (fun t => (t.reed 32).queue == [msg0 2] && t.msgs == []) && gives (m Reed.zero) (fun t => (t.reed 32).queue == [] && t.msgs == []) && gives (m { reed0 with queue := List.replicate 8 (msg0 2) }) (fun t => t.msgs == [msg0 2]) &&
    gives (d { reed0 with queue := [msg0 15, msg0 2] }) (fun t => (t.reed 32).task == some (msg0 2) && (t.reed 32).pc == 8#64 && vget (t.reed 32).e 7 == 6#64 && vget (t.reed 32).e 8 == 0x2000007#64)) = true := by decide +kernel
theorem wit_ferry_slot : (let s := (evs .ferrySlotDispatch EvArgs.zero (base id)).setHalf 0 0 0 { Half.zero with calls := [⟨5, 9, 0, 0x80, (List.range 8).map (BitVec.ofNat 64)⟩] }
    s.rotating ⟨0, 0, 0, 0, 14⟩ && gives (exec .ferrySlotDispatch s) (fun t => let y := t.thr ⟨0, 0, 0, 0, 14⟩; y.live && y.kind == .ferryH && y.pc == 0x80#64 && y.reg 7#5 == 7#64 && y.reg 8#5 == 5#64)) = true := by decide +kernel
def onReed (c a : W64) (r : Reed) : State := reedSt { r with e := ((Vector.replicate 16 0#64).set 1 c).set 2 a } { State.reset with cur := ⟨.reed 32, 0x1000#64, 4, EvArgs.zero⟩ }
theorem wit_reed_instructions : (let r : Reed := { reed0 with task := some { msg0 15 with kind := 0 }, pc := 0x1000#64 }
    gives (exec (.tkset 1#5) (onReed 15#64 0#64 r)) (fun t => (t.reed 32).table.getD 15 0 == 2 ^ 17 + 2 ^ 16 && (t.reed 32).pc == 0x1004#64) && gives (exec (.tkclr 1#5) (onReed 2#64 0#64 r)) (fun t => (t.reed 32).table.getD 2 0 == 2 ^ 17 + 2 ^ 14 + 8) &&
    gives (exec (.tkset 1#5) (onReed 16#64 0#64 r)) (fun t => (t.reed 32).task == none) && gives (exec (.ovswap 1#5 2#5) (onReed 1#64 0#64 r)) (fun t => (t.reed 32).task == none) && (onReed 0#64 0#64 r).lim 32 == 0x4FF00000 &&
    gives (exec (.ovswap 1#5 2#5) (onReed 0#64 8#64 r)) (fun t => (t.reed 32).task == none) && gives (exec .tkend (onReed 0#64 0#64 r)) (fun t => (t.reed 32).task == none && idState (t.reed 32).ids 7 1 == some (.finished 0 (List.replicate 8 0#64)))) = true := by decide +kernel
/-- IXRED executed: one row of one group of 16 FP16 ones; a row beyond the populated memory; DONE full; DONE beyond the populated memory. -/
def ixSt (row0 nb dn : Nat) (r : Reed) : State :=
  let m : Msg := { msg0 14 with kind := 2, pay := [BitVec.ofNat 64 row0, 0#64, 0#64, 0#64, 0#64, 0#64, BitVec.ofNat 64 (2 ^ 32 + nb * 2 ^ 40), BitVec.ofNat 64 (0x400 + dn * 2 ^ 32)] }
  reedSt { r with task := some m } (evs .ixredExecute { EvArgs.zero with q := 32 } { base id with mem := Memory.writeN [] (32 * 2 ^ 31) ((List.range 16).flatMap fun _ => leBytes 2 0x3C00) })
theorem wit_ixred : (gives (exec .ixredExecute (ixSt 0 1 0x600 reed0)) (fun t => t.mem.readN (32 * 2 ^ 31 + 0x43C) 4 == leBytes 4 0x3F800000 && t.mem.readN (32 * 2 ^ 31 + 0x600) 8 == leBytes 8 0x100 && (t.reed 32).task == none) &&
    gives (exec .ixredExecute (ixSt 0xFFFFFF 16 0x600 reed0)) (fun t => t.mem.readN (32 * 2 ^ 31 + 0x600) 8 == leBytes 8 0x102) && gives (exec .ixredExecute { ixSt 0 1 0x600 reed0 with full := [(32 * 2 ^ 31 + 0x600) / 8] }) (fun t => (t.reed 32).wait.stage == 1) &&
    gives (exec .ixredExecute (ixSt 0 1 0x4FEFFFF8 reed0)) (fun t => t.mem.readN (32 * 2 ^ 31 + 0x4FEFFFF8) 8 == leBytes 8 0x100) && gives (exec .ixredExecute (ixSt 0 1 0x4FF00000 reed0)) (fun t => (t.reed 32).task == none && t.full == [])) = true := by decide +kernel

/-! ### Sluice units, Tilth -/

/-- SluiceUnits, the Reed core's side: units 3 and 4, a busy unit, COUNT 0, a misaligned block. -/
theorem wit_sluice_issue : (let r : Reed := { reed0 with task := some (msg0 2), pc := 0x1000#64 }
    let s (c a : W64) (busy : Bool) : State := { onReed c a r with sluices := [((32, 0), { Sluice.zero with busy := busy })], mem := Memory.writeN [] (32 * 2 ^ 31 + 0x40) ((List.range 16).flatMap fun i => leBytes 2 (i + 1)) }
    let trapped (o : Out) : Bool := match o with | .next t => (t.reed 32).task == none | _ => false
    gives (exec (.sluld 1#5 2#5) (s 3#64 0x40#64 false)) (fun t => (t.sluice 32 3).prog == (List.range 16).map (· + 1)) && trapped (exec (.sluld 1#5 2#5) (s 4#64 0x40#64 false)) && trapped (exec (.sluld 1#5 2#5) (s 0#64 0x40#64 true)) &&
    trapped (exec (.sluld 1#5 2#5) (s 0#64 0x48#64 false)) && gives (exec (.slugo 1#5 2#5) (s 0x20000#64 0x40#64 false)) (fun t => let u := t.sluice 32 0; u.busy && u.count == 2 && u.p.getD 0 0#32 == 0x20001#32 && u.sc.getD 3 0#32 == 0x10000F#32) &&
    gives (exec (.slugo 1#5 2#5) (s 0#64 0x40#64 false)) (fun t => !(t.sluice 32 0).busy) && trapped (exec (.slugo 1#5 2#5) (s 4#64 0x40#64 false)) &&
    gives (exec (.sluwt 1#5) (s 0#64 0#64 true)) (fun t => (t.reed 32).pc == 0x1000#64) && gives (exec (.sluwt 1#5) (s 3#64 0#64 true)) (fun t => (t.reed 32).pc == 0x1004#64) &&
    gives (exec (.slurd 3#5 1#5) (s 0#64 0#64 true)) (fun t => vget (t.reed 32).e 3 == 1#64) && trapped (exec (.slurd 3#5 1#5) (s 4#64 0#64 true))) = true := by decide +kernel
/-- A unit of bank group 0 with P0 a row, S0 = 0.5 in FP32, at micro-op 3 of an iteration. -/
def unitSt (p : Nat) (upc count : Nat) (a0 a1 : List Nat) : State :=
  { State.reset with cur := ⟨.sluice 32 0, 0#64, 0, EvArgs.zero⟩, sluices := [((32, 0), { Sluice.zero with busy := true, p := [BitVec.ofNat 32 p, 0#32, 0#32, 0#32], sc := [0x3F000000#32, 0#32, 0#32, 0#32], count := count, upc := upc, a0 := a0, a1 := a1 })] }
def sf (f : BitVec 2) (a b : BitVec 1) : SluF := ⟨f, a, b, 0#2, 0#6⟩
/-- SluiceUnits, the micro-ops: LOOP below and at COUNT, after micro-op 15, a row in range and out of it, y + 0.5 x. -/
theorem wit_sluice_ops : (let u (o : Out) : Sluice := match o with | .next t => t.sluice 32 0 | _ => Sluice.zero
    let l := u (exec (.sluLoop (sf 0#2 0#1 0#1)) (unitSt 0 6 2 [] []))
    let e := u (exec (.sluLoop (sf 0#2 0#1 0#1)) (unitSt 0 6 1 [] []))
    let n := u (exec (.sluNop (sf 0#2 0#1 0#1)) (unitSt 0 15 1 [] []))
    let r := u (exec (.rld (sf 0#2 0#1 0#1)) (unitSt 163840 0 1 [] []))
    let f := u (exec (.vfmas (sf 0#2 1#1 0#1)) (unitSt 0 3 1 (List.replicate 256 0x3F8000003F800000) (List.replicate 256 0x4000000040000000)))
    let pi := u (exec (.pinc ⟨0#2, 0#1, 0#1, 0#2, 0x3F#6⟩) (unitSt 5 3 1 [] []))
    (l.iter, l.upc, l.busy) == (1, 0, true) && (e.iter, e.busy, e.endc) == (1, false, 0) && (n.busy, n.endc) == (false, 1) && (r.busy, r.endc) == (false, 2) && f.upc == 4 &&
    laneGet (f.a1.getD 255 0) 4 4 == 0x40200000 && pi.p.getD 0 0#32 == 4#32 && 7 * 8192 + 2048 ≤ (unitSt 7 0 1 [] []).lim 32) = true := by decide +kernel
theorem wit_sluice_window : (let w (i : Instr) (win susp flag : Bool) : Option (Bool × Bool) :=
      match (exec i (evs i { EvArgs.zero with q := 32 } { State.reset with asked := if flag then [(32, 0)] else [(32, 1)], sluices := [((32, 0), { Sluice.zero with busy := true, win := win, susp := susp, prog := [0x1000] })] })) with | .next t => some ((t.sluice 32 0).win, (t.sluice 32 0).susp) | _ => none
    let r (s : State) := { s with sluices := [((32, 0), { Sluice.zero with busy := true, prog := [0x1000] })] }
    ((r State.reset).class0 (32 * 2 ^ 31 + 8192)).asked == [(32, 0)] && ((r State.reset).class0 (32 * 2 ^ 31 + 2048)).asked == [] && gives (turnSluice 32 0 { r State.reset with asked := [(32, 0)] }) (fun t => (t.sluice 32 0).susp && t.asked == []) &&
    [w .sluiceWindow true false true, w .sluiceWindow false false true, w .sluiceWindow true false false, w .sluiceWindow true true true, w .sluiceResume false true false] ==
      [some (false, true), some (false, true), some (false, false), some (true, true), some (false, false)]) = true := by decide +kernel
/-- Tilth, issue: a record and its status block in scratchpad; alignments; N of 0, 1 and 65; RESUME without a matching block. -/
def tis (src dst c : W64) : State := (base (rr dst src c)).setHalf 0 0 0 { Half.zero with sp := placed 0x400 (List.replicate 160 0#8) ++ placed 0x1000 (List.replicate 32 0#8) }
theorem wit_tissue_issue : (let i : Instr := .tissue 1#5 2#5 3#5
    (okS ((tis 0x1000#64 0x400#64 1#64).release .dev false)).isSome &&
    [pcAfter i (tis 0x1010#64 0x400#64 1#64), pcAfter i (tis 0x1000#64 0x420#64 1#64), pcAfter i (tis 0x1000#64 0x400#64 0#64), pcAfter i (tis 0x1000#64 0x400#64 65#64), pcAfter i (tis 0x1000#64 0x400#64 0x81#64), pcAfter i (tis 0x1000#64 0x400#64 0x101#64),
     pcAfter i ((tis 0x1000#64 0x400#64 1#64).modThr t0 fun t => { t with kind := .rowH })] == [0x8180#64, 0x8180#64, 0x80C0#64, 0x80C0#64, 0x80C0#64, 0x80C0#64, 0x80C0#64] &&
    gives (exec i (tis 0x1000#64 0x400#64 1#64)) (fun t => t.tissues.map (fun v => (v.recs.length, v.st, v.status)) == [(1, 0, 0x400)] && (t.thr t0).tiles == 1)) = true := by decide +kernel
/-- A tissue of one record. -/
def tsu (r : Nat) (st : Nat) (dies : List DieTiles) : Tissue :=
  { id := 9, p := 0, ctx := 0, ti := t0, uid := 7, grp := 1, sup := false, ftz := false, det := false, first := 0x1000#64, status := 0x400, recs := [(List.range 4).map fun j => BitVec.ofNat 64 (r / 2 ^ (64 * j))], idx := 0, st := st, stop := false
    dies := dies, tcount := 0, flags := 0, cause := 0, level := 0, dev := 0, fdie := 0, fclu := 0, ftile := 0, faddr := 0, part := 0, sys := false, resume := none, remote := false, peerMask := [] }
def tst (i : Instr) (e : EvArgs) (u : Tissue) : State :=
  { evs i { e with q := 9 } (base fun t => { t with tiles := 1 }) with tissues := [u] }
def tgot (o : Out) : Option (Nat × Nat × List (Nat × Nat × Nat)) := match o with | .next t => t.tissues.head?.map fun u => (u.st, u.cause, u.dies.map fun d => (d.lo, d.hi, d.next)) | _ => none
/-- TGATHER-like record numbers: op 5 (M 4,097, N 1), op 13 (a barrier), an op that is not assigned, a FWD to device 5. -/
def rec5 : Nat := 5 + 8193 * 2 ^ 32
/-- Tilth, records: BADREC, a barrier, an unreachable device, the tiles shared out by die. -/
theorem wit_record_start : (let g (r : Nat) : Option (Nat × Nat × List (Nat × Nat × Nat)) := tgot (exec .recordStart (tst .recordStart EvArgs.zero (tsu r 0 [])))
    recordOk 13 && recordOk 0 && !recordOk 15 && g 13 == some (1, 0, []) && g 15 == some (2, 1, []) && recordOk (14 + 2 ^ 14 + 5 * 2 ^ 15) && g (14 + 2 ^ 14 + 5 * 2 ^ 15) == some (2, 2, []) && tlTiles 0 == 0 &&
    (g 0).map (fun x => (x.1, x.2.2.length)) == some (1, 8)) = true := by decide +kernel
theorem wit_tiles : (let d (fs : List (Nat × Nat × Nat × Nat × Nat)) (prog : List (Nat × Nat)) (next : Nat) : DieTiles := ⟨0, 0, 2, next, prog, [], fs, []⟩
    let c := tst .tileClaim EvArgs.zero (tsu (5 + 4097 * 2 ^ 32) 1 [d [] [] 0])
    let f := tst .tileFaultRollup EvArgs.zero (tsu 5 1 [d [(1, 3, 127, 0x40, 0)] [] 2])
    let g := tst .tileFaultRollup EvArgs.zero { tsu 5 1 [d [(1, 3, 127, 0x40, 0)] [] 2] with stop := true }
    let r := tst .recordComplete EvArgs.zero (tsu 5 1 [{ d [] [] 2 with done := [0, 1] }])
    !tlCluster 5 && gives (exec .tileClaim c) (fun t => t.tissues.map (fun u => u.dies.map (·.prog)) == [[[(0, 127)]]]) && gives (exec .tileFaultRollup f) (fun t => t.tissues.map (·.stop) == [true]) &&
    gives (exec .tileFaultRollup g) (fun t => t.tissues.map (fun u => (u.st, u.cause, u.ftile, u.level)) == [(2, 3, 1, 2)]) && r.tissueOut (tsu 5 1 []) &&
    gives (exec .recordComplete r) (fun t => t.tissues.map (fun u => (u.st, u.idx)) == [(0, 1)])) = true := by decide +kernel
theorem wit_tissue_ends : (let u : Tissue := { tsu 5 0 [] with idx := 1, flags := 3 }
    let s (u : Tissue) : State := (tst .tissueComplete EvArgs.zero u).setHalf 0 0 0 { Half.zero with sp := placed 0x400 (List.replicate 160 0#8) }
    gives (exec .tissueComplete (s u)) (fun t => t.tissues == [] && (t.thr t0).flags == 3#9 && (t.thr t0).tiles == 0 && t.spRead 1 0x400 8 == leBytes 8 (1 + 3 * 2 ^ 48)) &&
    gives (exec .tissueComplete (s { tsu 5 2 [] with cause := 1 })) (fun t => t.tissues == [] && (t.ctx 0 0).recq.length == 1) && gives (exec .tissueComplete (s (tsu 5 1 []))) (fun t => t.tissues.length == 1) &&
    (let f (rx : W64) : State := evs .recordForward { EvArgs.zero with u := 5, n := 6, req := .record [0x4005#64, 0#64, 0#64, 0#64] none } { base id with parts := [(0, { Part.zero with pdies := 0xFF#8, rxctx := rx })] }
     gives (exec .recordForward (f 2#64)) (fun t => t.tissues.map (fun v => (v.remote, v.status, v.recs)) == [(true, 5, [[5#64, 0#64, 0#64, 0#64]])]) && gives (exec .recordForward (f 1#64)) (fun t => t.tissues == [] && t.toPeer.map (·.1) == [5]))) = true := by decide +kernel

/-! ### System registers, contexts, translation -/

/-- At supervisor level, with value v in w1. -/
def sup (v : W64) (f : Thread → Thread) : State := base fun t => { f (t.setReg 1#5 v) with sup := true }
/-- SystemRegisters: user level; reserved numbers 18, 63, 178 and 288; firmware's; read-only; bounds of FRING, WDOG, TSTAT, WIN; SPILL and PREG. -/
theorem wit_sys_registers : (let w (n : BitVec 9) (v : W64) : W64 := pcAfter (.swr n 1#5) (sup v id)
    let r (n : BitVec 9) : W64 := pcAfter (.srd 2#5 n) (sup 0#64 id)
    [pcAfter (.srd 2#5 0#9) (base id), pcAfter (.swr 0#9 1#5) (base id), r 18#9, r 63#9, r 178#9, r 288#9, r 383#9, r 101#9, r 17#9, r 384#9] ==
      [0x8080#64, 0x8080#64, 0x8040#64, 0x8040#64, 0x8040#64, 0x8040#64, 0x8040#64, 0x8080#64, 0x1004#64, 0x1004#64] &&
    [w 96#9 0#64, w 142#9 0#64, w 12#9 0#64, w 177#9 0#64, w 11#9 4#64, w 11#9 5#64, w 11#9 20#64, w 11#9 21#64, w 66#9 15#64, w 66#9 16#64, w 66#9 40#64, w 66#9 41#64, w 66#9 0#64] ==
      [0x8080#64, 0x8080#64, 0x80C0#64, 0x80C0#64, 0x80C0#64, 0x1004#64, 0x1004#64, 0x80C0#64, 0x80C0#64, 0x1004#64, 0x1004#64, 0x80C0#64, 0x1004#64] &&
    [w 4#9 2#64, w 4#9 5#64, w 3#9 0x40000#64, w 16#9 0x1000040000#64, w 16#9 0x1100000000#64, w 0#9 0x1001#64, w 113#9 3#64, w 113#9 4#64, w 145#9 0x40#64, w 145#9 0x41#64] ==
      [0x80C0#64, 0x1004#64, 0x80C0#64, 0x1004#64, 0x80C0#64, 0x80C0#64, 0x1004#64, 0x80C0#64, 0x1004#64, 0x80C0#64]) = true := by decide +kernel
theorem wit_sys_values : (let g (n : BitVec 9) (s : State) : W64 := match exec (.srd 2#5 n) s with | .next t => (t.thr t0).reg 2#5 | _ => 0#64
    let s := sup 0xAB#64 fun t => { t with bot := 7#3, wb := 0#3, depth := 3#16, phys := (t.phys.set 112 5#64).set 96 6#64 }
    [g 9#9 s, g 256#9 s, g 272#9 s, g 496#9 s, g 66#9 s, g 17#9 s] == [0x3700000#64, 5#64, 6#64, 5#64, 24#64, 1#64] &&
    gives (exec (.swr 271#9 1#5) s) (fun t => vget (t.thr t0).phys 127 == 0xAB#64) && gives (exec (.swr 5#9 1#5) s) (fun t => vget (t.thr t0).tscr 0 == 0xAB#64) && gives (exec (.swr 66#9 1#5) (sup 16#64 id)) (fun t => (t.ctx 0 0).wdog == 16#64) &&
    (let i := { sup 2#64 id with groups := [] }
     !i.ctxLive 0 0 && !i.anyEntry 0 (fun _ => true) && pcAfter (.swr 17#9 1#5) i == 0x1004#64 && pcAfter (.swr 17#9 1#5) { sup 2#64 id with launches := [(1, { testLaunch with state := 2 })] } == 0x80C0#64)) = true := by decide +kernel
def supr (a b c : W64) (f : Thread → Thread) : State := base fun t => { f (rr a b c t) with sup := true }
/-- ContextsAndTranslation: CTXSW of another cluster, of its own, out of bound, a context of 2; its end; CONTEXT_SWITCH. -/
theorem wit_ctxsw : (let i : Instr := .ctxsw 1#5 2#5 3#5
    let s (a c : W64) (f : Thread → Thread) : State := supr 0#64 a c f
    [pcAfter i (base id), pcAfter i (s 8#64 2#64 id), pcAfter i (s 0x400#64 1#64 id), pcAfter i (s 0#64 1#64 id), pcAfter i (s 0x300#64 1#64 id)] == [0x8080#64, 0x80C0#64, 0x80C0#64, 0x80C0#64, 0x80C0#64] &&
    (s 8#64 1#64 id).ctxswSel 8#64 == some [(0, 1)] && (s 8#64 1#64 id).ctxswSel 0x2F8#64 == some [(0, 95)] && (s 8#64 1#64 id).ctxswSel 0x300#64 == none &&
    gives (exec i (s 8#64 1#64 id)) (fun t => (t.part 0).cmds == [⟨t0, some 1, [(0, 1)], 0⟩] && (t.thr t0).pc == 0x1000#64 && (t.thr t0).ph.aux == 1 && (t.thr t0).wait == .cmd) && gives (exec i (s 8#64 0#64 id)) (fun t => (t.thr t0).reg 1#5 == 0#64 && (t.thr t0).pc == 0x1004#64) &&
    (let u := (s 8#64 1#64 fun t => { t with wait := .cmd, pc := 0x1000#64, ph := { t.ph with len := 4, aux := 1 } })
     let v (l : List (Nat × Nat)) : State := evs .contextSwitch { EvArgs.zero with clu := 1 } (u.setPart 0 { u.part 0 with cmds := [⟨t0, some 1, l, 0⟩] })
     gives (exec .contextSwitch (v [(0, 1)])) (fun t => (t.cluster 0 1).rot == 1 && (t.part 0).cmds == [] && (t.thr t0).reg 1#5 == 1#64 && (t.thr t0).pc == 0x1004#64) &&
     gives (exec .contextSwitch (v [(0, 1), (0, 2)])) (fun t => (t.part 0).cmds == [⟨t0, some 1, [(0, 2)], 1⟩] && (t.thr t0).wait == .cmd) &&
     gives (exec .contextSwitch (v [(0, 2)])) (fun t => (t.cluster 0 1).rot == 0))) = true := by decide +kernel
/-- XINV of one page at 0x5000, of n 0 and 2^20 + 1; of a context; with a copy begun before it. PAGE_WALK with no table and from one. -/
theorem wit_xinv : (let x : XEnt := ⟨0, 5, 0, 9, true, true, true⟩
    let c (s : State) : State := s.setCluster 0 0 { s.cluster 0 0 with xlat := [x, { x with vpn := 6 }] }
    let left (o : Out) : List Nat := match o with | .next t => (t.cluster 0 0).xlat.map (·.vpn) | _ => [99]
    left (exec (.xinvPage 1#5 2#5 3#5) (c (supr 1#64 0x5000#64 0#64 id))) == [6] && left (exec (.xinvContext 1#5 2#5 3#5) (c (supr 1#64 0x5000#64 1#64 id))) == [] &&
    [pcAfter (.xinvPage 1#5 2#5 3#5) (supr 0#64 0x5000#64 0#64 id), pcAfter (.xinvPage 1#5 2#5 3#5) (supr 0x100001#64 0x5000#64 0#64 id), pcAfter (.xinvContext 1#5 2#5 3#5) (supr 0#64 0#64 5#64 id), pcAfter (.xinvContext 1#5 2#5 3#5) (supr 0#64 0#64 1#64 id),
     pcAfter (.xinvContext 1#5 2#5 3#5) { supr 0#64 0#64 1#64 id with copies := [cop 8#64 0#64 0#64 0 0] }] == [0x80C0#64, 0x80C0#64, 0x80C0#64, 0x1004#64, 0x1000#64]) = true := by decide +kernel
theorem wit_page_walk : (let s (root : W64) : State := { evs .pageWalk { EvArgs.zero with u := 5 } (base fun t => { t with wait := .walk 5 }) with
        dies := [(0, { Die.zero with walks := [⟨0, 5, [t0], []⟩] })], ctxs := [((0, 0), { Ctx.zero with ptroot := root })] }
    (match (s 0#64).walk 0 0 5 with | .fault => true | _ => false) && gives (exec .pageWalk (s 0#64)) (fun t => (t.thr t0).wait == .no && (t.thr t0).ph.xfault == some 5 && (t.die 0).walks == [])) = true := by decide +kernel
/-- SAVECTX of the other context: misaligned, of its own, of one that is not live; halting; LOADCTX of an area nothing was saved in. -/
theorem wit_save_load : (let i : Instr := .savectx 1#5 2#5 3#5
    let s (a c : W64) : State := supr 0#64 a c id
    let l : State := { s 0x10000#64 1#64 with launches := [(2, { testLaunch with ctx := 1, state := 2 })], copies := [{ cop 8#64 0#64 0#64 0 0 with ctx := 1 }] }
    l.ctxLive 0 1 && [pcAfter i (s 0x8000#64 1#64), pcAfter i (s 0x10000#64 0#64), pcAfter i (s 0x10000#64 1#64), pcAfter (.loadctx 1#5 2#5 3#5) (s 0x8000#64 1#64), pcAfter (.loadctx 1#5 2#5 3#5) (s 0x10000#64 2#64), pcAfter (.loadctx 1#5 2#5 3#5) (s 0x10000#64 1#64)] ==
      [0x80C0#64, 0x80C0#64, 0x80C0#64, 0x80C0#64, 0x80C0#64, 0x80C0#64] &&
    gives (exec i l) (fun t => (t.ctx 0 1).halted)) = true := by decide +kernel
/-- A halted context that is ready to be saved and merged, with no entry and with a held one, both of which fit the area; one with an update under way on its way to the barn is not merged. -/
theorem wit_save_ready : (let s := { supr 0#64 0x10000#64 1#64 (fun t => { t with ph := { t.ph with stage := 1 } }) with launches := [(2, { testLaunch with ctx := 1, state := 2 })] }
    let h := withEnt (.rick 0) { ent .iadd true 5#64 with ctx := 1 } s
    let m := withEnt (.sheaf 0 0 0) { ent .iadd false 5#64 with ctx := 1 } s
    s.saveReady 0 1 && s.ctxMerged 0 1 && entsFit (s.savedEnts 0 1) 0 && h.saveReady 0 1 && h.ctxMerged 0 1 && entsFit (h.savedEnts 0 1) 0 && (okS (h.release .dev false)).isSome && !m.ctxMerged 0 1 &&
    gives (exec (.savectx 1#5 2#5 3#5) m) (fun t => (t.thr t0).pc == 0x1000#64 && !(t.ctx 0 1).saved)) = true := by decide +kernel

/-! ### Firmware, queues, launches -/

/-- Partition 0 of all eight dies; words of device memory; a queue of 16 entries at 0x20000. -/
def prt (s : State) : State := { s with parts := [(0, { Part.zero with pdies := 0xFF#8, qtab := 0x40000#64 })] }
def words (a : Nat) (ws : List Nat) (s : State) : State :=
  { s with mem := ((List.range ws.length).zip ws).foldl (fun m x => m.writeN (linOfInter (a + 8 * x.1)) (leBytes 8 x.2)) s.mem }
/-- What stands at device scope. -/
def hv (s : State) (a : Nat) : Nat := match s.hvRead a 8 with | .ok v _ => v | _ => 2 ^ 64
def que (typ : Nat) : Queue :=
  { base := 0x20000, logN := 4, typ := typ, prio := 0, ctx := 0, serial := false, narrow := true, wide := true, sup := false, dies := 255, head := 0, state := 1, stop := false, cur := none, tokOk := false, ents := [] }
def withQ (x : Queue) (s : State) : State := { s with queues := [((0, 0), x)] }
def qOf (o : Out) : Option (Nat × Nat × Bool × Bool × Nat) := match o with | .next t => (t.queue 0 0).map fun x => (x.state, x.head, x.stop, x.cur.isSome, x.ents.length) | _ => none
/-- FirmwareRegisterWrites: a start from a descriptor, of a running queue, of a bad type; a stop between entries and within one. -/
theorem wit_queue_start : (let d (typ : Nat) (s : State) : State := words 0x40000 [0x20000, 4 + typ * 16 + 2 ^ 14 + 255 * 2 ^ 16, 3] s
    let st (s : State) := exec .qctlStart (evs .qctlStart EvArgs.zero (prt s))
    let sp (s : State) := exec .qctlStop (evs .qctlStop EvArgs.zero (prt s))
    qOf (st (d 1 (base id))) == some (1, 3, false, false, 0) && qOf (st (d 0 (base id))) == none && qOf (st (d 1 (withQ (que 2) (base id)))) == some (1, 0, false, false, 0) && qOf (sp (base id)) == none &&
    gives (st (d 1 (base id))) (fun t => hv t 0x40018 == 1) && qOf (sp (withQ (que 1) (base id))) == some (0, 0, true, false, 0) && qOf (sp (withQ { que 1 with cur := some (0, []) } (base id))) == some (1, 0, true, true, 0) &&
    qOf (sp (withQ { que 1 with state := 0 } (base id))) == some (0, 0, false, false, 0)) = true := by decide +kernel
theorem wit_firmware : (let i : State := prt { base id with slots := [], groups := [] }
    let v (c : Instr) (x : W64) (s : State) : Out := exec c (evs c { EvArgs.zero with v := x } s)
    let r := words 0x8000 [0, 0, 0, 2 ^ 43, 0, 0, 0, 0] i
    let dv (o : Out) : Option (Nat × Nat) := match o with | .next t => (t.ctx 0 0).dev.map fun d => (d.rcb, d.state) | _ => none
    dv (v .devrcbWrite 0x8000#64 r) == some (0x8000, 2) && dv (v .devrcbWrite 0x8000#64 (words 0x8000 [1, 0, 0, 2 ^ 43] i)) == some (0x8000, 4) && dv (v .devrcbWrite 0x8020#64 r) == none &&
    dv (v .devrcbWrite 0x8000#64 (words 0x8038 [1] r)) == none && gives (v .devrcbWrite 0x8000#64 r) (fun t => gives (v .devrcbWrite 0#64 t) (fun u => (u.ctx 0 0).dev.isNone && hv u 0x8038 == 3)) &&
    !i.ctxLive 0 0 && !i.anyEntry 0 (fun _ => true) && gives (v .cellstoreWrite 2#64 i) (fun t => (t.part 0).cellstore == 2#64) && gives (v .cellstoreWrite 256#64 i) (fun t => (t.part 0).cellstore == 1#64) &&
    i.dieIdle 0 && i.dieIdle 7 && gives (v .pdiesWrite 0x0F#64 i) (fun t => (t.part 0).pdies == 0x0F#8) && gives (v .pdiesWrite 0x10F#64 i) (fun t => (t.part 0).pdies == 0xFF#8)) = true := by decide +kernel
/-- The Steading window: a register read, a read at an address that is no register, a write of SYS.TVEC, one below its alignment, and SYS.PTROOT. -/
theorem wit_window : (let w (o n : Nat) (f : Bool) (v : W64) : Out := exec .sysWindowAccess (evs .sysWindowAccess { EvArgs.zero with u := o + 8 * n, flag := f, v := v } (prt (base id)))
    gives (w 0 17 false 0#64) (fun t => t.hostReads == [(0x3000010000088, some 1#64)]) && gives (w 4 17 false 0#64) (fun t => t.hostReads == [(0x300001000008C, none)]) && gives (w 0 18 false 0#64) (fun t => t.hostReads == [(0x3000010000090, none)]) &&
    gives (w 0x8000 0 true 0x7000#64) (fun t => (t.ctx 0 1).tvec == 0x7000#64) && gives (w 0 0 true 0x7001#64) (fun t => (t.ctx 0 0).tvec == 0#64) && gives (w 0 80 true 0#64) (fun t => (t.ctx 0 0).ptroot == 0#64) && sysReserved 18 && sysLocal 2 && sysReadOnly 12) = true := by decide +kernel
/-- A compute queue's entry at 0x20000 with a SEQ of sq, full. -/
def entry (w : List Nat) (sq : Nat) (s : State) : State := let t := words 0x20000 (w ++ [sq]) s; t.setFull (linOfInter (0x20000 + 8 * w.length)) true
/-- CommandQueues, taking: a MARK and a LAUNCH; a SEQ that is empty or differs; a bad OP; an address that is not aligned; a stopped queue; a record queue. -/
theorem wit_seq_take : (let q (x : Queue) (w : List Nat) (sq : Nat) : Out := exec .queueSeqTake (evs .queueSeqTake EvArgs.zero (prt (withQ x (entry w sq (base id)))))
    let r (sq : Nat) : Out := exec .recordTake (evs .recordTake EvArgs.zero (prt (withQ (que 4) (entry [0x8000, 7, 2 + 5 * 2 ^ 32] sq (base id)))))
    let mk (op : Nat) (a0 : Nat) : List Nat := [op, 0, 0, 0, a0, 0, 0]
    [qOf (q (que 1) (mk 5 0) 0), qOf (q (que 1) (mk 1 0x8000) 0), qOf (q (que 1) (mk 5 0) 1), qOf (q (que 1) (mk 9 0) 0), qOf (q (que 1) (mk 1 0x8001) 0), qOf (q { que 1 with stop := true } (mk 5 0) 0), qOf (q (que 4) (mk 5 0) 0)] ==
      [some (1, 0, false, true, 0), some (1, 0, false, true, 0), some (2, 0, true, false, 0), some (2, 0, true, false, 0), some (2, 0, true, false, 0), some (1, 0, true, false, 0), some (1, 0, false, false, 0)] &&
    qOf (exec .queueSeqTake (evs .queueSeqTake EvArgs.zero (prt (withQ (que 1) (base id))))) == some (1, 0, false, false, 0) &&
    gives (r 0) (fun t => (t.part 0).subs.map (fun y => (y.va, y.args, y.groups, y.tag)) == [(0x8000, some 7#64, some 2, 5)]) && qOf (r 1) == some (2, 0, true, false, 0)) = true := by decide +kernel
/-- CommandQueues, acting: tokens that have and have not come; each command; the end of an entry. -/
theorem wit_queue_acts : (let x (typ : Nat) (tok : Bool) (w : List Nat) : State := prt (withQ { que typ with cur := some (0, w.map (BitVec.ofNat 64)), tokOk := tok } (base id))
    let go (i : Instr) (s : State) : Out := exec i (evs i EvArgs.zero s)
    let after : Option (Nat × Nat × Bool × Bool × Nat) := some (1, 1, false, false, 1)
    let tok (o : Out) : Option Bool := match o with | .next t => (t.queue 0 0).map (·.tokOk) | _ => none
    tok (go .tokenPoll (words 0x9000 [4] (x 1 false [5, 0x9000, 4, 0, 0, 0, 0]))) == some true && tok (go .tokenPoll (words 0x9000 [3] (x 1 false [5, 0x9000, 4, 0, 0, 0, 0]))) == some false && qOf (go .tokenPoll (x 1 false [5, 0x9001, 4, 0, 0, 0, 0])) == some (2, 0, true, false, 0) &&
    qOf (go .cmdMark (x 1 true [5, 0, 0, 0, 0, 0, 0])) == after && qOf (go .cmdMark (x 1 false [5, 0, 0, 0, 0, 0, 0])) == some (1, 0, false, true, 0) && gives (go .cmdLaunch (x 1 true [1, 0, 0, 9, 0x8000, 0, 0])) (fun t => (t.part 0).subs.map (fun y => (y.va, y.tag)) == [(0x8000, 9)]) &&
    qOf (go .cmdCopy (words 0x9000 [64, 0, 0x1000, 0x2000] (x 2 true [2, 0, 0, 0, 0x9000, 0, 0]))) == after && gives (go .cmdCopy (words 0x9000 [64, 0, 0x1000, 0x2000] (x 2 true [2, 0, 0, 0, 0x9000, 0, 0]))) (fun t => t.copies.map (fun c => (c.die, c.qent)) == [(0, some (0, 0, 0))]) &&
    qOf (go .cmdCopy (words 0x9000 [0, 0, 0x1000, 0x2000] (x 2 true [2, 0, 0, 0, 0x9000, 0, 0]))) == after && qOf (go .cmdCopy (words 0x9000 [2 ^ 46 + 64, 0, 0x1000, 0x2000] (x 2 true [2, 0, 0, 0, 0x9000, 0, 0]))) == some (2, 0, true, false, 0) &&
    gives (go .cmdTask (x 3 true [3, 0, 0, 0, 0x1000, 2, 0x30001])) (fun t => (t.reed (chanOf 0x1000)).table.getD 2 0 == 0x30001) && qOf (go .cmdSend (words 0x9000 [1, 2, 3, 4, 5, 6, 7, 8] (x 3 true [4, 0, 0, 0, 0x1000, 2, 0x9000]))) == after &&
    gives (go .cmdSend (words 0x9000 [1, 2, 3, 4, 5, 6, 7, 8] (x 3 true [4, 0, 0, 0, 0x1000, 2, 0x9000]))) (fun t => t.msgs.map (fun m => (m.kind, m.chan, m.pay.getD 7 0#64)) == [(3, 2, 8#64)])) = true := by decide +kernel
theorem wit_entry_complete : (let x (e : QEnt) (rels : List (Nat × Nat) := [(0, 5)]) : State := prt (withQ { que 1 with head := 1, ents := [e], rels := rels } (base id))
    let go (s : State) : Out := exec .entryCompleteSignal (evs .entryCompleteSignal EvArgs.zero s)
    qOf (go (x ⟨0, 5, 0, 0, false⟩)) == some (1, 1, false, false, 0) && qOf (go (x ⟨0, 1, 0, 0, false⟩)) == some (1, 1, false, false, 1) && qOf (go (x ⟨0, 1, 0x9000, 0, true⟩)) == some (1, 1, false, false, 0) && gives (go (x ⟨0, 1, 0x9000, 0, true⟩ [])) (fun t => (t.queue 0 0).map (fun q => (q.ents.length, q.rels.length)) == some (1, 1)) &&
    gives (go (x ⟨0, 1, 0x9000, 0, true⟩)) (fun t => t.hvRead 0x9000 8 |> fun r => match r with | .ok v _ => v == 1 | _ => false) && qOf (go (x ⟨0, 1, 0x9004, 0, true⟩)) == some (2, 1, true, false, 1)) = true := by decide +kernel
/-- An RCB at 0x8000: no parent, entry 0x1000, ARGS 7, 2 groups of 5 threads with 0x2000 bytes and 1 slot, priority 0, and STATE st. -/
def rcbAt (place st : Nat) (s : State) : State := words 0x8000 [0, 0x1000, 7, 2 + 5 * 2 ^ 32 + place * 2 ^ 48, 0x2000 + 2 ^ 32, 0, 0, st] s
/-- LaunchesAndGroups, LAUNCH: by a group's thread and a handler; misaligned; STATE 1; PLACE 3; submitted. -/
theorem wit_launch : (let i : Instr := .launch 1#5 2#5
    let s (va : W64) (place st : Nat) : State := rcbAt place st (prt (base (rr 0#64 va 0#64)))
    let g (o : Out) : Option (W64 × W64 × Bool × Nat) := match o with | .next t => some ((t.thr t0).reg 1#5, (t.thr t0).pc, (t.thr t0).wait == .sched, (t.part 0).subs.length) | _ => none
    [g (exec i (s 0x8000#64 0 0)), g (exec i (s 0x8000#64 0 1)), g (exec i (s 0x8000#64 3 0))] == [some (0#64, 0x1000#64, true, 1), some (6#64, 0x1004#64, false, 0), some (1#64, 0x1004#64, false, 0)] &&
    pcAfter i (s 0x8020#64 0 0) == 0x8180#64 && pcAfter i ((s 0x8000#64 0 0).modThr t0 fun t => { t with kind := .rowH }) == 0x80C0#64) = true := by decide +kernel
def launchSt (place st : Nat) (va : Nat) : State :=
  let s := rcbAt place st (prt { base fun t => { t with wait := .sched, ph := { t.ph with aux := 3, len := 4 } } with launches := [(1, { testLaunch with slotBud := 0, spBud := 0, opBud := 0 })] })
  let u := s.setPart 0 { s.part 0 with subs := [⟨va, 0, 0, .thread t0 7, none, none, 0⟩] }
  evs .launchAccept EvArgs.zero (u.setCtx 0 0 { u.ctx 0 0 with dev := some ⟨0x8100, 0, 0, 0, 0, 0, 0, false, 2⟩ })
theorem wit_launch_accept : (let g (o : Out) : Option (W64 × W64 × Nat × Nat) := match o with | .next t => some ((t.thr t0).reg 3#5, (t.thr t0).pc, (t.part 0).subs.length, t.launches.length) | _ => none
    let a (p st : Nat) : Out := exec .launchAccept (launchSt p st 0x8000)
    [g (a 0 0), g (a 0 2), g (a 3 0)] == [some (0#64, 0x1004#64, 0, 2), some (6#64, 0x1004#64, 0, 1), some (1#64, 0x1004#64, 0, 1)] && gives (a 3 0) (fun t => hv t 0x8038 == 0x14) &&
    gives (a 0 0) (fun t => (t.launches.drop 1).map (fun l => (l.2.size, l.2.spGroup, l.2.opGroup, l.2.entry)) == [(5, 0x2000, 1, 0x1000#64)] && hv t 0x8038 == 1)) = true := by decide +kernel
/-- GROUP_PLACE of the launch above: the first group goes to die 0 (after 7), cluster 0, rows 0 and 1. -/
theorem wit_group_place : (let l : Launch := { testLaunch with size := 5, spGroup := 0x2000, opGroup := 1, next := 0, groups := 2, state := 1, narrow := true, dies := 255, slotBud := 0, spBud := 0, opBud := 0, args := 7#64, origin := .thread t0 7 }
    let s := evs .groupPlace EvArgs.zero (prt { base id with slots := [], groups := [], launches := [(3, l)] })
    (s.tryOrder 0).map (·.2.1) == [3] && (s.roomFor l 0 0).isSome && s.capsOk 0 0 (some 3) l.cost 1 false &&
    gives (exec .groupPlace s) (fun t => t.groups.map (fun g => (g.2.die, g.2.clu, g.2.row, g.2.n, g.2.live)) == [(0, 0, 0, 5, [0, 1, 2, 3, 4])] && (t.thr ⟨0, 0, 0, 0, 1⟩).live && (t.thr ⟨0, 0, 0, 0, 1⟩).reg 1#5 == 4#64 && (t.thr ⟨0, 0, 0, 0, 1⟩).reg 0#5 == 7#64 && (t.thr ⟨0, 0, 0, 0, 1⟩).pc == l.entry)) = true := by decide +kernel
theorem wit_launch_ends : (let l : Launch := { testLaunch with next := 1, done := 1, rcb := some 0x8000, origin := .thread t0 7 }
    let c (l : Launch) : Out := exec .launchComplete (evs .launchComplete { EvArgs.zero with n := 3 } (prt { base id with launches := [(3, l)] }))
    let w (g : Group) (v : W64) : Out := let s := prt (base id); exec .watchdogExpire (evs .watchdogExpire { EvArgs.zero with q := 1 } { (s.setCtx 0 0 { s.ctx 0 0 with wdog := v }) with groups := [(1, g)] })
    let ended (o : Out) : Option Bool := match o with | .next t => (t.grp 1).map (·.contained) | _ => none
    let ag (n : Nat) : Out := exec .agingTick (evs .agingTick EvArgs.zero (prt { base id with clk := n * 33000000, launches := [(3, { testLaunch with next := 0, prio := 4, size := 5 })] }))
    gives (c l) (fun t => (aget? t.launches 3).map (·.state) == some 3 && hv t 0x8038 == (3 + 2 ^ 32)) && gives (c { l with done := 0 }) (fun t => (aget? t.launches 3).map (·.state) == some 2) &&
    [ended (w { grp0 with wd := 65535 } 16#64), ended (w { grp0 with wd := 65536 } 16#64), ended (w { grp0 with wd := 65536 } 0#64)] == [some false, some true, some false] &&
    gives (ag 3) (fun t => (t.part 0).blocking == none) && gives (ag 4) (fun t => (t.part 0).blocking == some 3)) = true := by decide +kernel

/-! ### Faults, peers -/

def frec (k : Nat) (ti : Option SlotId) : FRec := ⟨k, (List.range 16).map (BitVec.ofNat 64), ti, 7⟩
/-- FaultsAndPeers: a ring of 32 records with room, full, and none; an engine's record and another. -/
theorem wit_fault_records : (let s (h : W64) (ring : W64) (q : List FRec) : State := let b := prt (base id); evs .faultRecordWrite EvArgs.zero (b.setCtx 0 0 { b.ctx 0 0 with fring := ring, fhead := h, recq := q })
    let g (o : Out) : Option (W64 × Nat × List Nat × List (Nat × Nat)) := match o with | .next t => some ((t.ctx 0 0).fhead, (t.ctx 0 0).recq.length, (t.ctx 0 0).dueAgent, (t.thr t0).due) | _ => none
    let w := exec .faultRecordWrite (s 1#64 0x8005#64 [frec 1 none])
    [g w, g (exec .faultRecordWrite (s 1#64 0x8005#64 [frec 2 (some t0)])), g (exec .faultRecordWrite (s 32#64 0x8005#64 [frec 1 none])), g (exec .faultRecordWrite (s 1#64 0#64 [frec 1 none])), g (exec .faultRecordWrite (s 1#64 0x8005#64 []))] ==
      [some (2#64, 0, [0x8080], []), some (2#64, 0, [], [(14, 0x8080)]), some (32#64, 1, [], []), some (1#64, 1, [], []), some (1#64, 0, [], [])] && gives w (fun t => hv t 0x80F8 == 15)) = true := by decide +kernel
theorem wit_containments : (let s := let b := prt { base id with launches := [(1, { testLaunch with done := 0 })] }; b.setPart 0 { b.part 0 with contQ := [(0x8000, 1)], poisonQ := [(1, 0, 0x500)] }
    gives (exec .containment (evs .containment EvArgs.zero s)) (fun t => (t.part 0).contQ == [] && hv t 0x8000 == 5) &&
    gives (exec .poisonConsumed (evs .poisonConsumed EvArgs.zero s)) (fun t => (t.part 0).poisonQ == [] && (t.grp 1).map (·.contained) == some true)) = true := by decide +kernel
/-- A peer's requests of a populated word and of one that is not; a full word and an empty one. -/
theorem wit_peers : (let b (full : Bool) : State := (words 0x9000 [6] (prt (base id))).setFull (linOfInter 0x9000) full
    let p (full : Bool) (r : PeerReq) : Out := exec .peerStreamArrive (evs .peerStreamArrive { EvArgs.zero with u := 3, n := 8, req := r } (b full))
    let a (o : Out) : Option (List (Nat × List W64)) := match o with | .next t => some t.toPeer | _ => none
    [a (p true (.load 0x9000 .d)), a (p true (.load 0xA000000000 .d)), a (p false (.fill 0x9000 5#64)), a (p true (.fill 0x9000 5#64)), a (p true (.take 0x9000)), a (p false (.take 0x9000)), a (p true (.peek 0x9000)), a (p true (.slctl 0x9000 false))] ==
      [some [(3, [8#64, 6#64])], some [(3, [8#64])], some [(3, [8#64, 0#64])], some [], some [(3, [8#64, 6#64])], some [], some [(3, [8#64, 6#64])], some [(3, [8#64, 0#64])]] &&
    gives (p true (.update 0x9000 .iadd .d false 5#64)) (fun t => match t.hvRead 0x9000 8 with | .ok v _ => v == 11 | _ => false) && gives (p true (.message 0x9000 2 9 [1#64])) (fun t => t.msgs.map (fun m => (m.chan, m.src)) == [(2, 9)])) = true := by decide +kernel
theorem wit_peer_answers : (let s (ti : Option SlotId) (r : PeerReq) (f : Thread → Thread) : State := { prt (base f) with peerq := [⟨5, 3, r, ⟨1, 7⟩, ti, 0x1000#64, true⟩] }
    let a (fl : Bool) (s : State) : Out := exec .peerAnswer (evs .peerAnswer { EvArgs.zero with q := 5, flag := fl, ws := [0x77#64] } s)
    gives (a true (s (some t0) (.load 0x9000 .d) fun t => { t with wait := .peer 5 .stays })) (fun t => t.peerq == [] && (t.thr t0).wait == .no && (t.thr t0).ph.ans == some [0x77#64]) &&
    gives (a true (s none (.update 0x9000 .iadd .d false 1#64) id)) (fun t => t.peerq == []) && gives (a false (s none (.update 0x9000 .iadd .d false 1#64) id)) (fun t => t.peerq.length == 1) &&
    gives (a true (s (some t0) (.message 0x9000 2 9 []) fun t => { t with copies := 1 })) (fun t => (t.thr t0).copies == 0) && gives (a false (s (some t0) (.message 0x9000 2 9 []) fun t => { t with copies := 1 })) (fun t => (t.ctx 0 0).recq.length == 1)) = true := by decide +kernel

/-! ### Sparing, ports, errors, host, boot, power -/

/-- SparingPortsErrors: commands of each kind, of another kind, and none. -/
theorem wit_sparing : (let s (c : Option Nat) : State := let b := prt { base id with clusters := [((0, 1), { rot := 0, xlat := [], gleaner := [], icache := [], reserved := false, phys := 1 }), ((0, 2), { rot := 0, xlat := [], gleaner := [], icache := [], reserved := true, phys := 2 })] }; b.setPart 0 { b.part 0 with spareCmd := c }
    let g (i : Instr) (k u sp : Nat) (fl : Bool) : Out := exec i (evs i { EvArgs.zero with flag := fl } (s (some (k + u * 2 ^ 6 + sp * 2 ^ 15))))
    let r (o : Out) : Option (Bool × Bool) := match o with | .next t => some ((t.part 0).spareCmd.isSome, (t.part 0).spareFailed) | _ => none
    gives (g .spareCluster 1 1 2 false) (fun t => (t.cluster 0 1).phys == 2 && (t.cluster 0 2).phys == 1 && (t.cluster 0 2).reserved) && r (g .spareCluster 1 1 2 true) == some (false, true) && gives (g .reserveCluster 2 1 0 false) (fun t => (t.cluster 0 1).reserved) && (s none).atBoundary 0 1 0 && (s none).atBoundary 0 1 1 &&
    gives (g .releaseCluster 3 2 0 false) (fun t => !(t.cluster 0 2).reserved) && gives (g .retirePseudoChannel 4 5 0 false) (fun t => (t.reed 5).retired) && gives (g .spareApplicationCore 5 3 0 false) (fun t => t.appSpared == [3]) &&
    r (g .reserveCluster 1 1 2 false) == some (true, false) && r (exec .spareCluster (evs .spareCluster EvArgs.zero (s none))) == some (false, false)) = true := by decide +kernel
theorem wit_ports : (let s (v : W64) (n : Nat) (fl : Bool) : State := { prt (base id) with cwport := List.replicate 24 v, cur := ⟨.event .laneFailure EvArgs.zero, 0#64, 0, { EvArgs.zero with q := 2, n := n, flag := fl }⟩ }
    let p (i : Instr) (v : W64) (n : Nat) : W64 := match exec i (s v n false) with | .next t => t.cwport.getD 2 0#64 | _ => 99#64
    [p .laneFailure 9#64 0, p .laneFailure 5#64 0, p .crcRetry 9#64 3, p .crcRetry 9#64 8, p .portRetrain 2#64 4, p .portRetrain 0x20#64 4] == [7#64, 2#64, 0x30009#64, 0x80000#64, 9#64, 0x39#64] &&
    gives (exec .portRetrain (s 0#64 0 false)) (fun t => (t.part 0).reach == [0#64, 0#64, 0#64])) = true := by decide +kernel
theorem wit_errors : (let g (site n : Nat) (fl : Bool) : Out := exec .eccError (evs .eccError { EvArgs.zero with q := site, n := n, flag := fl, u := 0x9000, ti := t0, run := .rick 0 } (withEnt (.rick 0) { ent .iadd false 5#64 with word := 0x9000 } (prt (base id))))
    gives (g 2 0 true) (fun t => t.poison == []) && gives (g 2 0 false) (fun t => t.isPoison (linOfInter 0x9000)) && gives (g 5 0 false) (fun t => (t.run (.rick 0)).ents.map (·.poison) == [wordOf 0x9000 == 0x9000]) && gives (g 1 1 false) (fun t => (t.run (.rick 0)).ents.length == 1) &&
    gives (g 1 0 false) (fun t => (t.half 0 0 0).spPois == [0x1200]) && gives (g 1 7 false) (fun t => (t.thr t0).halted && (t.part 0).poisonQ == [(1, 0, sramPa)])) = true := by decide +kernel
/-- HostBootPower, the windows: BAR2 writes and reads; FEADDR and FEDATA of an empty and a full word; ATTREQ; an update in a bridge's stream. -/
theorem wit_endpoint : (let b (s : State → State) : State := s (words 0x9000 [6] (prt (base id)))
    let g (i : Instr) (e : EvArgs) (s : State) : Out := exec i (evs i e s)
    gives (g .bar2Write { EvArgs.zero with u := 0x9001, n := 1, v := 0xAB#64 } (b id)) (fun t => match t.hvRead 0x9000 8 with | .ok v _ => v == 0xAB06 | _ => false) && gives (g .bar2Write { EvArgs.zero with u := 0xA000000000, n := 1 } (b id)) (fun t => t.runs == []) &&
    gives (g .bar2Read { EvArgs.zero with u := 0x9000, n := 8 } (b id)) (fun t => t.hostReads == [(0x9000, some 6#64)]) && gives (g .bar2Read { EvArgs.zero with u := 0xA000000000, n := 4 } (b id)) (fun t => t.hostReads == [(0xA000000000, none)]) &&
    gives (g .feaddr { EvArgs.zero with v := 0x9000#64 } (b id)) (fun t => t.feaddrReg == 0x9000#64) && gives (g .feaddr { EvArgs.zero with v := 0x9004#64 } (b id)) (fun t => t.feaddrReg == 0#64) &&
    gives (g .fedata { EvArgs.zero with v := 8#64 } { b id with feaddrReg := 0x9000#64 }) (fun t => t.feq == [] && t.isFull (linOfInter 0x9000) && t.mem.readN (linOfInter 0x9000) 8 == leBytes 8 8) &&
    gives (g .fedata { EvArgs.zero with v := 8#64 } { (b id).setFull (linOfInter 0x9000) true with feaddrReg := 0x9000#64 }) (fun t => t.feq == [(0x9000, 8#64)]) &&
    gives (g .attreq { EvArgs.zero with v := 0x9000#64 } (b id)) (fun t => t.attq == [(0, 0x9000, 2)]) && gives (g .attreq { EvArgs.zero with v := 0x9020#64 } (b id)) (fun t => t.attq == []) &&
    gives (g .attreq { EvArgs.zero with flag := true } { b id with attq := [(0, 0x9000, 2)], nvmNext := 2 ^ 20 }) (fun t => t.attq == [(0, 0x9000, 1)]) && gives (g .attreq { EvArgs.zero with flag := true } { b id with attq := [(0, 0x9000, 2)], nvmNext := 4 }) (fun t => t.attq == [(0, 0x9000, 7)] && t.nvmNext == 5) &&
    gives (g .hostUpdate EvArgs.zero { b id with hostq := [(0, [⟨1, 0x40, .smax, .d, false, 9#64, ⟨0, 0⟩, true, some 7⟩])], host := placed 0x40 (leBytes 8 7) }) (fun t => t.hostRead 0x40 8 == 9 && t.hostq == [(0, [])]) && gives (g .hostUpdate EvArgs.zero (b id)) (fun t => t.hostq == [])) = true := by decide +kernel
/-- HostBootPower: stage 2 and the stages' own conditions; power loss; the governor's budget, its half above 110 °C, the trip at 120 °C. -/
theorem wit_boot_power : (let b := { prt (base id) with nvmNext := 9, pwrcap := 900#64 }
    let g (i : Instr) (e : EvArgs) (s : State) : Out := exec i (evs i e s)
    let t (u n : Nat) : Option Bool := match g .governorTick { EvArgs.zero with u := u, n := n } b with | .next t => some t.throttle | _ => none
    gives (g .bootStage2 EvArgs.zero { b with boot := .stage2 }) (fun t => t.boot == .up) && gives (g .bootStage1 EvArgs.zero b) (fun t => t.boot == .up) && gives (g .powerLoss EvArgs.zero b) (fun t => t.nvmNext == 9 && t.slots == [] && t.boot == State.reset.boot) &&
    [t 1000 900, t 1000 901, t 1760 900, t 1761 451, t 1761 450] == [some false, some true, some false, some true, some false] && gives (g .thermalTrip { EvArgs.zero with u := 1919 } b) (fun t => t.boot == .up) && gives (g .thermalTrip { EvArgs.zero with u := 1920 } b) (fun t => t.boot == .tripped && t.slots == [])) = true := by decide +kernel

/-! ### Clauses on poison, waiting and resuming -/

/-- MatrixArrayAtWork: the head's other kinds and its poison; a poisoned row; a buffer in use; a tapped row; ROWDONE with a stream. -/
theorem wit_array_forms : (let go (i : Instr) (o : MOp) (f : Half → Half) : Out := let s := arrSt i [o]; exec i (s.setHalf 0 0 0 (f (s.half 0 0 0)))
    let q (o : Out) : List (Bool × List Nat × Bool) := match o with | .next t => (t.half 0 0 0).arr.queue.map fun o => (o.begun, o.rows, (t.thr t0).halted) | _ => [(true, [99], false)]
    let stopped (o : Out) : Bool := gives o fun t => (t.half 0 0 0).arr.queue == [] && (t.thr t0).halted
    let hd := Instr.arrayQueueHead
    let cfg (b : Byte) (h : Half) : Half := { h with opm := placed 8192 (b :: List.replicate 159 0#8) }
    let d (c : Bool) (n : Nat) : State := let s := arrSt .rowdone [{ mop 1 0#64 0#64 with begun := true, consumed := c, inFlight := some 1, bufUse := [1, 0], ready := if c then [] else [(4, 0, [])] }]; { s with slots := (⟨0, 0, 0, 0, 15⟩, { thr0 with kind := .rowH, uid := 8, flags := 5#9, loads := n }) :: s.slots, cur := ⟨.thread ⟨0, 0, 0, 0, 15⟩, 0x1000#64, 4, EvArgs.zero⟩ }
    stopped (go hd (mop 0 0#64 0#64) fun h => { h with opPois := [0] }) && stopped (go hd (mop 3 2#64 0x200#64) fun h => { h with spPois := [0x40] }) &&
    gives (go hd (mop 3 2#64 0x200#64) fun h => { h with sp := placed 0x200 (List.replicate 16 0#8) }) (fun t => (t.half 0 0 0).arr.curves.map (·.1) == [2] && (t.thr t0).wait == .no) &&
    q (go hd (mop 3 2#64 0x200#64) fun h => { h with sp := placed 0x200 ([0#8, 0#8, 0x80#8, 0x7F#8] ++ List.replicate 12 0#8) }) == [] && q (go hd (mop 1 0#64 0#64) id) == [] &&
    q (go hd (mop 2 (BitVec.ofNat 64 (0x900 + 2 ^ 40)) 0#64) (cfg 0#8)) == [(true, [0, 3], false)] && q (go hd (mop 2 (BitVec.ofNat 64 (2 ^ 40)) 0#64) (cfg 0#8)) == [] &&
    q (go hd (mop 2 (BitVec.ofNat 64 (0x900 + 2 ^ 40)) 0#64) (cfg 4#8)) == [] && stopped (go hd (mop 2 (BitVec.ofNat 64 (2 ^ 40)) 0#64) fun h => { cfg 0#8 h with opPois := [1024] }) &&
    stopped (go .rowEntry { mop 1 0x900#64 0#64 with begun := true, rows := [0, 3] } fun h => { h with opPois := [0] }) && stopped (go .rowEntry { mop 1 0x920#64 0#64 with begun := true, rows := [0, 3] } fun h => { h with arr := { h.arr with bad := [(2, 0)] } }) &&
    q (go .rowReady { mop 1 0x940#64 0#64 with hentry := 2#64, begun := true, out := [(3, [], [])], bufUse := [0] } id) == [(true, [], false)] &&
    gives (go .rowReady { mop 1 0x940#64 0#64 with hentry := 2#64, begun := true, out := [(3, List.replicate 128 5, [])] } id) (fun t => t.spRead 1 508 4 == leBytes 4 5 && (t.half 0 0 0).arr.queue.map (fun o => (o.ready, o.bufUse)) == [([(3, 0, [])], [0])]) &&
    gives (go .rowHandlerDispatch { mop 2 (BitVec.ofNat 64 (0x940 + 2 ^ 45)) 0x100#64 with hentry := 0x4000#64, begun := true, ready := [(3, 0, [7])], cfg := List.replicate 160 2#8 } fun h => { h with held := [] }) (fun t => (t.thr ⟨0, 0, 0, 0, 15⟩).live && (t.half 0 0 0).opm.length == 4) &&
    gives (exec .rowdone (d true 0)) (fun t => (t.half 0 0 0).arr.queue == [] && (t.thr t0).flags == 5#9 && (t.thr t0).tiles == 0) &&
    gives (exec .rowdone (d false 0)) (fun t => (t.half 0 0 0).arr.queue.map (fun o => (o.inFlight, o.bufUse)) == [(none, [0])]) && gives (exec .rowdone (d true 1)) (fun t => (t.thr ⟨0, 0, 0, 0, 15⟩).live)) = true := by decide +kernel
/-- TrapReturn and the statements on scratchpad: an odd SYS.TPC; poison read by loads, vector sources, masks and indices, OFILL both ways, FERRY's and TISSUE's kind of source. -/
theorem wit_poisoned_reads : (let caught (i : Instr) (s : State) (sp op : List Nat) : Bool := gives (exec i (s.setHalf 0 0 0 { s.half 0 0 0 with spPois := sp, opPois := op })) fun t => (t.thr t0).halted && (t.part 0).poisonQ == [(1, 0, sramPa)]
    let o (d : W64) : State := { base (rr d 0x40#64 64#64) with groups := [(1, grpC [0, 1])] }
    let v := b4 (rr 0#64 0x2000#64 0#64)
    (let u := base fun t => { t with sup := true, tstat := 4#64, tpc := 0x2001#64 }; gives (exec .tret u) fun t => t == u.takeTrap tIAlign 0 0x2001#64) &&
    caught (.ld .d true false no 1#5 2#5 0#64) (at2 0xFFF8#64) [0x1FFF] [] && !caught (.ld .d true false no 1#5 2#5 0#64) (at2 0xFFF8#64) [0x1FFE] [] &&
    caught (.vadd .i8 .rne false p3 p1 p2) v [0x20] [] && !caught (.vadd .i8 .rne false p3 p1 p2) v [0x60, 0xE0] [] && caught (.vadd .i8 .rne true p3 p1 p2) v [0xE0] [] &&
    caught (.vcmplt .i8 false p3 p1 p2) v [0x40] [] && caught (.vld .b true p3 2#5) v [0xE0] [] && !caught (.vld .b false p3 2#5) v [0x60] [] && caught (.vgath .b false p3 p1 2#5) v [0x20] [] &&
    caught (.ofill 1#5 2#5 3#5) (o 0#64) [8] [] && caught (.ofill 1#5 2#5 3#5) (o 0x80#64) [] [0] && !caught (.ofill 1#5 2#5 3#5) (o 0x80#64) [8] []) = true := by decide +kernel
/-- COPYM's group (R257): not valid, a member out of reach, a held word of the table, and a valid one. A stop that is reported at the end. -/
theorem wit_multicast_group : (let s (ms : List Nat) : State := { cpy 0x4000000008#64 0#64 0x2000#64 0#64 with mem := Memory.writeN (Memory.writeN [] (linOfInter 0x6010) (leBytes 8 3 ++ leBytes 8 0x7000)) (linOfInter 0x7000) (ms.flatMap (leBytes 8)), parts := [(0, { Part.zero with pdies := 0xFF#8, mctab := 0x6000#64 })] }
    let i : Instr := .copym 4#5 2#5 3#5
    let m := { cop 8#64 0x2000#64 0x3000#64 0 0 with multi := true, stop := some (5, 0#64, 0x2000#64), await := [1] }
    (s [0, 0x1000]).groupOf 0 1 8 == .ok [(0, 0)] && gives (exec i (s [0, 0x1000])) (fun t => t.copies.map (fun c => (c.multi, c.await)) == [(true, [0])]) &&
    (s [0, 7]).groupOf 0 1 8 == .invalid && (s [5 * 2 ^ 40, 0x1000]).groupOf 0 1 8 == .unreach && pcAfter i (s [5 * 2 ^ 40, 0x1000]) == 0x8200#64 &&
    (withEnt (.rick 1) { ent .iadd true 5#64 with word := 0xE00 } (s [0, 0x1000])).groupOf 0 1 8 == .held && pcAfter i (withEnt (.rick 1) { ent .iadd true 5#64 with word := 0xE00 } (s [0, 0x1000])) == 0x1000#64 &&
    gives (exec .copymMemberAnswer (cpe .copymMemberAnswer m { EvArgs.zero with u := 1 })) (fun t => t.copies == [] && (t.ctx 0 0).recq.length == 1)) = true := by decide +kernel
/-- Winnow: keys at 2^56; a region staged, replayed, and staged with a poisoned word. -/
theorem wit_winnow_stages : (let s (d a t : W64) : State := base (rr d a t)
    let go (o : WinOp) (f : Die → Die) : Out := let w := wst o 1 (2 ^ 40 + 3) []; exec .winnowComplete (w.setDie 0 (f (w.die 0)))
    let o := wop 1 2#64 0#64 0x4000#64 0
    [pcAfter (.wbin 1#5 2#5 3#5) (s 1#64 16#64 0x100000000000000#64), pcAfter (.wreplay 1#5 2#5 3#5) (s 1#64 0#64 0x100000000000000#64), pcAfter (.wclass 1#5 2#5 3#5) (s 1#64 0x100000000000000#64 0#64), pcAfter (.wclass 1#5 2#5 3#5) (s 1#64 4#64 0x100000000000000#64)] ==
      [0x81C0#64, 0x81C0#64, 0x81C0#64, 0x81C0#64] && gives (go o id) (fun t => t.winnow.map (fun w => (w.pos, w.staged)) == [(0, some 1)]) &&
    gives (go { o with staged := some 1 } id) (fun t => t.winnow.map (·.pos) == [1] && t.mem.readN (linOfInter 0x4048) 4 == leBytes 4 0) && gives (go { o with staged := some 1 } fun d => { d with loftBad := [0] }) (fun t => t.winnow == [] && (t.thr t0).halted)) = true := by decide +kernel
/-- Tilth: records copied at the first attempt; poison in the records and in the block of a RESUME; records passed over, tiles already done, the fault's PART. -/
theorem wit_tissue_resumes : (let i : Instr := .tissue 1#5 2#5 3#5
    let s (c : W64) (b : Byte) (p : List Nat) : State := let u := tis 0x1000#64 0x400#64 c; u.setHalf 0 0 0 { u.half 0 0 0 with sp := placed 0x400 (b :: List.replicate 159 0#8) ++ placed 0x1000 (List.replicate 32 0#8), spPois := p }
    let caught (o : Out) : Bool := gives o fun t => (t.thr t0).halted && t.tissues == []
    let rs (o : Out) : List (List (List W64) × Bool) := match o with | .next t => t.tissues.map fun v => (v.recs, v.resume.isSome) | _ => []
    let st (u : Tissue) : Out := exec .recordStart (tst .recordStart EvArgs.zero u)
    let fw (rx : W64) : State := evs .recordForward { EvArgs.zero with u := 5, n := 6, req := .record [0x4005#64, 0#64, 0#64, 0#64] (some (3, 4, [(1, 2)])) } { base id with parts := [(0, { Part.zero with pdies := 0xFF#8, rxctx := rx })] }
    caught (exec i (s 1#64 0#8 [0x200])) && !caught (exec i (s 1#64 0#8 [0x80])) && caught (exec i (s 0x81#64 0x80#8 [0x80])) && rs (exec i (s 0x81#64 0x80#8 [])) == [([List.replicate 4 0#64], true)] &&
    rs (exec i ((s 1#64 0#8 [0x200]).modThr t0 fun t => { t with ph := { t.ph with copied := List.replicate 20 0#64 ++ [8#64, 0#64, 0#64, 0#64] } })) == [([[8#64, 0#64, 0#64, 0#64]], false)] &&
    gives (st { tsu rec5 0 [] with resume := some (1, [], 0, 0) }) (fun t => t.tissues.map (fun u => (u.st, u.idx)) == [(0, 1)]) &&
    gives (st { tsu rec5 0 [] with resume := some (0, [(0, 0), (0, 0), (1, 0)], 0, 0) }) (fun t => t.tissues.map (fun u => (u.st, u.dies.map (·.done))) == [(1, [[], [], [0], [], [], [], [], []])]) &&
    gives (exec .recordForward (fw 2#64)) (fun t => t.tissues.map (·.resume) == [some (0, [(1, 2)], 3, 4)])) = true := by decide +kernel
/-- PAGE_WALK through a table of three levels: the page it finds answers every waiter it covers; a held and a poisoned entry of it; no walk of ev's page. -/
theorem wit_walk_finds : (let t : Memory := Memory.writeN (Memory.writeN (Memory.writeN [] (linOfInter 0x10000) (leBytes 8 0x11001)) (linOfInter 0x11000) (leBytes 8 0x12001)) (linOfInter 0x12000) (leBytes 8 0x1F)
    let s : State := { evs .pageWalk { EvArgs.zero with u := 5 } (base fun t => { t with wait := .walk 6 }) with mem := t, dies := [(0, { Die.zero with walks := [⟨0, 5, [t1], []⟩, ⟨0, 6, [t0], []⟩] })], ctxs := [((0, 0), { Ctx.zero with ptact := 0x10001#64 })] }
    let w (s : State) : Nat := match s.walk 0 0 5 with | .page e _ => 10 + e.size | .fault => 0 | .wait _ => 1 | .poison _ => 2
    let h := withEnt (.rick 0) { ent .iadd true 5#64 with word := 0x2000 } s
    let p := s.setPoison (linOfInter 0x11000) true
    [w s, w h, w p] == [28, 1, 2] && gives (exec .pageWalk s) (fun t => (t.die 0).walks == [] && (t.thr t0).wait == .no && (t.die 0).l2.map (·.size) == [18] && (t.cluster 0 0).xlat.map (·.size) == [18]) &&
    gives (exec .pageWalk h) (fun t => t == h) && gives (exec .pageWalk p) (fun t => (t.die 0).walks.map (·.vpn) == [6]) && gives (exec .pageWalk { s with cur := ⟨.event .pageWalk EvArgs.zero, 0#64, 0, EvArgs.zero⟩ }) (fun t => (t.die 0).walks.length == 2)) = true := by decide +kernel
/-- CTXSW while a context is saved; SAVECTX behind a switch, behind another save; an area that does not translate, first waiting for its walk; LOADCTX of an area with nothing to bring but its context. -/
theorem wit_saves_in_turn : (let s : State := { supr 0#64 0x10000#64 1#64 id with launches := [(2, { testLaunch with ctx := 1, state := 2 })], copies := [{ cop 8#64 0#64 0#64 0 0 with ctx := 1 }] }
    let i : Instr := .savectx 1#5 2#5 3#5
    let l : Instr := .loadctx 1#5 2#5 3#5
    let cmd (m : CtxCmd) (s : State) : State := s.setPart 0 { s.part 0 with cmds := [m] }
    let busy (t : SlotId) (s : State) : State := cmd ⟨t, none, [], 0⟩ s
    let sw := cmd ⟨t1, some 1, [(0, 1)], 0⟩ s
    let rdy : State := { supr 0#64 0x10000#64 1#64 (fun t => { t with ph := { t.ph with stage := 1 } }) with launches := [(2, { testLaunch with ctx := 1, state := 2 })], dies := [] }
    let lost (s : State) : State := s.setDie 0 { s.die 0 with failed := [(7, 0, 16, none)] }
    let sv : Saved := { ctx := 1, p := 0, base := 0x10000, slots := [], halves := [], groups := [], tissues := [], binds := [], ents := [], items := [], launches := [2] }
    let ld : State := words 0x10000 [1, 1, 0xFF, 0, 0] ({ s with copies := [], savedCtx := [sv], parts := [(0, { Part.zero with pdies := 0xFF#8 })], ctxs := [((0, 1), { Ctx.zero with saved := true, halted := true })] })
    pcAfter (.ctxsw 1#5 2#5 3#5) (busy t1 (supr 0#64 8#64 1#64 id)) == 0x1000#64 && s.saveBlocked 0 == false && sw.saveBlocked 0 && gives (exec i (busy t1 s)) (fun t => !(t.ctx 0 1).halted) && gives (exec i sw) (fun t => !(t.ctx 0 1).halted) &&
    gives (exec i s) (fun t => (t.part 0).cmds == [⟨t0, none, [], 0⟩] && (t.ctx 0 1).halted) &&
    rdy.saveReady 0 1 && rdy.ctxMerged 0 1 && (match rdy.areaScan 7 0 0 0 .write (State.freePage 0 0) 0x10000 0 2 with | .error (0, .wait _) => true | _ => false) && gives (exec i rdy) (fun t => (t.thr t0).pc == 0x1000#64 && (t.die 0).walks.map (·.units) == [[7]]) &&
    gives (exec i (lost rdy)) (fun t => (t.thr t0).pc == 0x1004#64 && (t.ctx 0 0).recq.length == 1) &&
    gives (exec l ld) (fun t => (t.thr t0).pc == 0x1004#64 && t.savedCtx == [] && !(t.ctx 0 1).halted && !(t.ctx 0 1).saved)) = true := by decide +kernel
/-- A host page that a cached translation of everything maps to itself. -/
theorem host_page {s : State} {u : Nat} (hr : (s.die 0).ranges = []) (hl : (s.die 0).l2 = [identX]) (va : Nat) (h : va < 2 ^ 56) : s.xlatePart u 0 0 va .write true = .ok va s := by
  have hc : identX.covers 0 (va / 4096) = true := by
    have : (va / 4096) / 2 ^ 44 = 0 := Nat.div_eq_of_lt (by omega)
    show (true && (0 / 2 ^ 44 == va / 4096 / 2 ^ 44)) = true
    rw [this]; rfl
  have hk : cacheLook (s.die 0).l2 0 va = .hit (identX.mapped va) := by
    rw [hl]; unfold cacheLook List.find?; rw [hc]
  have hm : (identX.mapped va).pa = va := by
    show 0 * 4096 + va % (4096 * 2 ^ 44) = va
    rw [Nat.mod_eq_of_lt (by omega)]; omega
  unfold State.xlatePart State.xlateFrom State.rangeLook
  rw [hr, if_neg (by omega)]
  simp only [aget?, hk]
  show XR.ok (identX.mapped va).pa s = _
  rw [hm]
/-- An address of a root complex's host memory. -/
theorem host_class (s : State) {pa : Nat} (h1 : 0x4000000000000 ≤ pa) (h2 : pa < 0x4100000000000) : s.classify 0 pa = .host ((pa - 0x4000000000000) / 2 ^ 44) (pa - 0x4000000000000) := by
  have hl : linOf pa = none := by
    unfold linOf bankBase
    rw [if_neg (by omega), if_neg (by omega)]
  unfold State.classify
  simp only [hl]
  rw [if_neg (by omega), if_pos (by omega)]
/-- Bytes of host memory stand at once. -/
theorem host_stand : ∀ (bs : List Byte) (s : State) (pa : Nat), 0x4000000000000 ≤ pa → pa + bs.length ≤ 0x4100000000000 → ∃ t, s.sysStand 0 0 pa bs = some t ∧ t.dies = s.dies
  | [], s, _, _, _ => ⟨s, rfl, rfl⟩
  | b :: bs, s, pa, h1, h2 => by
    simp only [List.length_cons] at h2
    obtain ⟨t, e, d⟩ := host_stand bs (s.hostWriteB (pa - 0x4000000000000) [b]) (pa + 1) (by omega) (by omega)
    refine ⟨t, ?_, d⟩
    unfold State.sysStand State.sysByte
    rw [host_class s h1 (by omega)]
    exact e
theorem host_words : ∀ (l : List Nat) (s : State) (pa : Nat), 0x4000000000000 ≤ pa → (∀ i ∈ l, i < 512) → pa + 4096 ≤ 0x4100000000000 →
    ∃ t, l.foldlM (fun (s : State) i => s.freeWordAt 0 0 (pa + 8 * i)) s = some t ∧ t.dies = s.dies
  | [], s, _, _, _, _ => ⟨s, rfl, rfl⟩
  | i :: l, s, pa, h1, hi, h2 => by
    have := hi i (by simp)
    obtain ⟨t, e, d⟩ := host_stand (leBytes 8 (Config.freeWord s.frees).toNat) ({ s with frees := s.frees + 1 } : State) (pa + 8 * i) (by omega) (by rw [length_leBytes]; omega)
    obtain ⟨u, e', d'⟩ := host_words l t pa h1 (fun j hj => hi j (by simp [hj])) h2
    refine ⟨u, ?_, d'.trans d⟩
    rw [List.foldlM_cons]
    show (State.freeWordAt s 0 0 (pa + 8 * i)).bind _ = _
    unfold State.freeWordAt
    rw [e]; exact e'
theorem host_page_words (s : State) (pa : Nat) (h1 : 0x4000000000000 ≤ pa) (h2 : pa + 4096 ≤ 0x4100000000000) : ∃ t, State.freePage 0 0 s pa = some t ∧ t.dies = s.dies := by
  unfold State.freePage
  exact host_words (List.range 512) s pa h1 (fun i h => (List.mem_range (m := i) (n := 512)).1 h) h2
theorem page_room {va i n b : Nat} (h : va + 4096 * (i + (n + 1)) ≤ b) : va + 4096 * i + 4096 ≤ b ∧ va + 4096 * (i + 1 + n) ≤ b := by omega
theorem host_area : ∀ (n i va u : Nat) (s : State), (s.die 0).ranges = [] → (s.die 0).l2 = [identX] → 0x4000000000000 ≤ va → va + 4096 * (i + n) ≤ 0x4100000000000 →
    ∃ t, s.areaScan u 0 0 0 .write (State.freePage 0 0) va i n = .ok t ∧ t.dies = s.dies
  | 0, _, _, _, s, _, _, _, _ => ⟨s, rfl, rfl⟩
  | n + 1, i, va, u, s, hr, hl, h1, h2 => by
    have a1 : 0x4000000000000 ≤ va + 4096 * i := Nat.le_trans h1 (Nat.le_add_right va _)
    have a2 : va + 4096 * i + 4096 ≤ 0x4100000000000 := (page_room h2).1
    have a3 : va + 4096 * (i + 1 + n) ≤ 0x4100000000000 := (page_room h2).2
    obtain ⟨t, e, d⟩ := host_page_words s (va + 4096 * i) a1 a2
    have dd : t.die 0 = s.die 0 := by unfold State.die; rw [d]
    obtain ⟨v, e', d'⟩ := host_area n (i + 1) va u t (by rw [dd]; exact hr) (by rw [dd]; exact hl) h1 a3
    refine ⟨v, ?_, d'.trans d⟩
    unfold State.areaScan
    rw [host_page hr hl _ (by omega)]
    have ha : s.areaAt 0 (va + 4096 * i) = true := by
      unfold State.areaAt
      rw [host_class s a1 (by omega)]
    simp only [ha, if_true, e]
    exact e'
def saveSt : State := { supr 0#64 0x4000000000000#64 1#64 (fun t => { t with ph := { t.ph with stage := 1 } }) with launches := [(2, { testLaunch with ctx := 1, state := 2 })], dies := [(0, { Die.zero with l2 := [identX] })] }
/-- SAVECTX of a context that is ready, into an area of host memory that translates. -/
theorem wit_savectx_area : saveSt.saveReady 0 1 = true ∧ saveSt.ctxMerged 0 1 = true ∧ ∃ u t, saveSt.release .dev false = .ok u ∧ entsFit (u.savedEnts 0 1) 0 = true ∧
    u.areaScan 7 0 0 0 .write (State.freePage 0 0) 0x4000000000000 0 (969 * 256) = .ok t ∧ t.xlatePart 7 0 0 0x4000000000000 .write true = .ok 0x4000000000000 t := by
  refine ⟨by decide +kernel, by decide +kernel, ?_⟩
  have h : (match saveSt.release .dev false with | .ok u => (u.die 0).ranges == [] && (u.die 0).l2 == [identX] && entsFit (u.savedEnts 0 1) 0 | _ => false) = true := by decide +kernel
  match hr : saveSt.release .dev false with
  | .ok u =>
    simp only [hr, Bool.and_eq_true, beq_iff_eq] at h
    obtain ⟨t, e, d⟩ := host_area (969 * 256) 0 0x4000000000000 7 u h.1.1 h.1.2 (by omega) (by omega)
    have dd : t.die 0 = u.die 0 := by unfold State.die; rw [d]
    exact ⟨u, t, rfl, h.2, e, host_page (by rw [dd]; exact h.1.1) (by rw [dd]; exact h.1.2) _ (by omega)⟩
  | .error e => simp [hr] at h

/-- Firmware: a further write behind one that waits; a start that waits on a held descriptor word; PDIES of a die that none keeps, and ports; a window write that waits and is tried again. -/
theorem wit_firmware_waits : (let i : State := prt { base id with slots := [], groups := [] }
    let g (c : Instr) (e : EvArgs) (s : State) : Out := exec c (evs c e s)
    let q1 : List (Nat × W64 × Nat) := [(0x80, 1#64, 0)]
    let len (o : Out) : Nat := match o with | .next t => t.winq.length | _ => 9
    let held := withEnt (.rick 0) { ent .iadd true 5#64 with word := 0x8000 } i
    let two : State := { i with parts := [(0, { Part.zero with pdies := 0x0F#8, ports := 0xFFFFFF#24 }), (4, { Part.zero with pdies := 0xF0#8 })], cwport := lset i.cwport 5 9#64, planes := lset i.planes 5 [0x10#64, 0#64, 2#64] }
    len (g .qctlStart EvArgs.zero { i with winq := q1 }) == 2 && len (g .qctlStop EvArgs.zero { i with winq := q1 }) == 2 && len (g .devrcbWrite EvArgs.zero { i with winq := q1 }) == 2 && len (g .cellstoreWrite EvArgs.zero { i with winq := q1 }) == 2 && len (g .pdiesWrite EvArgs.zero { i with winq := q1 }) == 2 &&
    homeOf 0x8000 == 0 && len (g .qctlStart EvArgs.zero held) == 1 && len (g .sysWindowAccess { EvArgs.zero with n := 1 } { held with winq := [(winAt 0 0 67, 0#64, 0)] }) == 1 && len (g .sysWindowAccess { EvArgs.zero with n := 1 } { i with winq := q1 }) == 0 && len (g .sysWindowAccess { EvArgs.zero with u := 0x80, flag := true } { i with winq := q1 }) == 2 &&
    len (g .sysWindowAccess { EvArgs.zero with n := 1 } i) == 0 && len (g .sysWindowAccess { EvArgs.zero with u := 0x80 } { i with winq := q1 }) == 1 && !gives (g .sysWindowAccess { EvArgs.zero with u := 0x80 } { i with winq := q1 }) (fun t => t.hostReads != []) &&
    i.emptied 0 0x0F#8 && gives (g .pdiesWrite { EvArgs.zero with v := 0x0F#64 } i) (fun t => (t.part 0).pdies == 0x0F#8 && (t.part 4).pdies == 0xF0#8) &&
    gives (g .pdiesWrite { EvArgs.zero with v := 0x03#64 } two) (fun t => (t.part 0).pdies == 0x03#8 && (t.part 2).pdies == 0x0C#8 && (t.part 4).pdies == 0xF0#8) &&
    gives (g .pdiesWrite { EvArgs.zero with p := 4, v := 0x20#64, flag := true } two) (fun t => (t.part 4).ports == 0x20#24 && (t.part 0).ports == 0xFFFFDF#24 && (t.part 4).reach == [0x10#64, 0#64, 2#64] && (t.part 0).reach == [0#64, 0#64, 0#64])) = true := by decide +kernel
/-- CommandQueues: a token at a peer's key, asked for once; a signal at a peer's key; a COPYM entry's group; a SEND to a peer; an entry that failed keeps a MARK from completing. -/
theorem wit_queue_peers : (let pk : Nat := 0x8000000000000 + 5 * 2 ^ 40 + 0x9000
    let up (s : State) : State := { prt s with parts := [(0, { Part.zero with pdies := 0xFF#8, qtab := 0x40000#64, reach := [0x20#64, 0#64, 0#64], mctab := 0x6000#64 })] }
    let x (typ : Nat) (tok : Bool) (w : List Nat) : State := up (withQ { que typ with cur := some (0, w.map (BitVec.ofNat 64)), tokOk := tok } (base id))
    let go (i : Instr) (s : State) : Out := exec i (evs i EvArgs.zero s)
    let tp := x 1 false [5, pk, 4, 0, 0, 0, 0]
    let grp (ms : List Nat) (s : State) : State := words 0x7000 ms (words 0x6010 [3, 0x7000] s)
    let cm (ms : List Nat) : Out := go .cmdCopy (grp ms (words 0x9000 [8 + 2 ^ 38, 0, 0x1000, 0] (x 2 true [2, 0, 0, 0, 0x9000, 0, 0])))
    let e (es : List QEnt) : Out := go .entryCompleteSignal (up (withQ { que 1 with head := 1, ents := es, rels := [(0, 5)] } (base id)))
    gives (go .tokenPoll tp) (fun t => t.peerq.map (fun r => (r.dev, r.req)) == [(5, .load 0x9000 .d)] && gives (go .tokenPoll t) (fun u => u.peerq.length == 1)) && qOf (go .tokenPoll (words 0x9000 [4] (x 1 false [5, 0x9001, 4, 0, 0, 0, 0]))) == some (2, 0, true, false, 0) &&
    gives (e [⟨0, 1, pk, 0, true⟩]) (fun t => t.peerq.map (fun r => r.req) == [.update 0x9000 .iadd .d false 1#64] && (t.queue 0 0).map (·.ents.length) == some 1 &&
      gives (exec .entryCompleteSignal { t with peerAns := [(partReader 9 0, .update 0x9000 .iadd .d false 1#64, [0#64])] }) (fun u => (u.queue 0 0).map (·.ents) == some [])) &&
    gives (go .entryCompleteSignal { up (withQ { que 1 with head := 1, ents := [⟨0, 1, 0x4000000000100, 0, true⟩], rels := [(0, 5)] } (base id)) with host := placed 0x100 (leBytes 8 4) }) (fun t => t.hostRead 0x100 8 == 5 && (t.queue 0 0).map (·.ents) == some []) &&
    gives (cm [0, 0x1000]) (fun t => t.copies.map (fun c => (c.multi, c.await)) == [(true, [0])]) && qOf (cm [0, 7]) == some (2, 0, true, false, 0) && qOf (cm [6 * 2 ^ 40, 0x1000]) == some (2, 0, true, false, 0) &&
    gives (go .cmdSend (words 0x9000 [1, 2, 3, 4, 5, 6, 7, 8] (x 3 true [4, 0, 0, 0, pk, 2, 0x9000]))) (fun t => t.peerq.map (fun r => r.dev) == [5] && (t.queue 0 0).map (·.head) == some 1) &&
    qOf (e [⟨0, 5, 0, 0, false⟩]) == some (1, 1, false, false, 0) && (match e [⟨0, 6, 0, 0, false⟩] with | .next t => (t.queue 0 0).map (·.ents.length) == some 1 | _ => false)) = true := by decide +kernel
/-- LaunchesAndGroups: LAUNCH at its second stage; the turn within a level; an RCB that no longer translates, from a thread, a queue and a record; a contained thread's submission; a full table. -/
theorem wit_submissions : (let sub (a : Nat) (o : Origin) : Sub := ⟨a, 0, 0, o, none, none, 5⟩
    let st (l : List Sub) (f : State → State) : State := let b := launchSt 0 0 0x8000; f (b.setPart 0 { b.part 0 with subs := l })
    let tw (s : State) : State := { s with queues := [((0, 3), que 1), ((0, 5), que 1)] }
    let went (o : Out) : List Nat := match o with | .next t => (t.part 0).subs.map (·.va) | _ => [99]
    let far : Nat := 2 ^ 56
    went (exec .launchAccept (st [sub 1 (.queue 0 3 0), sub 2 (.queue 0 5 0)] fun s => (tw s).setPart 0 { (tw s).part 0 with subs := [sub 1 (.queue 0 3 0), sub 2 (.queue 0 5 0)], qturn := [(0, 3)] })) == [1] &&
    went (exec .launchAccept (st [sub 1 (.queue 0 3 0), sub 2 (.queue 0 5 0)] tw)) == [2] &&
    gives (exec .launchAccept (st [sub far (.thread t0 7)] id)) (fun t => (t.thr t0).reg 3#5 == 4#64 && (t.thr t0).wait == .no && (t.part 0).subs == []) &&
    gives (exec .launchAccept (st [sub far (.queue 0 3 0)] tw)) (fun t => (t.queue 0 3).map (fun q => (q.state, q.stop)) == some (2, true)) && gives (exec .launchAccept (st [sub far (.record 0 3 0)] tw)) (fun t => (t.queue 0 3).map (·.state) == some 2) &&
    gives (exec .launchAccept (st [sub 0x8000 (.thread t0 8)] id)) (fun t => (t.part 0).subs == [] && t.launches.length == 1) && gives (exec .launchAccept (st [] id)) (fun t => (t.part 0).subs == []) &&
    gives (exec .launchAccept (st [sub 0x8000 (.record 0 3 0)] tw)) (fun t => t.launches.length == 2 && (t.queue 0 3).map (·.head) == some 1 && hv t 0x8038 == 0) &&
    gives (exec (.launch 1#5 2#5) (prt (base fun t => { rr 0#64 0x8000#64 0#64 t with ph := { t.ph with stage := 2, aux := 2 ^ 48 } }))) (fun t => (t.thr t0).wait == .sched && (t.part 0).subs.length == 1)) = true := by decide +kernel
/-- LaunchesAndGroups: GROUPS_DONE as groups end; a group whose update still stands short; the group placed flushes its die's granary; a blocking launch that stays. -/
theorem wit_groups_done : (let l : Launch := { testLaunch with next := 1, done := 1, groups := 2, rcb := some 0x8000, origin := .thread t0 7, endQ := [1] }
    let c (l : Launch) (f : State → State) : Out := exec .launchComplete (evs .launchComplete { EvArgs.zero with n := 3 } (f (prt { base id with launches := [(3, l)], groups := [(1, { grp0 with ended := true })] })))
    let short := withEnt (.sheaf 0 0 0) { ent .iadd false 5#64 with owners := [⟨3, 2⟩] }
    let b (s : State) : Out := exec .agingTick (evs .agingTick EvArgs.zero (let p := prt { s with clk := 8 * 33000000, launches := [(3, { testLaunch with next := 0, prio := 4, size := 5 }), (4, { testLaunch with next := 0, prio := 0, size := 5 })] }; p.setPart 0 { p.part 0 with blocking := some 4 }))
    gives (c l id) (fun t => (aget? t.launches 3).map (fun y => (y.seen, y.endQ)) == some (1, []) && hv t 0x8038 == 2 + 2 ^ 32) && gives (c { l with rcb := none } id) (fun t => (aget? t.launches 3).map (·.seen) == some 1) &&
    gives (c { l with endQ := [] } id) (fun t => (aget? t.launches 3).map (·.seen) == some 0) && (short (base id)).groupShort 1 && gives (c l short) (fun t => (aget? t.launches 3).map (·.seen) == some 0) && gives (c { l with state := 3 } id) (fun t => (aget? t.launches 3).map (·.seen) == some 0) &&
    gives (b (base id)) (fun t => (t.part 0).blocking == some 4)) = true := by decide +kernel
/-- FaultsAndPeers: the error log's queue with and without a log; SRAM and HBM poison consumed; a peer's requests that wait, one withdrawn, whole words, a load behind an update, a message behind one; answers to a queue. -/
theorem wit_peer_waits : (let ev (i : Instr) (e : EvArgs) (s : State) : Out := exec i (evs i e s)
    let b : State := prt (base id)
    let lg (el : W64) : Out := ev .faultRecordWrite { EvArgs.zero with flag := true } (b.setPart 0 { b.part 0 with elog := el, errQ := [List.replicate 8 3#64] })
    let pq (pa : Nat) : Out := ev .poisonConsumed EvArgs.zero (b.setPart 0 { b.part 0 with poisonQ := [(1, 0, pa)] })
    let p (r : PeerReq) (s : State) : Out := ev .peerStreamArrive { EvArgs.zero with u := 3, n := 8, req := r } s
    let m := words 0x9000 [6] b
    let mine : Entry := { ent .iadd false 5#64 with word := 0x1200, owners := [⟨4 * 2 ^ 64 + 7, 0⟩] }
    let sent (s : State) : State := s.sendZero 4 mine
    let waits (o : Out) : List PeerReq := match o with | .next t => (t.dies.flatMap fun d => d.2.peerWait).map (·.req) | _ => []
    let qo := queueOwner 0 0 0
    let an (fl : Bool) (r : PeerReq) : Out := ev .peerAnswer { EvArgs.zero with q := 5, flag := fl, ws := [9#64] } { prt (withQ { que 1 with cur := some (0, [5#64, 0x9000#64, 4#64, 0#64, 0#64, 0#64, 0#64]), ents := [⟨0, 4, 0, 0, false⟩] } (base id)) with peerq := [⟨5, 3, r, qo, none, 0#64, true⟩] }
    gives (lg 0x8005#64) (fun t => (t.part 0).errQ == [] && (t.part 0).ehead == 1#64 && hv t 0x8000 == 3) && gives (lg 0#64) (fun t => (t.part 0).errQ == [] && (t.part 0).ehead == 0#64) && gives (ev .faultRecordWrite { EvArgs.zero with flag := true } b) (fun t => t == evs .faultRecordWrite { EvArgs.zero with flag := true } b) &&
    linOf sramPa == none && gives (pq sramPa) (fun t => (t.part 0).poisonQ == [] && (t.grp 1).map (·.contained) == some true) && gives (pq 0x500) (fun t => (t.part 0).poisonQ == [] && (t.grp 1).map (·.contained) == some true) &&
    homeDie 0x9000 == 2 && waits (p (.take 0x9000) m) == [.take 0x9000] && waits (p (.fill 0x9000 5#64) (m.setFull (linOfInter 0x9000) true)) == [.fill 0x9000 5#64] && waits (p (.peek 0x9000) m) == [.peek 0x9000] &&
    (match p (.take 0x9000) m with | .next t => waits (p (.cancel 8) t) == [] | _ => false) &&
    gives (p (.replace 0x9004 0xF0#8 5#64) m) (fun t => t.dies.any fun d => d.2.sent.any fun x => x.e.be == 0xF0#8 && x.e.word == 0x1200) &&
    gives (p (.load 0x9000 .d) (sent m)) (fun t => t.toPeer == []) && gives (p (.message 0x9000 2 9 [1#64]) (sent m)) (fun t => t.msgs == []) && gives (p (.slctl 0x9000 false) m) (fun t => t.toPeer.length == 1) &&
    gives (an true (.message 0x9000 2 9 [])) (fun t => t.peerq == [] && (t.queue 0 0).map (fun q => q.ents.map (·.done)) == some [true]) && qOf (an false (.message 0x9000 2 9 [])) == some (2, 0, true, false, 1) &&
    gives (an true (.load 0x9000 .d)) (fun t => t.peerq == [] && (t.queue 0 0).map (·.tokOk) == some true) && gives (an false (.load 0x9000 .d)) (fun t => t.peerq.length == 1)) = true := by decide +kernel
/-- SparingPortsErrors: a channel with a call in its queue; a cluster command on a state that errs; die-to-die lanes and flits; what its plane reaches; every kind of SRAM, the merge adder at the barn, a Sluice accumulator, an error no check finds. -/
theorem wit_error_kinds : (let ev (i : Instr) (e : EvArgs) (s : State) : Out := exec i (evs i e s)
    let b : State := prt (base id)
    let sp (k u : Nat) (s : State) : State := s.setPart 0 { s.part 0 with spareCmd := some (k + u * 2 ^ 6) }
    let er (n : Nat) (f : EvArgs → EvArgs) (s : State) : Out := ev .eccError (f { EvArgs.zero with q := 1, n := n, u := 0x9000, ti := t0 }) s
    let pl : State := { b with parts := [(0, { Part.zero with pdies := 0xFF#8, ports := 4#24 })], planes := List.replicate 24 [7#64, 0#64, 0#64] }
    gives (ev .retirePseudoChannel EvArgs.zero (sp 4 5 (b.setReed 5 { reed0 with queue := [{ msg0 15 with kind := 0, q := 5 }] }))) (fun t => (t.reed 5).retired && (t.reed 5).queue == [] && (t.part 0).spareCmd == none) &&
    gives (ev .spareCluster { EvArgs.zero with n := 1, ti := ⟨0, 1, 0, 0, 0⟩ } ({ sp 1 1 b with slots := [(⟨0, 1, 0, 0, 0⟩, { thr0 with pc := 0x1000#64 })] })) (fun t => (t.thr ⟨0, 1, 0, 0, 0⟩).halted && (t.part 0).poisonQ.length == 1) &&
    gives (ev .laneFailure { EvArgs.zero with q := 2, flag := true } b) (fun t => t.cwport == b.cwport) && gives (ev .crcRetry { EvArgs.zero with q := 2, n := 9, flag := true } b) (fun t => t.cwport == b.cwport) &&
    gives (ev .portRetrain { EvArgs.zero with q := 2, n := 4, ws := [0x30#64, 0#64, 1#64] } pl) (fun t => t.planes.getD 2 [] == [0x30#64, 0#64, 1#64] && (t.part 0).reach == [0x30#64, 0#64, 1#64] &&
      gives (ev .laneFailure { EvArgs.zero with q := 2, n := 0 } t) (fun u => gives (ev .laneFailure { EvArgs.zero with q := 2 } u) fun v => gives (ev .laneFailure { EvArgs.zero with q := 2 } v) fun w => (w.part 0).reach == [0#64, 0#64, 0#64])) &&
    gives (er 0 id b) (fun t => (t.half 0 0 0).spPois == [0x1200]) && gives (er 2 id b) (fun t => (t.half 0 0 0).opPois == [0x1200]) && gives (er 4 id b) (fun t => (t.die 0).loftBad == [0x9000]) &&
    gives (er 3 id (b.setDie 0 { b.die 0 with granary := [{ line := granLine (wordOf 0x9000), bytes := [], cvec := [], bad := [] }] })) (fun t => (t.die 0).granary.map (·.bad) == [[wordOf 0x9000]]) &&
    gives (er 5 (fun e => { e with core := 2 }) b) (fun t => (t.half 0 0 0).arr.bad == [(2, 0x9000)]) && gives (er 6 (fun e => { e with u := 3 }) b) (fun t => (t.thr t0).rpois == [3]) &&
    gives (er 1 (fun e => { e with q := 5 }) b) (fun t => t.isPoison (linOfInter 0x9000)) && gives (er 0 (fun e => { e with q := 6 }) { b with sluices := [((0, 0), { Sluice.zero with busy := true })] }) (fun t => !(t.sluice 0 0).busy && (t.sluice 0 0).endc == 3) &&
    gives (er 0 (fun e => { e with q := 0, u := 3, ws := [5#64] }) (b.setHalf 0 0 0 { Half.zero with arr := { MArray.zero with acc := [(3, [1])] } })) (fun t => (t.half 0 0 0).arr.acc == [(3, [5])]) && gives (er 1 (fun e => { e with q := 0, u := 3, v := 5#64 }) b) (fun t => vget (t.reed 0).e 3 == 5#64)) = true := by decide +kernel
/-- HostBootPower: recovery exposes BAR0 alone; BAR0's reserved and other offsets; a report that stands and one on its way; an update read and then written; a measurement; stage 2 from stage 1's end. -/
theorem wit_bars : (let ev (i : Instr) (e : EvArgs) (s : State) : Out := exec i (evs i e s)
    let b (bt : Boot) : State := { words 0x9000 [6] (prt (base id)) with boot := bt }
    let rd (o : Out) : List (Nat × Option W64) := match o with | .next t => t.hostReads | _ => []
    let bar (bt : Boot) (u : Nat) : List (Nat × Option W64) := rd (ev .bar2Read { EvArgs.zero with u := u, n := 8, flag := true } (b bt))
    let out (s : State) : State := s.sendZero 4 { ent .replace false 5#64 with word := 0x1200, owners := [] }
    let at1 (s : State) : Out := ev .attreq { EvArgs.zero with flag := true } { s with attq := [(0, 0x9000, 0)] }
    let hu (u : HUpd) : Out := ev .hostUpdate EvArgs.zero { b .up with hostq := [(0, [u])], host := placed 0x40 (leBytes 8 7) }
    [bar .up 0x18, bar .recovery 0xFFF, bar .rom 0x18] == [[(0x18, some 0#64)], [(0xFFF, some 0#64)], [(0x18, none)]] && (bar .up 0x10).length == 1 && rd (ev .bar2Read { EvArgs.zero with u := 0x9000, n := 8 } (b .recovery)) == [(0x9000, none)] &&
    gives (ev .bar2Write { EvArgs.zero with u := 0x9000, n := 1, v := 1#64 } (b .stage2)) (fun t => t.runs == []) && gives (ev .feaddr { EvArgs.zero with v := 0x9000#64 } (b .recovery)) (fun t => t.feaddrReg == 0x9000#64) && gives (ev .feaddr { EvArgs.zero with v := 0x9000#64 } (b .rom)) (fun t => t.feaddrReg == 0#64) &&
    (out (b .up)).reportOut 0x9000 && gives (at1 (out (b .up))) (fun t => t.attq.length == 1) && gives (at1 (b .up)) (fun t => t.attq == [] && hv t 0xA508 == 0 && t.isFull (linOfInter 0xA508)) && gives (at1 ((b .up).setFull (linOfInter 0xA508) true)) (fun t => t.attq.length == 1) &&
    gives (hu ⟨1, 0x40, .smax, .d, false, 9#64, ⟨0, 0⟩, true, none⟩) (fun t => (aget [] t.hostq 0).map (·.got) == [some 7]) && gives (hu ⟨1, 0x40, .smax, .d, false, 9#64, ⟨0, 0⟩, false, none⟩) (fun t => (aget [] t.hostq 0).map (·.got) == [none]) && gives (hu ⟨1, 0x41, .replace, .b, false, 9#64, ⟨0, 0⟩, true, none⟩) (fun t => t.hostRead 0x40 8 == 0x907 && t.hostq == [(0, [])]) &&
    gives (ev .bootStage2 EvArgs.zero { b .stage2 with boot := .stage1 }) (fun t => t.boot == .stage1) && gives (ev .thermalHalve { EvArgs.zero with u := 5, q := 6 } (b .up)) (fun t => t.therm == 0x60005#64)) = true := by decide +kernel
/-- A step whose instruction reads a poisoned register contains the thread instead. -/
theorem wit_step_poison : (let s := atWord [0x014C] fun t => { rr 0#64 5#64 6#64 t with rpois := [t.physOf 2] }
    gives (step s) (fun t => (t.thr t0).halted && (t.thr t0).reg 1#5 == 0#64)) = true := by decide +kernel

/-! ### Clauses added since the second review -/

/-- StepRunsTheDecodedInstruction, ThreadControl: before stage 2 no thread or unit moves; RDSTAT under DET with and without operations; the special registers. -/
theorem wit_boot_and_registers : (let s : State := { atWord [0] id with boot := .rom }
    let u : State := { base id with boot := .stage1 }
    let d (n : Nat) : State := base fun t => { t with det := true, loads := n }
    let m : State := base (rr 0#64 4#64 3#64)
    nx (step s) == some { s with agenda := [] } && nx (turn (.reed 3) u) == some u && nx (turn (.gleaner 0 0) u) == some u && nx (turn (.sluice 3 1) u) == some u &&
    nx (exec (.rdstat 1#5) (d 1)) == some (d 1) && gives (exec (.rdstat 1#5) (d 0)) (fun t => ((t.thr t0).reg 1#5).toNat / 2 ^ 40 % 2 == 1) &&
    gives (exec (.movts .ls1 2#5) m) (fun t => (t.thr t0).ls1 == 4#64 && (t.thr t0).pc == 0x1004#64) && pcAfter (.movts .vl 2#5) m == 0x8040#64 && pcAfter (.movts .ls0 3#5) m == 0x80C0#64 &&
    gives (exec (.movfs 1#5 .le0) (base fun t => { t with le0 := 6#64 })) (fun t => (t.thr t0).reg 1#5 == 6#64)) = true := by decide +kernel
/-- VectorComparesReductionsAndMoves, VectorChecks, VectorLoadsAndUpdates: poison read by each reduction; the checks of a base before the mask's poison; VUPD, VSCAT and VCVT; the keys of a release under way. -/
theorem wit_vector_bases : (let v (d : W64) : State := b4 (rr 0#64 d 0#64)
    let pois (l : List Nat) (s : State) : State := s.setHalf 0 0 0 { s.half 0 0 0 with spPois := l }
    let caught (i : Instr) : Bool := gives (exec i (pois [0x20] (v 0#64))) fun t => (t.thr t0).halted && (t.part 0).poisonQ == [(1, 0, sramPa)]
    let up : Instr := .vupd .iadd .i32 false no p3 2#5
    let k : State := b4 fun t => { rr 0#64 0x2000#64 0#64 t with ph := { t.ph with rel := 1, copied := [0#64, 0x3000#64, 2#64, 0x3010#64] } }
    ([.vsum .i8 .rne false 1#5 p1, .vdot .i8 .rne false 1#5 p1 p2, .vmaxr .i8 false 1#5 p1, .vscan .i8 .rne false p3 p1, .vnnz .i8 false 1#5 p1 p2] : List Instr).all caught &&
    [pcAfter up (v 0x2001#64), pcAfter up (v 0x100000000000000#64), pcAfter (.vscat .w false no p3 p1 2#5) (v (BitVec.ofNat 64 (0x2001 + 2 ^ 56))), pcAfter (.vcvt .i8 .i8 .rne false p3 p1) (v 0#64), pcAfter (.vcvt .i8 .f32 .rne false p3 p1) (v 0#64),
      pcAfter (.vupd .fsum .i8 false no p3 2#5) (v 0x2000#64), pcAfter (.vld .w true p3 2#5) (pois [0xE0] (v 0x2001#64))] == [0x8180#64, 0x81C0#64, 0x8180#64, 0x8040#64, 0x1004#64, 0x8040#64, 0x8180#64] &&
    gives (exec (.vst .w false ⟨.rel, .die, false⟩ p3 2#5) k) (fun t => t.ins.map (fun (i : (Nat × Nat × Nat) × List Ins) => i.2.map (·.key)) == [[0x3000, 0x3010]])) = true := by decide +kernel
/-- Gleaner: GAPPG's and GAPPS's stops, wait and faults; GLDS; a step that leaves the program. -/
theorem wit_gleaner_stops : (let go (i : Instr) (n a : Nat) (f : Half → Half) : W64 × Nat × W64 :=
      let s := gs 0 n
      let u := tv ((s.setHalf 0 0 0 (f (s.half 0 0 0))).setCluster 0 0 { s.cluster 0 0 with gleaner := [{ gjob 0 n with j := (Vector.replicate 16 0#64).set 2 (BitVec.ofNat 64 a) }] })
      let o := exec i u
      match o with | .next t => ((t.thr t0).pc, (t.cluster 0 0).gleaner.length, (t.thr t0).reg 1#5) | _ => (0#64, 99, 0#64)
    let g : Instr := .gappg 2#4 64#18
    let p : Instr := .gapps 2#4 64#18
    let l : Instr := .glds 1#4 2#4 0#18
    [go (.gappg 2#4 4#18) 0 0x2000 id, go g 0 0x2001 id, go p 8190 0x400 id, go g 0 0x2000 (fun h => { h with held := [0] }), go g 0 0x100000000000000 id, go p 0 0x100000 id, go p 0 0x400 (fun h => { h with spPois := [0x80] })] ==
      [(0x1004#64, 0, 3#64), (0x1004#64, 0, 3#64), (0x1004#64, 0, 2#64), (0x1000#64, 1, 0#64), (0x81C0#64, 0, 0#64), (0x8240#64, 0, 0#64), (0x1000#64, 0, 0#64)] &&
    [go l 0 0x401 id, go l 0 0x100000 id, go l 0 0x400 (fun h => { h with spPois := [0x80] }), go l 0 0x400 id] == [(0x8180#64, 0, 0#64), (0x8240#64, 0, 0#64), (0x1000#64, 0, 0#64), (0x1000#64, 1, 0#64)] &&
    gives (exec (.gshli 1#4 2#4 0#18) (gs 1 0)) (fun t => (t.cluster 0 0).gleaner == [] && (t.thr t0).reg 1#5 == 3#64)) = true := by decide +kernel
/-- CopyEngines, Winnow, ReedTasks, SluiceUnits: poison in COPYM's table, in a Winnow record, in a word of IXRED and of RLD; a stop kept while its table could not take the report. -/
theorem wit_engine_poison : (let s : State := { cpy 0x4000000008#64 0#64 0x2000#64 0#64 with mem := Memory.writeN (Memory.writeN [] (linOfInter 0x6010) (leBytes 8 3 ++ leBytes 8 0x7000)) (linOfInter 0x7000) ([0, 0x1000].flatMap (leBytes 8)), parts := [(0, { Part.zero with pdies := 0xFF#8, mctab := 0x6000#64 })] }
    let w := wst (wop 0 1#64 0x100#64 0x4000#64 0) 1 (2 ^ 40 + 3) []
    let word : Nat := 32 * 2 ^ 31 + 8
    gives (exec (.copym 4#5 2#5 3#5) (s.setPoison (linOfInter 0x7000) true)) (fun t => (t.thr t0).halted && t.copies == []) &&
    gives (exec .winnowComplete (wst { wop 1 2#64 0#64 0x4000#64 0 with halt := some (5, 1, 0x77#64) } 1 (2 ^ 40 + 3) [])) (fun t => t.winnow == [] && (t.ctx 0 0).recq.length == 1) &&
    gives (exec .winnowComplete (w.setHalf 0 0 0 { w.half 0 0 0 with spPois := [0x20] })) (fun t => t.winnow == [] && (t.thr t0).halted) &&
    gives (exec .ixredExecute ((ixSt 0 8 0 reed0).setPoison word true)) (fun t => (t.reed 32).task == none) &&
    gives (exec (.rld (sf 2#2 0#1 0#1)) ((unitSt 0 3 1 [] []).setPoison word true)) (fun t => (t.sluice 32 0).endc == 3 && !(t.sluice 32 0).busy)) = true := by decide +kernel
/-- FerryAndMessages: FERRY, RSEND, SLCTL and IXRED of a unit of device 5; the answer of one. -/
theorem wit_peer_units : (let pk : W64 := BitVec.ofNat 64 (0x8000000000000 + 5 * 2 ^ 40 + 0x9000)
    let pe (f : Thread → Thread) : State := { base f with parts := [(0, { Part.zero with pdies := 0xFF#8, reach := [0x20#64, 0#64, 0#64] })] }
    let reqs (o : Out) : List (Nat × PeerReq) := match o with | .next t => t.peerq.map fun r => (r.dev, r.req) | _ => []
    let s (n : W64) : State := pe (rr 0#64 pk n)
    let z : List W64 := List.replicate 8 0#64
    let ix : State := let u := pe (rr 0#64 0x400#64 pk); u.setHalf 0 0 0 { u.half 0 0 0 with sp := placed 0x400 (leBytes 64 (2 ^ 416 + 2 ^ 424 + 0x400 * 2 ^ 448)) }
    reqs (exec (.ferry false false 1#5 2#5 3#5) (s 2#64)) == [(5, .ferryReed 0x9000 2 0 false 0 z)] && reqs (exec (.ferry true false 1#5 2#5 3#5) (s 2#64)) == [(5, .ferryClu 0x9000 2 0 false 0 z)] &&
    reqs (exec (.rsend 2#5 3#5) (s 2#64)) == [(5, .message 0x9000 2 0 z)] && reqs (exec (.slctlAbort 1#5 2#5 3#5) (s 1#64)) == [(5, .slctl 0x9000 true)] && reqs (exec (.slctlStatus 1#5 2#5 3#5) (s 4#64)) == [(5, .slctl 0x9000 false)] &&
    gives (exec (.slctlStatus 1#5 2#5 3#5) (pe fun t => { rr 0#64 pk 0#64 t with ph := { t.ph with ans := some [6#64], rel := 2 } })) (fun t => (t.thr t0).reg 1#5 == 6#64) &&
    (reqs (exec (.ixred 2#5 3#5) ix)).map (·.1) == [5]) = true := by decide +kernel
/-- Tilth: a device that cannot be reached; TSIGNAL at a word of this device, at an unmapped and at a host key; updates of a tile that follow. -/
theorem wit_records_elsewhere : (let st (r : Nat) : Option (Nat × Nat × List (Nat × Nat × Nat)) := tgot (exec .recordStart (prt (tst .recordStart EvArgs.zero (tsu r 0 []))))
    let sig (a : Nat) : Nat := 14 + 2 ^ 196 * (a / 64)
    let d : DieTiles := ⟨0, 0, 1, 1, [(0, 0)], [], [], []⟩
    let t : State := { tst .tileComplete EvArgs.zero (tsu 5 1 [d]) with late := [(unitTile 9 0, ent .iadd false 1#64)] }
    [st (2 ^ 14 + 5 * 2 ^ 15), st (sig 0x1000), st (sig 0x6000000000000), st (sig 0x4000000000000)] == [some (2, 2, []), some (1, 0, []), some (2, 2, []), some (2, 2, [])] &&
    gives (exec .tileComplete t) (fun u => u.late == [] && u.tissues.map (fun v => v.dies.map (·.done)) == [[[0]]])) = true := by decide +kernel
/-- SystemRegisters, FirmwareRegisterWrites: a start and a device region whose block is held, one that is no memory; a write of SYS.PTROOT that waits for a copy. -/
theorem wit_registers_wait : (let sy (r a : Nat) (v : W64) : State := withEnt (.rick r) { ent .iadd true 5#64 with word := a, ctx := 1 } (prt { sup v id with groups := [] })
    let ev (i : Instr) (e : EvArgs) (s : State) : Out := exec i (evs i e s)
    let q (r a : Nat) : State := withEnt (.rick r) { ent .iadd true 5#64 with word := a, ctx := 1 } (prt { base id with slots := [], groups := [] })
    let c : State := { base id with copies := [cop 8#64 0#64 0#64 0 0], parts := [(0, { Part.zero with pdies := 1#8 })] }
    [pcAfter (.swr 67#9 1#5) (sy 0 0x8000 0#64), pcAfter (.swr 65#9 1#5) (sy 2 0x1000 0x8000#64), pcAfter (.swr 65#9 1#5) (sy 3 0x1000 0x8000#64), pcAfter (.swr 65#9 1#5) (sy 3 0x1000 0x3000000000000#64)] == [0x1000#64, 0x1000#64, 0x1004#64, 0x80C0#64] &&
    gives (ev .qctlStart EvArgs.zero (q 0 0x8000)) (fun t => t.winq == [(winAt 0 0 67, 0#64, 0)]) && gives (ev .devrcbWrite { EvArgs.zero with v := 0x8000#64 } (q 2 0x1000)) (fun t => t.winq == [(winAt 0 0 65, 0x8000#64, 0)]) &&
    gives (ev .devrcbWrite { EvArgs.zero with v := 0x3000000000000#64 } (q 2 0x1000)) (fun t => t.winq == [] && (t.ctx 0 0).dev.isNone) &&
    gives (ev .sysWindowAccess { EvArgs.zero with u := winAt 0 0 80, flag := true } c) (fun t => t.winq.map (·.2.2) == [100] && gives (ev .sysWindowAccess { EvArgs.zero with n := 1 } t) (fun u => u.winq == t.winq) &&
      gives (ev .sysWindowAccess { EvArgs.zero with n := 1 } { t with copies := [] }) (fun u => u.winq == []))) = true := by decide +kernel
/-- On a partition of one die: an XINV's pc after a step, begun (stage 1) or not, while the copies c run. -/
def xinvAt (i : Instr) (stage : Nat) (c : List CopyOp) : W64 :=
  pcAfter i { supr 1#64 0x5000#64 0#64 (fun t => { t with ph := { t.ph with stage := stage, mark := 50 } }) with copies := c, parts := [(0, { Part.zero with pdies := 1#8 })] }
/-- ContextsAndTranslation: each XINV that has begun, with an older operation and without; RANGE and ALL from their start. -/
theorem wit_invalidations : (xinvAt (.xinvPage 1#5 2#5 3#5) 1 [] == 0x1004#64 && xinvAt (.xinvContext 1#5 2#5 3#5) 1 [] == 0x1004#64 && xinvAt (.xinvRange 1#5 2#5 3#5) 1 [] == 0x1004#64 && xinvAt (.xinvAll 1#5 2#5 3#5) 1 [] == 0x1004#64 &&
    xinvAt (.xinvPage 1#5 2#5 3#5) 1 [cop 8#64 0#64 0#64 0 0] == 0x1000#64 && xinvAt (.xinvContext 1#5 2#5 3#5) 1 [cop 8#64 0#64 0#64 0 0] == 0x1000#64 && xinvAt (.xinvRange 1#5 2#5 3#5) 1 [cop 8#64 0#64 0#64 0 0] == 0x1000#64 && xinvAt (.xinvAll 1#5 2#5 3#5) 1 [cop 8#64 0#64 0#64 0 0] == 0x1000#64 &&
    xinvAt (.xinvRange 1#5 2#5 3#5) 0 [] == 0x1004#64 && xinvAt (.xinvRange 1#5 2#5 3#5) 0 [cop 8#64 0#64 0#64 0 0] == 0x1000#64) = true := by decide +kernel
def savedOne : Saved := { ctx := 1, p := 0, base := 0x20000, slots := [], halves := [], groups := [], tissues := [], binds := [], ents := [], items := [], launches := [2] }
/-- LOADCTX to context B of the area at 0x20000, on a partition of one die. -/
def loadOne (hd : List Nat) (f : State → State) : W64 :=
  let s : State := { supr 0#64 0x20000#64 1#64 id with launches := [(2, { testLaunch with ctx := 1, state := 2 })], savedCtx := [savedOne], parts := [(0, { Part.zero with pdies := 1#8 })] }
  pcAfter (.loadctx 1#5 2#5 3#5) (f (words 0x20000 hd (s.setCtx 0 1 { Ctx.zero with saved := true, halted := true })))
/-- ContextsAndTranslation: LOADCTX of an area that fits; of a header that does not, to a busy context, beside another live launch, of an area that holds no save. -/
theorem wit_loads_refused : (loadOne [1, 1, 1, 0, 0] id == 0x1004#64 && loadOne [1, 0, 1, 0, 0] id == 0x80C0#64 && loadOne [1, 1, 1, 0, 0] (fun s => { s with copies := [{ cop 8#64 0#64 0#64 0 0 with ctx := 1 }] }) == 0x80C0#64 &&
    loadOne [1, 1, 1, 0, 0] (fun s => { s with launches := s.launches ++ [(3, { testLaunch with ctx := 1, state := 2 })] }) == 0x80C0#64 && loadOne [1, 1, 1, 0, 0] (fun s => { s with savedCtx := [] }) == 0x80C0#64) = true := by decide +kernel
/-- CommandQueues: a record queue that is serial, a TEMPLATE that is misaligned; addresses of TASK and SEND that fault; the fields of a command. -/
theorem wit_commands_fault : (let ev (i : Instr) (s : State) : Out := exec i (evs i EvArgs.zero s)
    let rq (ser : Bool) (es : List QEnt) (t n : Nat) : Option (Nat × Nat × Bool × Bool × Nat) :=
      let s := words (0x20000 + 32 * n) [t, 5, 2 ^ 32 * 9 + 3, n] (prt (withQ { que 4 with serial := ser, ents := es, head := n } (base id)))
      qOf (ev .recordTake (s.setFull (linOfInter (0x20018 + 32 * n)) true))
    let x (w : List Nat) : State := prt (withQ { que 3 with cur := some (0, w.map (BitVec.ofNat 64)), tokOk := true } (base id))
    let one : List QEnt := [⟨0, 1, 0, 0, false⟩]
    let bad : Option (Nat × Nat × Bool × Bool × Nat) := some (2, 0, true, false, 0)
    [rq false [] 0x8000 0, rq false [] 0x8020 0, rq true one 0x8000 1, rq true [] 0x8000 1] == [some (1, 0, false, true, 0), bad, some (1, 1, false, false, 1), some (1, 1, false, true, 0)] &&
    [qOf (ev .cmdTask (x [3, 0, 0, 0, 0x6000000000000, 2, 0x30000])), qOf (ev .cmdTask (x [3, 0, 0, 0, 0x4000000000000, 2, 0x30000])), qOf (ev .cmdSend (x [4, 0, 0, 0, 0x1000, 2, 0x6000000000000])), qOf (ev .cmdSend (x [4, 0, 0, 0, 0x4000000000000, 2, 0x9000]))] == [bad, bad, bad, bad] &&
    [cmdOk 3 [3, 0, 0, 0, 0x1000, 2, 0x30000], cmdOk 3 [3, 0, 0, 0, 0x1000, 2, 0x30001], cmdOk 3 [3, 0, 0, 0, 0x1000, 15, 0x30001], cmdOk 3 [4, 0, 0, 0, 0x1000, 13, 0x9000], cmdOk 3 [4, 0, 0, 0, 0x1000, 14, 0x9000], cmdOk 1 [3, 0, 0, 0, 0x1000, 2, 0x30000]] ==
      [true, false, true, true, false, false]) = true := by decide +kernel
/-- LaunchesAndGroups, FaultsAndPeers, SparingPortsErrors: a record's TEMPLATE in host memory at completion; a peer's channel request that waits and one that is served, updates to two home dies in order; an answer to the part; a link of the ring that goes down. -/
theorem wit_peers_in_order : (let ev (i : Instr) (e : EvArgs) (s : State) : Out := exec i (evs i e s)
    let b (full : Bool) : State := (words 0x9000 [6] (prt (base id))).setFull (linOfInter 0x9000) full
    let p (r : PeerReq) (s : State) : Out := ev .peerStreamArrive { EvArgs.zero with u := 3, n := 8, req := r } s
    let sent (t : State) : Nat := (t.dies.map fun (d : Nat × Die) => d.2.sent.length).sum
    let ans (o : Out) : List (Nat × List W64) := match o with | .next t => t.toPeer | _ => []
    let late (o : Out) : Nat := match o with | .next t => (t.dies.map fun (d : Nat × Die) => d.2.peerWait.length).sum | _ => 99
    let ch (pop : Bool) : PeerReq := .chan pop 0x9000 0x9100 0#64 1 2 3
    let up (k : Nat) : PeerReq := .update k .iadd .d false 1#64
    let l : Launch := { testLaunch with rcb := none, tmpl := some 0x4000000000100, origin := .record 0 0 0 }
    ans (p (ch true) (b true)) == [(3, [8#64, 6#64])] && ans (p (ch false) (b false)) == [(3, [8#64, 0#64])] && [late (p (ch true) (b false)), late (p (ch false) (b true))] == [1, 1] &&
    gives (p (up 0x9000) (b true)) (fun t => sent t == 1 && gives (p (up 0x11000) t) (fun u => sent u == 1) && gives (p (up 0x9000) t) (fun u => sent u == 2)) &&
    gives (ev .crcRetry { EvArgs.zero with flag := true, n := 8, die := 2 } (base id)) (fun t => t.linkDown == [2]) &&
    gives (ev .peerAnswer { EvArgs.zero with q := 5, flag := true, ws := [4#64] } { prt (base id) with peerq := [⟨5, 3, .load 0x9000 .d, partReader 2 1, none, 0#64, true⟩] }) (fun t => t.peerq == [] && t.peerAns == [(partReader 2 1, .load 0x9000 .d, [4#64])]) &&
    gives (ev .launchComplete { EvArgs.zero with n := 3 } { prt { base id with launches := [(3, { l with next := l.groups, done := l.groups })], groups := [(1, { grp0 with ended := true })] } with host := placed 0x13C (leBytes 4 4) }) (fun t => t.hostRead 0x13C 4 == 4 + l.groups)) = true := by decide +kernel
end Sys2Proof.Tests
end

/-!
Register writes, and launches and groups: the laws of a register write, what the part's own writes leave as it was, and the
meanings of LAUNCH and of the scheduler's events, one lemma per branch.
-/
namespace Sys2Proof.Machine
open Sys2Proof

/-! ### A register write (R18, R53, R54, R133) -/

/-- All that a register write may change. -/
theorem Thread.setReg_shape (t : Thread) (r : Reg) (v : W64) :
    ∃ w h m, t.setReg r v = { t with phys := w, h := h, rpois := m } := by
  unfold Thread.setReg
  split
  · exact ⟨_, _, _, rfl⟩
  · split <;> exact ⟨_, _, _, rfl⟩

@[simp] theorem Thread.setReg_pc (t : Thread) (r : Reg) (v : W64) : (t.setReg r v).pc = t.pc := by
  obtain ⟨_, _, _, h⟩ := t.setReg_shape r v; rw [h]
@[simp] theorem Thread.setReg_lc0 (t : Thread) (r : Reg) (v : W64) : (t.setReg r v).lc0 = t.lc0 := by
  obtain ⟨_, _, _, h⟩ := t.setReg_shape r v; rw [h]
@[simp] theorem Thread.setReg_lc1 (t : Thread) (r : Reg) (v : W64) : (t.setReg r v).lc1 = t.lc1 := by
  obtain ⟨_, _, _, h⟩ := t.setReg_shape r v; rw [h]
@[simp] theorem Thread.setReg_wb (t : Thread) (r : Reg) (v : W64) : (t.setReg r v).wb = t.wb := by
  obtain ⟨_, _, _, h⟩ := t.setReg_shape r v; rw [h]
@[simp] theorem Thread.setReg_live (t : Thread) (r : Reg) (v : W64) : (t.setReg r v).live = t.live := by
  obtain ⟨_, _, _, h⟩ := t.setReg_shape r v; rw [h]
@[simp] theorem Thread.setReg_grp (t : Thread) (r : Reg) (v : W64) : (t.setReg r v).grp = t.grp := by
  obtain ⟨_, _, _, h⟩ := t.setReg_shape r v; rw [h]
@[simp] theorem Thread.setReg_sup (t : Thread) (r : Reg) (v : W64) : (t.setReg r v).sup = t.sup := by
  obtain ⟨_, _, _, h⟩ := t.setReg_shape r v; rw [h]
@[simp] theorem Thread.setReg_det (t : Thread) (r : Reg) (v : W64) : (t.setReg r v).det = t.det := by
  obtain ⟨_, _, _, h⟩ := t.setReg_shape r v; rw [h]

/-- Window register wi stands at place (16·WB + i) mod 128. -/
theorem Thread.reg_window (t : Thread) (r : Reg) (h : r.toNat < 24) :
    t.reg r = t.atPlace ((16 * t.wb.toNat + r.toNat) % 128) := by
  have hp : (16 * t.wb.toNat + r.toNat) % 128 < 128 := Nat.mod_lt _ (by decide)
  simp [Thread.reg, Thread.atPlace, Thread.physOf, h, hp]

/-- A write of one window register leaves another as it was. -/
theorem Thread.reg_setReg_ne (t : Thread) {r q : Reg} (v : W64) (hr : r.toNat < 24) (hq : q.toNat < 24) (h : q ≠ r) :
    (t.setReg r v).reg q = t.reg q := by
  have hn : q.toNat ≠ r.toNat := fun e => h (BitVec.eq_of_toNat_eq e)
  have hb := t.wb.isLt
  rw [Thread.reg_window _ _ hq, Thread.reg_window _ _ hq, Thread.setReg_wb]
  refine t.atPlace_setReg r v _ (by omega) ?_
  simp only [Thread.place, hr, if_true, Thread.physOf]
  omega

/-- Settles O8: the model's laws of one register write, with the shape of all that it may change. -/
theorem registerWrites : Obligations.RegisterWrites := by
  intro t r v
  exact ⟨t.reg_setReg r v, t.setReg_h0 v, t.reg_h0, fun pl hp hn => t.atPlace_setReg r v pl hp hn, t.still_setReg r v,
    t.setReg_pc r v, t.setReg_lc0 r v, t.setReg_lc1 r v, t.reg_window r⟩

/-! ### What the part's own writes leave as it was (R35, R92 to R97) -/

/-- From s to t only the Fen and what it reports have moved: no thread, group, launch or cluster has, and no die's granary has a line
that it did not have. -/
structure FenMoved (s t : State) : Prop where
  slots    : t.slots = s.slots
  groups   : t.groups = s.groups
  launches : t.launches = s.launches
  clusters : t.clusters = s.clusters
  lines    : ∀ d, (t.die d).granary ⊆ (s.die d).granary

theorem FenMoved.refl (s : State) : FenMoved s s := ⟨rfl, rfl, rfl, rfl, fun _ => List.Subset.refl _⟩

theorem FenMoved.trans {s t u : State} (h : FenMoved s t) (k : FenMoved t u) : FenMoved s u :=
  ⟨k.slots.trans h.slots, k.groups.trans h.groups, k.launches.trans h.launches, k.clusters.trans h.clusters,
    fun d => List.Subset.trans (k.lines d) (h.lines d)⟩

/-- A state that has the slots, groups, launches, clusters and dies of another. -/
theorem FenMoved.of_eq {s t : State} (hs : t.slots = s.slots) (hg : t.groups = s.groups) (hl : t.launches = s.launches)
    (hc : t.clusters = s.clusters) (hd : t.dies = s.dies) : FenMoved s t :=
  ⟨hs, hg, hl, hc, fun d => by simp [State.die, hd]⟩

theorem fenMoved_setRun (s : State) (r : RunId) (x : Run) : FenMoved s (s.setRun r x) := .of_eq rfl rfl rfl rfl rfl
theorem fenMoved_setPart (s : State) (p : Nat) (x : Part) : FenMoved s (s.setPart p x) := .of_eq rfl rfl rfl rfl rfl

/-- A die whose granary has lost lines at most. -/
theorem fenMoved_setDie (s : State) (d : Nat) {x : Die} (h : x.granary ⊆ (s.die d).granary) : FenMoved s (s.setDie d x) := by
  refine ⟨rfl, rfl, rfl, rfl, fun d' => ?_⟩
  by_cases e : d = d'
  · subst e; simpa using h
  · rw [State.die, State.setDie_dies, aget_aset_ne _ _ e]; exact List.Subset.refl _

theorem fenMoved_dropLine (s : State) (d w : Nat) : FenMoved s (s.dropLine d w) :=
  fenMoved_setDie s d List.filter_sublist.subset

theorem fenMoved_dropIfRick (s : State) (r : RunId) (w : Nat) : FenMoved s (s.dropIfRick r w) := by
  cases r with
  | rick d => exact fenMoved_dropLine s d w
  | sheaf _ _ _ | stook _ _ => exact .refl s

theorem fenMoved_send (s : State) (d : Nat) (e : Entry) : FenMoved s (s.send d e) :=
  have h : FenMoved s (s.setDie d { s.die d with hseq := (s.die d).hseq + 1, sent := (s.die d).sent ++ [_] }) :=
    fenMoved_setDie s d (List.Subset.refl _)
  h.trans (fenMoved_dropLine _ d e.word)

theorem fenMoved_errLog (s : State) (p kind site die clu unit addr : Nat) (c : Bool) :
    FenMoved s (s.errLog p kind site die clu unit addr c) := by
  unfold State.errLog
  extract_lets
  split <;> exact fenMoved_setPart _ _ _

theorem fenMoved_holdEntry (s : State) (r : RunId) (e : Entry) (f : OpFault) (v : Nat) (c : Option Cell) :
    FenMoved s (s.holdEntry r e f v c) := .of_eq rfl rfl rfl rfl rfl

/-- The state that a Put carries has moved in the Fen only. -/
def Put.Moved (s : State) : Put → Prop
  | .ok t | .behind t | .noRoom t => FenMoved s t
  | .opFault _ _ _ => True

theorem Put.Moved.trans {s t : State} {p : Put} (h : FenMoved s t) (k : p.Moved t) : p.Moved s := by
  cases p with
  | ok _ | behind _ | noRoom _ => exact h.trans k
  | opFault _ _ _ => trivial

theorem barnApply_moved (s : State) (e : Entry) : (s.barnApply e).Moved s := by
  unfold State.barnApply
  extract_lets _ _ _ t
  have h : FenMoved s t := .of_eq rfl rfl rfl rfl rfl
  split
  · exact h.trans (fenMoved_errLog _ _ _ _ _ _ _ _ _)
  split
  · exact h.trans (fenMoved_errLog _ _ _ _ _ _ _ _ _)
  split
  · exact .of_eq rfl rfl rfl rfl rfl
  split
  · trivial
  · extract_lets
    split
    · trivial
    · split <;> exact .of_eq rfl rfl rfl rfl rfl

/-- Bringing an entry into a run, and moving one outward, move nothing but the Fen. -/
theorem put_out_moved (n : Nat) : (∀ s r u direct, (State.put n s r u direct).Moved s) ∧ ∀ s r e, (State.out n s r e).Moved s := by
  induction n with
  | zero => exact ⟨fun s _ _ _ => by rw [State.put]; exact .refl s, fun s _ _ => by rw [State.out]; exact .refl s⟩
  | succ n ih =>
    obtain ⟨ihPut, ihOut⟩ := ih
    constructor
    · intro s r u direct
      unfold State.put
      extract_lets run u
      split
      · exact .refl s
      split
      · split
        · exact ihOut s r u
        split
        · exact (fenMoved_setRun s r _).trans (fenMoved_dropIfRick _ _ _)
        · exact .refl s
      · split
        · exact (fenMoved_setRun s r _).trans (fenMoved_dropIfRick _ _ _)
        · trivial
        · next e _ _ _ =>
          have ho : (State.out n (s.setRun r (run.take e)) r e).Moved s := .trans (fenMoved_setRun s r _) (ihOut _ r e)
          split
          · next s' h =>
            rw [h] at ho
            extract_lets
            split
            · exact (FenMoved.trans ho (fenMoved_setRun s' r _)).trans (fenMoved_dropIfRick _ _ _)
            · exact ho
          · next s' h => rw [h] at ho; exact FenMoved.trans ho (fenMoved_setRun s' r _)
          · next s' h => rw [h] at ho; exact FenMoved.trans ho (fenMoved_setRun s' r _)
          · exact fenMoved_holdEntry _ _ _ _ _ _
    · intro s r e
      cases r with
      | sheaf d c k => rw [State.out]; exact ihPut s _ e false
      | stook d c =>
        rw [State.out]
        split
        · exact fenMoved_send s d e
        · exact ihPut s _ e false
      | rick d =>
        rw [State.out]
        split
        · exact barnApply_moved s e
        · exact fenMoved_send s d e

theorem put_moved (n : Nat) (s : State) (r : RunId) (u : Entry) (direct : Bool) : (State.put n s r u direct).Moved s :=
  (put_out_moved n).1 s r u direct
theorem out_moved (n : Nat) (s : State) (r : RunId) (e : Entry) : (State.out n s r e).Moved s := (put_out_moved n).2 s r e

theorem fenMoved_moveEnt (s : State) (r : RunId) (e : Entry) : FenMoved s (s.moveEnt r e).1 := by
  have ho : (State.out levels (s.setRun r ((s.run r).take e)) r e).Moved s := .trans (fenMoved_setRun s r _) (out_moved _ _ r e)
  unfold State.moveEnt
  split
  · next h => rw [h] at ho; exact ho
  · next s' h => rw [h] at ho; exact FenMoved.trans ho (fenMoved_setRun s' r _)
  · next s' h => rw [h] at ho; exact FenMoved.trans ho (fenMoved_setRun s' r _)
  · exact fenMoved_holdEntry _ _ _ _ _ _

theorem fenMoved_mergeKeys (n : Nat) (s : State) (r : RunId) : FenMoved s (State.mergeKeys n s r) := by
  induction n generalizing s with
  | zero => rw [State.mergeKeys]; exact .refl s
  | succ n ih =>
    rw [State.mergeKeys]
    split
    · exact .refl s
    split
    · exact (fenMoved_setRun s r _).trans (ih _)
    · next e _ =>
      have hm := fenMoved_moveEnt s r e
      split
      · next h => rw [h] at hm; exact hm
      · next s' h => rw [h] at hm; exact (hm.trans (fenMoved_setRun s' r _)).trans (ih _)

theorem fenMoved_mergeRun (s : State) (r : RunId) : FenMoved s (s.mergeRun r) :=
  (fenMoved_setRun s r _).trans (fenMoved_mergeKeys _ _ r)

/-- A byte of the part's own gets in, or has moved only what stood in its way. -/
theorem sysByte_moved (s : State) (p c pa : Nat) (b : Byte) :
    (∀ t, s.sysByte p c pa b = .ok t → FenMoved s t) ∧ ∀ t e, s.sysByte p c pa b = .error (t, e) → FenMoved s t := by
  unfold State.sysByte
  split
  · extract_lets r e
    have hp := put_moved levels s r e true
    split
    · next h => rw [h] at hp; exact ⟨fun t ht => by cases ht; exact hp, fun t e' ht => by cases ht⟩
    · next h => rw [h] at hp; exact ⟨fun t ht => (by cases ht), fun t e' ht => by cases ht; exact hp⟩
    · next h =>
      rw [h] at hp
      have hq : (State.put levels ((‹State›).mergeRun r) r e true).Moved s :=
        .trans (FenMoved.trans hp (fenMoved_mergeRun _ r)) (put_moved levels _ r e true)
      split
      · next h' => rw [h'] at hq; exact ⟨fun t ht => by cases ht; exact hq, fun t e' ht => by cases ht⟩
      · exact ⟨fun t ht => (by cases ht), fun t e' ht => by cases ht; exact hp⟩
    · exact ⟨fun t ht => (by cases ht), fun t e' ht => by cases ht; exact .refl s⟩
  · exact ⟨fun t ht => by cases ht; exact .of_eq rfl rfl rfl rfl rfl, fun t e ht => by cases ht⟩
  · refine ⟨fun t ht => ?_, fun t e ht => by cases ht⟩
    cases ht
    split
    · exact .of_eq rfl rfl rfl rfl rfl
    · exact .refl s
  · exact ⟨fun t ht => by cases ht; exact .refl s, fun t e ht => by cases ht⟩

theorem fenMoved_sysWrite (bs : List Byte) (s : State) (p c pa : Nat) : FenMoved s (s.sysWrite p c pa bs) := by
  induction bs generalizing s pa with
  | nil => exact .refl s
  | cons b bs ih =>
    obtain ⟨hok, herr⟩ := sysByte_moved s p c pa b
    rw [State.sysWrite]
    split
    · next h => exact (hok _ h).trans (ih _ _)
    · next h => exact ((herr _ _ h).trans (fenMoved_send _ _ _)).trans (ih _ _)

/-- A doubleword that the part writes moves nothing but the Fen and its streams. -/
theorem fenMoved_sysWord (s : State) (p c pa v : Nat) : FenMoved s (s.sysWord p c pa v) := by
  unfold State.sysWord
  split
  · split
    · exact .of_eq rfl rfl rfl rfl rfl
    · exact .refl s
  · exact fenMoved_sysWrite _ _ _ _ _

/-! ### Who issues stays who issues (R87, R98, R108) -/

/-- The issuing agent, its event and the partitions' registers are as they were. -/
structure SameIssuer (s t : State) : Prop where
  cur   : t.cur = s.cur
  parts : t.parts = s.parts

theorem SameIssuer.refl (s : State) : SameIssuer s s := ⟨rfl, rfl⟩
theorem SameIssuer.trans {s t u : State} (h : SameIssuer s t) (k : SameIssuer t u) : SameIssuer s u :=
  ⟨k.cur.trans h.cur, k.parts.trans h.parts⟩
theorem SameIssuer.issues {s t : State} (h : SameIssuer s t) {ti : SlotId} (hi : s.issues ti) : t.issues ti := by
  rw [State.issues, h.cur]; exact hi
theorem SameIssuer.partOf {s t : State} (h : SameIssuer s t) (d : Nat) : t.partOf d = s.partOf d := by
  simp only [State.partOf, h.parts]

theorem sameIssuer_setPhase (s : State) (x : Phase) : SameIssuer s (s.setPhase x) := ⟨by simp, by simp⟩

theorem sameIssuer_wantMerge (s : State) (r : RunId) : SameIssuer s (s.wantMerge r) := by
  unfold State.wantMerge
  split
  · exact .refl s
  · exact ⟨rfl, rfl⟩

theorem sameIssuer_wantPath (s : State) (d c k : Nat) (sc : Scope) : SameIssuer s (s.wantPath d c k sc) := by
  cases sc with
  | thread | core => exact .refl s
  | clu => exact sameIssuer_wantMerge s _
  | die => exact (sameIssuer_wantMerge s _).trans (sameIssuer_wantMerge _ _)
  | dev | sys => exact ((sameIssuer_wantMerge s _).trans (sameIssuer_wantMerge _ _)).trans (sameIssuer_wantMerge _ _)

theorem sameIssuer_releaseDone (s : State) (ti : SlotId) (sc : Scope) : SameIssuer s (s.releaseDone ti sc) := by
  cases sc with
  | dev | sys => exact ⟨rfl, rfl⟩
  | thread | core | clu | die => exact .refl s

/-- A release that is complete leaves the issuer as it was. -/
theorem sameIssuer_release {s u : State} {sc : Scope} (h : s.release sc false = .ok u) : SameIssuer s u := by
  unfold State.release at h
  extract_lets ti ph s0 t at h
  split at h
  · cases h; exact .refl s
  · have ht : SameIssuer s t := by
      simp only [t, s0, Bool.false_eq_true, if_false]
      split
      · refine .trans ?_ (sameIssuer_wantPath _ _ _ _ _)
        exact (sameIssuer_setPhase s _).trans ⟨rfl, rfl⟩
      · exact .refl s
    split at h
    · cases h
      exact ht.trans ((sameIssuer_setPhase _ _).trans (sameIssuer_releaseDone _ _ _))
    · cases h

theorem sameIssuer_lookThread (s : State) (d cl c va : Nat) : SameIssuer s (s.lookThread d cl c va).2 := by
  unfold State.lookThread
  split
  · split
    · split
      · exact ⟨rfl, rfl⟩
      · exact .refl s
    · exact .refl s
  · exact .refl s

theorem sameIssuer_xlate {s s' : State} {va : W64} {k : Need} {sub pa : Nat} (h : s.xlate va k sub = .ok (pa, s')) : SameIssuer s s' := by
  unfold State.xlate at h
  extract_lets ti a at h
  have hl := sameIssuer_lookThread s ti.die ti.clu ti.ctx a
  split at h
  · cases h
  · split at h
    · next e =>
      rw [e] at hl
      split at h
      · cases h; exact hl
      · cases h
    · cases h
    · cases h

theorem sameIssuer_keyAt {s s' : State} {va : W64} {n sub : Nat} {k : Need} {key : Key}
    (h : s.keyAt va n k sub = .ok (key, s')) : SameIssuer s s' := by
  unfold State.keyAt at h
  obtain ⟨_, _, h⟩ := (M.bind_eq_ok _ _ _).1 h
  obtain ⟨⟨pa, t⟩, hx, h⟩ := (M.bind_eq_ok _ _ _).1 h
  have hi := sameIssuer_xlate hx
  dsimp only at h
  split at h
  · cases h
  · split at h
    · cases h
    · cases h; exact hi
  · split at h
    · cases h; exact hi
    · cases h
  · cases h; exact hi

theorem sameIssuer_afterLoad (s : State) (p : Path) (w : Nat) (gran : Bool) : SameIssuer s (s.afterLoad p w gran) := by
  have hr : ∀ h d, SameIssuer s (s.respond h d) := fun h d => by
    unfold State.respond
    split
    · exact .refl s
    · exact ⟨rfl, rfl⟩
  unfold State.afterLoad
  extract_lets h _ s'
  split
  · exact ⟨rfl, rfl⟩
  · have hs' : SameIssuer s s' := (hr _ _).trans ⟨rfl, rfl⟩
    split
    · exact hs'.trans ⟨rfl, rfl⟩
    · exact hs'

theorem sameIssuer_loadKey {s s' : State} {p : Path} {key n v : Nat} {gran : Bool} (h : s.loadKey p key n gran = .ok v s') :
    SameIssuer s s' := by
  unfold State.loadKey at h
  extract_lets w o at h
  split at h
  · cases h
  · split at h
    · cases h
    · cases h; exact sameIssuer_afterLoad s p w gran

theorem sameIssuer_askPeer {s s' : State} {d : Nat} {r : PeerReq} {ordered : Bool} {ws : List W64}
    (h : s.askPeer d r ordered = .ok (ws, s')) : SameIssuer s s' := by
  unfold State.askPeer at h
  split at h
  · cases h; exact sameIssuer_setPhase s _
  · cases h

/-- A load that answers leaves the issuer as it was. -/
theorem sameIssuer_fenLoad {s s' : State} {va : W64} {n v : Nat} {ordered : Bool} (h : s.fenLoad va n ordered = .ok (v, s')) :
    SameIssuer s s' := by
  unfold State.fenLoad at h
  obtain ⟨⟨k, t⟩, hk, h⟩ := (M.bind_eq_ok _ _ _).1 h
  have hi := sameIssuer_keyAt hk
  dsimp only at h
  split at h
  · cases h
  split at h
  · split at h
    · next hl => cases h; exact hi.trans (sameIssuer_loadKey hl)
    · cases h
    · cases h
  · split at h
    · cases h
    · cases h; exact hi
  · obtain ⟨⟨ws, u⟩, ha, h⟩ := (M.bind_eq_ok _ _ _).1 h
    cases h
    exact hi.trans (sameIssuer_askPeer ha)
  · cases h; exact hi.trans ⟨rfl, rfl⟩
  · cases h

/-! ### LAUNCH (R42, R170) -/

theorem placeScope_eq (n : Nat) : placeScope n = if n = 0 then .dev else if n = 1 then .die else .clu := by
  rcases n with _ | _ | n
  · rfl
  · rfl
  · rw [if_neg (by omega), if_neg (by omega)]; rfl

/-- What LAUNCH does once its release is complete: it submits the RCB and leaves the rotation. -/
def submitLaunch (rd : Reg) (va : W64) (ti : SlotId) (p : Nat) (u : State) : M State :=
  let s := u.setPhase { u.th.ph with aux := rd.toNat }
  let s := s.setPart p { s.part p with subs := (s.part p).subs ++ [⟨va.toNat, ti.ctx, p, .thread ti s.th.uid, none, none, 0⟩] }
  hold (s.waitMe .sched)

/-- What LAUNCH does once it has read the control and the state of its RCB. -/
def launchRead (rd : Reg) (va : W64) (ti : SlotId) (p : Nat) (k : Key) (ctl st : Nat) (s : State) : M State :=
  if st % 16 ≠ 0 ∨ (s.th.ph.stage = 1 ∧ s.rcbLive p none (k.pa - 0x18) = true) then .ok (s.setReg rd 6#64).fall
  else if nfld ctl 48 2 = 3 then .ok ((s.refuseAt k).setReg rd 1#64).fall
  else (s.setPhase { s.th.ph with stage := 2 }).release (placeScope (nfld ctl 48 2)) false >>= submitLaunch rd va ti p

section
variable {s : State} {ti : SlotId} {rs : Reg} (hi : s.issues ti)
include hi

theorem doLaunch_handler (rd : Reg) (h : (s.thr ti).kind ≠ .group) : doLaunch rd rs s = .error (.trap tOp 0 s.cur.addr) := by
  have hk : (s.th.kind == TKind.group) = false := by simpa [hi.th_eq] using h
  simp [doLaunch, State.notHandler, hk, State.pc0]

theorem doLaunch_misaligned (rd : Reg) (hg : (s.thr ti).kind = .group) (h : ((s.thr ti).reg rs).toNat % 64 ≠ 0) :
    doLaunch rd rs s = .error (.trap tAlign 0 ((s.thr ti).reg rs)) := by
  simp [doLaunch, State.notHandler, hi.th_eq, hg, hi.reg_eq, ensure_not (beq_false_of_ne h)]

variable {va : W64} (hva : (s.thr ti).reg rs = va) (hg : (s.thr ti).kind = .group) (ha : va.toNat % 64 = 0)
  {k : Key} {s0 : State} (hk : s.keyAt (va + 0x18#64) 8 .read subLoad = .ok (k, s0))
include hva hg ha hk

/-- LAUNCH past its checks. -/
theorem doLaunch_eq (rd : Reg) : doLaunch rd rs s = launchCtl va s >>= fun a =>
    (if a.2.th.ph.stage = 1 then a.2.fenLoad (va + 0x38#64) 8 false else .ok (0, a.2)) >>= fun b =>
      launchRead rd va ti (s.partOf ti.die) k a.1 b.1 b.2 := by
  simp only [doLaunch, State.notHandler, hi.th_eq, hg, hi.reg_eq, hva, ha, hk, hi.me_eq, beq_self_eq_true, ensure_true, M.ok_bind]
  rfl

/-- LAUNCH at its first pass reads the two doublewords and goes on. -/
theorem doLaunch_first (rd : Reg) (h0 : (s.thr ti).ph.stage = 0) {ctl st : Nat} {s1 s3 : State}
    (h1 : s.fenLoad (va + 0x18#64) 8 false = .ok (ctl, s1))
    (h2 : (s1.setPhase { s1.th.ph with stage := 1, aux := ctl, len := s1.cur.len }).th.ph.stage = 1)
    (h3 : (s1.setPhase { s1.th.ph with stage := 1, aux := ctl, len := s1.cur.len }).fenLoad (va + 0x38#64) 8 false = .ok (st, s3)) :
    doLaunch rd rs s = launchRead rd va ti (s.partOf ti.die) k ctl st s3 := by
  simp [doLaunch_eq hi hva hg ha hk, launchCtl, hi.th_eq, h0, h1, h2, h3]

/-- LAUNCH that waits for its release goes on from the control it has kept. -/
theorem doLaunch_resumed (rd : Reg) (h2 : (s.thr ti).ph.stage = 2) :
    doLaunch rd rs s = launchRead rd va ti (s.partOf ti.die) k (s.thr ti).ph.aux 0 s := by
  simp [doLaunch_eq hi hva hg ha hk, launchCtl, hi.th_eq, h2]

end

/-- What is said of LAUNCH from its release on: it waits with the release; once that is complete the RCB is submitted, the thread waits for
the scheduler with rd kept, and no register, byte of memory or run has changed. -/
def LaunchGoes (rd : Reg) (va : W64) (ti : SlotId) (p : Nat) (u0 : State) (sc : Scope) (o : Out) : Prop :=
  (∀ t, u0.release sc false = .error (.hold t) → o = .next t) ∧
  (∀ u, u0.release sc false = .ok u → ∃ t, o = .next t ∧
    (t.part p).subs = (u.part p).subs ++ [⟨va.toNat, ti.ctx, p, .thread ti (u.thr ti).uid, none, none, 0⟩] ∧
    (t.thr ti).wait = .sched ∧ (t.thr ti).ph.aux = rd.toNat ∧ (t.thr ti).pc = (u.thr ti).pc ∧
    (∀ pl, (t.thr ti).atPlace pl = (u.thr ti).atPlace pl) ∧ t.mem = u.mem ∧ t.runs = u.runs)

/-- The phase of the thread that issues is the thread's own. -/
theorem State.issues.setPhase_eq {s : State} {ti : SlotId} (h : s.issues ti) (x : Phase) :
    s.setPhase x = s.modThr ti fun t => { t with ph := x } := by
  simp only [State.issues] at h
  simp [State.setPhase, h, State.modMe, State.me]

theorem State.issues.th_modThr {s : State} {ti : SlotId} (h : s.issues ti) (f : Thread → Thread) : (s.modThr ti f).th = f (s.thr ti) := by
  rw [(h.modThr ti f).th_eq, State.thr_modThr]

theorem State.issues.waitMe_eq {s : State} {ti : SlotId} (h : s.issues ti) (w : Wait) :
    s.waitMe w = s.modThr ti fun t => { t with ph := { t.ph with len := s.cur.len }, wait := w } := by
  have hph : s.phase = (s.thr ti).ph := by
    simp only [State.issues] at h
    simp [State.phase, h, State.th, State.me]
  rw [State.waitMe, State.keepLen, h.setPhase_eq, State.modMe, State.issues.me_eq (h.modThr ti _), State.modThr_modThr, hph]
  rfl

theorem launchGoes_release {u0 : State} {ti : SlotId} (hi : u0.issues ti) (s : State) (rd : Reg) (va : W64) (p : Nat) (sc : Scope) :
    LaunchGoes rd va ti p u0 sc (finish s (u0.release sc false >>= submitLaunch rd va ti p)) := by
  constructor
  · intro t h
    rw [h, M.error_bind, finish_hold]
  · intro u h
    have hu : u.issues ti := (sameIssuer_release h).issues hi
    simp only [h, M.ok_bind, submitLaunch, hu.setPhase_eq, hu.th_eq]
    have hw : ∀ x, ((u.modThr ti fun t => { t with ph := { (u.thr ti).ph with aux := rd.toNat } }).setPart p x).issues ti := fun _ => hu
    refine ⟨_, rfl, ?_⟩
    rw [(hw _).waitMe_eq]
    simp [Thread.atPlace, hu.th_modThr]

/-- The RCB of a LAUNCH refused at once, in memory of this device. -/
theorem State.refuseAt_here {s : State} {ti : SlotId} (hi : s.issues ti) {k : Key} (h : ∀ d o, k.cls ≠ .peer d o) :
    s.refuseAt k = s.sysWord (s.partOf ti.die) ti.ctx (k.pa + 0x20) (4 + 1 * 16) := by
  unfold State.refuseAt
  rw [hi.me_eq]
  split
  · next d o e => exact absurd e (h d o)
  · rfl

/-- The RCB of a LAUNCH refused at once, at a peer. -/
theorem State.refuseAt_peer {s : State} {ti : SlotId} (hi : s.issues ti) {k : Key} {d o : Nat} (h : k.cls = .peer d o) :
    s.refuseAt k = s.toStream ti d (.update (o + 0x20) .replace .d false 20#64) false := by
  simp only [State.refuseAt, hi.me_eq, h]
  rfl

/-- PLACE, in the control doubleword of an RCB (R34). -/
theorem place_field (ctl : Nat) : nfld ctl 48 2 = ctl / 2 ^ 48 % 4 := nfld_eq ctl 48 2

section
variable {s : State} {k : Key} {ctl st p : Nat} {ti : SlotId}

/-- An RCB in use is answered with 6. -/
theorem launchRead_taken (rd : Reg) (va : W64) (h : st % 16 ≠ 0 ∨ (s.th.ph.stage = 1 ∧ s.rcbLive p none (k.pa - 0x18) = true)) :
    launchRead rd va ti p k ctl st s = .ok (s.setReg rd 6#64).fall := if_pos h

variable (h : ¬ (st % 16 ≠ 0 ∨ (s.th.ph.stage = 1 ∧ s.rcbLive p none (k.pa - 0x18) = true)))
include h

/-- PLACE 3 is refused at once. -/
theorem launchRead_refused (rd : Reg) (va : W64) (hp : ctl / 2 ^ 48 % 4 = 3) :
    launchRead rd va ti p k ctl st s = .ok ((s.refuseAt k).setReg rd 1#64).fall := by
  rw [launchRead, if_neg h, place_field, if_pos hp]

/-- Any other PLACE goes on to its release. -/
theorem launchRead_goes (hi : s.issues ti) (s0 : State) (rd : Reg) (va : W64) (hp : ctl / 2 ^ 48 % 4 ≠ 3) :
    LaunchGoes rd va ti p (s.setPhase { s.th.ph with stage := 2 }) (placeScope (ctl / 2 ^ 48 % 4))
      (finish s0 (launchRead rd va ti p k ctl st s)) := by
  rw [launchRead, if_neg h, place_field, if_neg hp]
  exact launchGoes_release ((sameIssuer_setPhase s _).issues hi) s0 rd va p _

end

/-! ### Choosing the first of the best -/

section
variable {α : Type} {f : Option α → α → Option α} {better : α → α → Bool}
  (h1 : ∀ y x, f (some y) x = if better x y = true then some x else some y) (hirr : ∀ x, better x x = false)
  (htr : ∀ x y z, better x y = true → better y z = true → better x z = true)
include h1 hirr htr

/-- A choice that begins with y ends at y or at one better than y, and nothing it has met is better than that. -/
theorem foldl_choice_from (l : List α) (y : α) :
    ∃ m ∈ y :: l, l.foldl f (some y) = some m ∧ (m = y ∨ better m y = true) ∧ ∀ z ∈ y :: l, better z m = false := by
  induction l generalizing y with
  | nil =>
    refine ⟨y, List.mem_cons_self, rfl, .inl rfl, fun z hz => ?_⟩
    obtain rfl := List.mem_singleton.1 hz
    exact hirr z
  | cons x l ih =>
    rw [List.foldl_cons, h1]
    by_cases hxy : better x y = true
    · obtain ⟨m, hm, he, hmx, hmax⟩ := ih x
      have hmy : better m y = true := by
        rcases hmx with rfl | hmx
        · exact hxy
        · exact htr m x y hmx hxy
      rw [if_pos hxy]
      refine ⟨m, List.mem_cons_of_mem _ hm, he, .inr hmy, fun z hz => ?_⟩
      rcases List.mem_cons.1 hz with rfl | hz
      · refine Bool.eq_false_iff.2 fun hzm => ?_
        exact Bool.eq_false_iff.1 (hirr z) (htr z m z hzm hmy)
      · exact hmax z hz
    · obtain ⟨m, hm, he, hmy, hmax⟩ := ih y
      rw [if_neg hxy]
      refine ⟨m, ?_, he, hmy, fun z hz => ?_⟩
      · rcases List.mem_cons.1 hm with rfl | hm
        · exact List.mem_cons_self
        · exact List.mem_cons_of_mem _ (List.mem_cons_of_mem _ hm)
      rcases List.mem_cons.1 hz with rfl | hz
      · exact hmax z List.mem_cons_self
      rcases List.mem_cons.1 hz with rfl | hz
      · refine Bool.eq_false_iff.2 fun hzm => ?_
        rcases hmy with rfl | hmy
        · exact hxy hzm
        · exact hxy (htr z m y hzm hmy)
      · exact hmax z (List.mem_cons_of_mem _ hz)

/-- The model's choices: one that replaces what it keeps by what is better ends at one that nothing of the list is better than. -/
theorem foldl_choice (h0 : ∀ x, f none x = some x) {l : List α} (hl : l ≠ []) :
    ∃ m ∈ l, l.foldl f none = some m ∧ ∀ z ∈ l, better z m = false := by
  obtain ⟨y, l, rfl⟩ := List.exists_cons_of_ne_nil hl
  obtain ⟨m, hm, he, -, hmax⟩ := foldl_choice_from h1 hirr htr l y
  refine ⟨m, hm, ?_, hmax⟩
  rw [List.foldl_cons, h0, he]

end

/-- The greatest value of a list is reached, and nothing exceeds it. -/
theorem foldl_max_reached {α : Type} (g : α → Nat) (l : List α) (a : Nat) :
    (∀ x ∈ l, g x ≤ l.foldl (fun m x => max m (g x)) a) ∧ a ≤ l.foldl (fun m x => max m (g x)) a ∧
    (l.foldl (fun m x => max m (g x)) a = a ∨ ∃ x ∈ l, g x = l.foldl (fun m x => max m (g x)) a) := by
  induction l generalizing a with
  | nil => simp
  | cons x l ih =>
    obtain ⟨hle, ha, hr⟩ := ih (max a (g x))
    rw [List.foldl_cons]
    refine ⟨fun z hz => ?_, Nat.le_trans (Nat.le_max_left _ _) ha, ?_⟩
    · rcases List.mem_cons.1 hz with rfl | hz
      · exact Nat.le_trans (Nat.le_max_right _ _) ha
      · exact hle z hz
    · rcases hr with hr | ⟨z, hz, hr⟩
      · rcases Nat.le_total (g x) a with h | h
        · exact .inl (hr.trans (Nat.max_eq_left h))
        · exact .inr ⟨x, List.mem_cons_self, (hr.trans (Nat.max_eq_right h)).symm⟩
      · exact .inr ⟨z, List.mem_cons_of_mem _ hz, hr⟩

/-! ### The submission that is answered next (R343) -/

theorem State.nextSub_spec (s : State) (p : Nat) {subs : List Sub} (h : subs ≠ []) :
    ∃ y, s.nextSub p subs = some y ∧ y ∈ subs ∧ ∀ z ∈ subs, s.subPrio z < s.subPrio y ∨ s.subPrio z = s.subPrio y ∧
      (y.turn + 64 - aget 64 (s.part p).qturn (s.subPrio y)) % 65 ≤ (z.turn + 64 - aget 64 (s.part p).qturn (s.subPrio y)) % 65 := by
  obtain ⟨hle, -, hr⟩ := foldl_max_reached s.subPrio subs 0
  unfold State.nextSub
  extract_lets top last
  have htop : ∃ x ∈ subs, s.subPrio x = top := by
    rcases hr with hr | hr
    · obtain ⟨x, l, rfl⟩ := List.exists_cons_of_ne_nil h
      exact ⟨x, List.mem_cons_self, Nat.le_antisymm (hle x List.mem_cons_self) (Nat.le_trans (Nat.le_of_eq hr) (Nat.zero_le _))⟩
    · exact hr
  obtain ⟨x, hx, hxt⟩ := htop
  have hne : subs.filter (fun x => s.subPrio x == top) ≠ [] :=
    List.ne_nil_of_mem (List.mem_filter.2 ⟨hx, beq_iff_eq.2 hxt⟩)
  obtain ⟨y, hy, he, hmin⟩ := foldl_choice (f := fun b x => match b with
    | none => some x
    | some y => if turnBefore last x.turn y.turn then some x else some y) (better := fun x y => turnBefore last x.turn y.turn)
    (fun _ _ => rfl) (by simp [turnBefore])
    (fun x y z hxy hyz => by simp only [turnBefore, decide_eq_true_eq] at *; omega) (fun _ => rfl) hne
  obtain ⟨hys, hyt⟩ := List.mem_filter.1 hy
  have hyt : s.subPrio y = top := beq_iff_eq.1 hyt
  refine ⟨y, he, hys, fun z hz => ?_⟩
  rw [hyt]
  rcases Nat.lt_or_eq_of_le (hle z hz) with hlt | heq
  · exact .inl hlt
  · exact .inr ⟨heq, Nat.not_lt.1 (of_decide_eq_false (hmin z (List.mem_filter.2 ⟨hz, beq_iff_eq.2 heq⟩)))⟩

/-! ### Acceptance (R38, R343) -/

/-- The submissions of a partition whose thread, if one made it, still waits for its answer. -/
def State.waitingSubs (s : State) (p : Nat) : List Sub :=
  (s.part p).subs.filter fun y => match y.origin with
    | .thread ti uid => (s.thr ti).wait == .sched && (s.thr ti).live && (s.thr ti).uid == uid
    | _ => true

/-- The scheduler takes submission y: it leaves the list, and its queue has had its turn. -/
def State.takeSub (s : State) (p : Nat) (y : Sub) : State :=
  s.setPart p { s.part p with subs := (s.waitingSubs p).erase y, qturn := aset (s.part p).qturn (s.subPrio y) y.turn }

theorem exec_launchAccept_eq (s : State) : exec .launchAccept s =
    match s.nextSub s.cur.ev.p (s.waitingSubs s.cur.ev.p) with
    | none => .next (s.setPart s.cur.ev.p { s.part s.cur.ev.p with subs := s.waitingSubs s.cur.ev.p })
    | some x => if 4096 ≤ s.liveCount s.cur.ev.p then .next s
      else match (s.takeSub s.cur.ev.p x).acceptSub x with
        | .ok t => .next t
        | .error t => .next ((s.keepWalks t).keepAsked t) := rfl

section
variable {s : State}

theorem launchAccept_idle (h : s.waitingSubs s.cur.ev.p = []) :
    exec .launchAccept s = .next (s.setPart s.cur.ev.p { s.part s.cur.ev.p with subs := [] }) := by
  rw [exec_launchAccept_eq, h]; rfl

variable {y : Sub} (h : s.nextSub s.cur.ev.p (s.waitingSubs s.cur.ev.p) = some y)
include h

theorem launchAccept_full (hf : 4096 ≤ s.liveCount s.cur.ev.p) : exec .launchAccept s = .next s := by
  rw [exec_launchAccept_eq, h]; exact if_pos hf

theorem launchAccept_answers (hf : s.liveCount s.cur.ev.p < 4096) {t : State} (ht : (s.takeSub s.cur.ev.p y).acceptSub y = .ok t) :
    exec .launchAccept s = .next t := by
  simp only [exec_launchAccept_eq, h, if_neg (Nat.not_le.2 hf), ht]

theorem launchAccept_waits (hf : s.liveCount s.cur.ev.p < 4096) {t : State} (ht : (s.takeSub s.cur.ev.p y).acceptSub y = .error t) :
    exec .launchAccept s = .next ((s.keepWalks t).keepAsked t) := by
  simp only [exec_launchAccept_eq, h, if_neg (Nat.not_le.2 hf), ht]

end

/-- The translation of the address that a submission names. -/
def State.subKey (s : State) (x : Sub) : XR := s.xlatePart x.unit ((s.partDies x.p).headD x.p) x.ctx x.va .read true

section
variable {s u : State} {x : Sub} {pa : Nat}

theorem acceptSub_of_fault (h : s.subKey x = .fault u) : s.acceptSub x = .ok (u.unreadSub x) := by
  rw [State.subKey] at h
  simp only [State.acceptSub, h]

theorem acceptSub_of_wait (h : s.subKey x = .wait u) : s.acceptSub x = .error u := by
  rw [State.subKey] at h
  simp only [State.acceptSub, h]

theorem acceptSub_of_noMemory (h : s.subKey x = .ok pa u) (hm : u.isMemory x.p pa = false) : s.acceptSub x = .ok (u.unreadSub x) := by
  rw [State.subKey] at h
  simp only [State.acceptSub, h, hm]; rfl

theorem acceptSub_of_heldWord (h : s.subKey x = .ok pa u) (hm : u.isMemory x.p pa = true) {z : State}
    (hw : u.subWords x pa = .error (.wait z)) : s.acceptSub x = .error z := by
  rw [State.subKey] at h
  simp only [State.acceptSub, h, hm, hw]; rfl

theorem acceptSub_of_read (h : s.subKey x = .ok pa u) (hm : u.isMemory x.p pa = true) {w : List Nat} {v : State}
    (hw : u.subWords x pa = .ok (w, v)) : s.acceptSub x = v.checkSub x pa w := by
  rw [State.subKey] at h
  simp only [State.acceptSub, h, hm, hw]; rfl

end

/-! ### The order of checks on an RCB (R34, R38) -/

/-- Did a thread make the submission? -/
def Sub.isThr (x : Sub) : Bool := match x.origin with | .thread _ _ => true | _ => false

theorem Sub.isThr_iff (x : Sub) : x.isThr = true ↔ ∃ ti uid, x.origin = .thread ti uid := by
  unfold Sub.isThr; cases x.origin <;> simp
theorem Sub.isRec_iff (x : Sub) : x.isRec = true ↔ ∃ a b i, x.origin = .record a b i := by
  unfold Sub.isRec; cases x.origin <;> simp

/-- The RCB of a submission that shows the answer: none for a record's template. -/
def Sub.rcb (x : Sub) (pa : Nat) : Option Nat := match x.origin with | .record _ _ _ => none | _ => some pa

theorem Sub.rcb_eq (x : Sub) (pa : Nat) : (if x.isRec = true then none else some pa) = x.rcb pa := by
  unfold Sub.isRec Sub.rcb; cases x.origin <;> rfl

/-- State, REASON and GROUPS_DONE are written into the RCB of a submission, if it has one of its own. -/
def State.putRcb (s : State) (x : Sub) (pa v : Nat) : State :=
  match x.rcb pa with | some a => s.sysWord x.p x.ctx (a + 0x38) v | none => s

theorem rcbWord_refused (r : Nat) : rcbWord 4 r 0 = 4 + r % 16 * 16 := by simp [rcbWord]

theorem refuseSub_six (s : State) (x : Sub) (a : Option Nat) : s.refuseSub x a 6 = s.answerSub x 6 := by
  cases a <;> rfl
theorem refuseSub_of_ne_six (s : State) (x : Sub) (pa : Nat) {r : Nat} (h : r ≠ 6) :
    s.refuseSub x (x.rcb pa) r = (s.putRcb x pa (4 + r % 16 * 16)).answerSub x r := by
  unfold State.refuseSub State.putRcb
  cases x.rcb pa with
  | none => rfl
  | some a => simp only [if_neg h, rcbWord_refused]

/-- A field of an RCB. -/
def rcbField (w : List Nat) (i lo n : Nat) : Nat := w.getD i 0 / 2 ^ lo % 2 ^ n

/-- R34's bounds on an RCB, and the PLACE that only a thread may give (REASON 1). -/
theorem launchRcbOk_iff (w : List Nat) (thr : Bool) : launchRcbOk w thr = true ↔
    rcbField w 3 50 14 = 0 ∧ rcbField w 4 38 26 = 0 ∧ rcbField w 7 8 24 = 0 ∧ rcbField w 1 0 64 % 2 = 0 ∧
    1 ≤ rcbField w 3 32 7 ∧ rcbField w 3 32 7 ≤ 64 ∧ (rcbField w 3 39 1 = 1 → rcbField w 3 32 7 ≤ 60) ∧ rcbField w 3 48 2 ≠ 3 ∧
    (¬ thr = true → rcbField w 3 48 2 = 0) ∧ rcbField w 4 0 32 % 4096 = 0 ∧ rcbField w 4 0 32 ≤ 0x40000 ∧ rcbField w 4 32 6 ≤ 16 := by
  have hodd : w.getD 1 0 % 2 ^ 64 % 2 = w.getD 1 0 % 2 := Nat.mod_mod_of_dvd _ (by decide)
  simp only [launchRcbOk, rcbCommon, rcbSize, rcbRowh, rcbPlace, rcbSp, rcbOp, rcbCtl, nfld_eq, nbit_eq, rcbField,
    Nat.testBit_eq_decide_div_mod_eq, Bool.and_eq_true, Bool.or_eq_true, beq_iff_eq, bne_iff_ne, decide_eq_true_eq,
    Bool.not_eq_true', Bool.and_eq_false_imp, decide_eq_false_iff_not, Nat.not_lt, Nat.pow_zero, Nat.div_one, Nat.pow_one, hodd,
    and_assoc, Decidable.imp_iff_not_or, Bool.not_eq_true, Bool.not_eq_false]

/-- The RCB of a submission is in use (REASON 6). -/
def State.rcbTaken (s : State) (x : Sub) (pa : Nat) (w : List Nat) : Prop :=
  x.isRec = false ∧ (rcbField w 7 0 4 ≠ 0 ∨ s.rcbLive x.p none pa = true)

theorem State.rcbTaken_iff (s : State) (x : Sub) (pa : Nat) (w : List Nat) :
    (!x.isRec && (s.rcbLive x.p none pa || rcbState w != 0)) = true ↔ s.rcbTaken x pa w := by
  simp [State.rcbTaken, rcbState, nfld_eq, rcbField, or_comm]

/-- A submission whose parent is known is refused for what its groups need, or becomes a launch (R38). -/
def State.enterSub (s : State) (x : Sub) (pa : Nat) (w : List Nat) (par : PRes) : Except State State :=
  let l := s.launchOfSub x w pa par
  if s.fitReason l ≠ 0 then .ok ((s.dropAns x.reader).refuseSub x (x.rcb pa) (s.fitReason l))
  else .ok (((({ s with launches := s.launches ++ [(s.fresh, l)] } : State).newId.putRcb x pa 1).dropAns x.reader).answerSub x 0)

theorem State.checkSub_eq (s : State) (x : Sub) (pa : Nat) (w : List Nat) : s.checkSub x pa w =
    if (!x.isRec && (s.rcbLive x.p none pa || rcbState w != 0)) = true then .ok ((s.dropAns x.reader).refuseSub x (x.rcb pa) 6)
    else if (!launchRcbOk w x.isThr) = true then .ok ((s.dropAns x.reader).refuseSub x (x.rcb pa) 1)
    else match s.parentOf x (w.getD 0 0) with
      | .bad r z => .ok ((z.dropAns x.reader).refuseSub x (x.rcb pa) r)
      | .wait z => .error z
      | .device d z => z.enterSub x pa w (.device d z)
      | .launch l z => z.enterSub x pa w (.launch l z) := by
  simp only [State.checkSub, Sub.rcb_eq]
  rfl

section
variable {s : State} {x : Sub} {pa : Nat} {w : List Nat}

theorem checkSub_taken (h : s.rcbTaken x pa w) : s.checkSub x pa w = .ok ((s.dropAns x.reader).answerSub x 6) := by
  rw [State.checkSub_eq, if_pos ((s.rcbTaken_iff x pa w).2 h), refuseSub_six]

variable (h : ¬ s.rcbTaken x pa w)
include h

theorem checkSub_invalid (hv : ¬ launchRcbOk w x.isThr = true) :
    s.checkSub x pa w = .ok (((s.dropAns x.reader).putRcb x pa (4 + 1 % 16 * 16)).answerSub x 1) := by
  rw [State.checkSub_eq, if_neg (mt (s.rcbTaken_iff x pa w).1 h), if_pos (by simpa using hv), refuseSub_of_ne_six _ _ _ (by decide)]

variable (hv : launchRcbOk w x.isThr = true)
include hv

theorem checkSub_badParent {r : Nat} {z : State} (hp : s.parentOf x (w.getD 0 0) = .bad r z) (hr : r ≠ 6) :
    s.checkSub x pa w = .ok (((z.dropAns x.reader).putRcb x pa (4 + r % 16 * 16)).answerSub x r) := by
  rw [State.checkSub_eq, if_neg (mt (s.rcbTaken_iff x pa w).1 h), if_neg (by simpa using hv), hp]
  exact congrArg _ (refuseSub_of_ne_six _ _ _ hr)

theorem checkSub_waitParent {z : State} (hp : s.parentOf x (w.getD 0 0) = .wait z) : s.checkSub x pa w = .error z := by
  rw [State.checkSub_eq, if_neg (mt (s.rcbTaken_iff x pa w).1 h), if_neg (by simpa using hv), hp]

theorem checkSub_parent {par : PRes} {z : State} (hp : s.parentOf x (w.getD 0 0) = par)
    (hpar : (∃ d, par = .device d z) ∨ ∃ l, par = .launch l z) : s.checkSub x pa w = z.enterSub x pa w par := by
  rw [State.checkSub_eq, if_neg (mt (s.rcbTaken_iff x pa w).1 h), if_neg (by simpa using hv), hp]
  rcases hpar with ⟨_, rfl⟩ | ⟨_, rfl⟩ <;> rfl

end

section
variable {s : State} {x : Sub} {pa : Nat} {w : List Nat} {par : PRes}

theorem enterSub_unfit (h : s.fitReason (s.launchOfSub x w pa par) ≠ 0) (h6 : s.fitReason (s.launchOfSub x w pa par) ≠ 6) :
    s.enterSub x pa w par = .ok (((s.dropAns x.reader).putRcb x pa (4 + s.fitReason (s.launchOfSub x w pa par) % 16 * 16)).answerSub x
      (s.fitReason (s.launchOfSub x w pa par))) := by
  rw [State.enterSub, if_pos h, refuseSub_of_ne_six _ _ _ h6]

theorem enterSub_fit (h : s.fitReason (s.launchOfSub x w pa par) = 0) :
    s.enterSub x pa w par = .ok (((({ s with launches := s.launches ++ [(s.fresh, s.launchOfSub x w pa par)] } : State).newId.putRcb x pa 1).dropAns
      x.reader).answerSub x 0) := by
  rw [State.enterSub, if_neg (fun hn => hn h)]

end

theorem launchOfSub_rcb (s : State) (x : Sub) (w : List Nat) (pa : Nat) (par : PRes) : (s.launchOfSub x w pa par).rcb = x.rcb pa :=
  x.rcb_eq pa

theorem launchOfSub_tmpl (s : State) (x : Sub) (w : List Nat) (pa : Nat) (par : PRes) :
    (s.launchOfSub x w pa par).tmpl = if x.rcb pa = none then some pa else none := by
  have h : (s.launchOfSub x w pa par).tmpl = if x.isRec = true then some pa else none := rfl
  rw [h, ← x.rcb_eq pa]
  cases x.isRec <;> rfl

/-! ### Room on a cluster (R29 to R32, R291, R344) -/

theorem rowFor_spec {free : List Nat} {k b : Nat} {rowh : Bool} (h : rowFor free k rowh = some b) :
    b + k ≤ (if rowh = true then 15 else 16) ∧ ∀ i, i < k → b + i ∈ free := by
  have := List.find?_some h
  simpa using this

theorem mem_freeRows {s : State} {d cl c r : Nat} (h : r ∈ s.freeRows d cl c) :
    ∀ g ∈ s.groupsOn d cl c, r < g.row ∨ g.row + groupRows g.n ≤ r := by
  have h := (List.mem_filter.1 h).2
  simp only [Bool.and_eq_true, List.all_eq_true, Bool.or_eq_true, decide_eq_true_eq] at h
  exact h.1.2

/-- Rows found free for k rows meet no group that holds a row. -/
theorem rows_apart {s : State} {d cl c row k : Nat} (hk : 0 < k) (h : ∀ i, i < k → row + i ∈ s.freeRows d cl c) {g : Group}
    (hg : g ∈ s.groupsOn d cl c) (hn : g.n ≠ 0) : row + k ≤ g.row ∨ g.row + (g.n + 3) / 4 ≤ row := by
  have hrow : ∀ i, i < k → row + i < g.row ∨ g.row + (g.n + 3) / 4 ≤ row + i := fun i hi => mem_freeRows (h i hi) g hg
  by_cases hlow : row < g.row
  · refine .inl (Nat.not_lt.1 fun hlt => ?_)
    rcases hrow (g.row - row) (by omega) with h | h <;> omega
  · rcases hrow 0 hk with h | h <;> omega

theorem minNat_eq (l : List Nat) : minNat l = l.min? := by cases l <;> rfl

theorem spFor_spec {gs : List Group} {top n b : Nat} (hn : n ≠ 0) (h : spFor gs top n = some b) :
    b + n ≤ top ∧ ∀ g ∈ gs, g.spSize ≠ 0 → b + n ≤ g.spBase ∨ g.spBase + g.spSize ≤ b := by
  rw [spFor, if_neg hn, minNat_eq] at h
  have hb : b + n ≤ top ∧ ∀ g ∈ gs, g.spSize = 0 ∨ b + n ≤ g.spBase ∨ g.spBase + g.spSize ≤ b := by
    simpa using (List.mem_filter.1 (List.min?_mem h)).2
  exact ⟨hb.1, fun g hg hs => (hb.2 g hg).resolve_left hs⟩

theorem mem_opFree {gs : List Group} {top k : Nat} : k ∈ opFree gs top ↔ k < top ∧ ∀ g ∈ gs, k ∉ g.opPhys := by
  simp [opFree]

theorem roomFor_spec {s : State} {x : Launch} {d cl row base : Nat} {ops : List Nat} (h : s.roomFor x d cl = some (row, base, ops)) :
    rowFor (s.freeRows d cl x.ctx) (groupRows x.size) x.rowh = some row ∧
    spFor (s.groupsOn d cl x.ctx) (0x40000 - (s.ctx x.p x.ctx).resSp) x.spGroup = some base ∧
    ops = (opFree (s.groupsOn d cl x.ctx) (16 - (s.ctx x.p x.ctx).resOp)).take x.opGroup ∧
    x.opGroup ≤ (opFree (s.groupsOn d cl x.ctx) (16 - (s.ctx x.p x.ctx).resOp)).length := by
  simp only [State.roomFor, Option.bind_eq_bind, Option.bind_eq_some_iff] at h
  obtain ⟨r, hr, b, hb, h⟩ := h
  split at h
  · cases h
  · next hlen => cases h; exact ⟨hr, hb, rfl, Nat.not_lt.1 hlen⟩

/-- The room found for a group lies free, and below the Tilth's reservation (R291). -/
theorem roomFor_free {s : State} {x : Launch} {d cl row base : Nat} {ops : List Nat} (h1 : 1 ≤ x.size)
    (h : s.roomFor x d cl = some (row, base, ops)) :
    ops.length = x.opGroup ∧ ops.Nodup ∧ (∀ k ∈ ops, k < 16 - (s.ctx x.p x.ctx).tilth.toNat / 2 ^ 32 % 2 ^ 6) ∧
    (x.spGroup ≠ 0 → base + x.spGroup ≤ 0x40000 - (s.ctx x.p x.ctx).tilth.toNat % 2 ^ 32) ∧
    row + (x.size + 3) / 4 ≤ (if x.rowh = true then 15 else 16) ∧
    ∀ g ∈ s.groupsOn d cl x.ctx, (∀ k ∈ ops, k ∉ g.opPhys) ∧
      (g.n ≠ 0 → row + (x.size + 3) / 4 ≤ g.row ∨ g.row + (g.n + 3) / 4 ≤ row) ∧
      (x.spGroup ≠ 0 → g.spSize ≠ 0 → base + x.spGroup ≤ g.spBase ∨ g.spBase + g.spSize ≤ base) := by
  obtain ⟨hrow, hsp, rfl, hlen⟩ := roomFor_spec h
  obtain ⟨htop, hfree⟩ := rowFor_spec hrow
  have hop : ∀ k ∈ (opFree (s.groupsOn d cl x.ctx) (16 - (s.ctx x.p x.ctx).resOp)).take x.opGroup,
      k < 16 - (s.ctx x.p x.ctx).resOp ∧ ∀ g ∈ s.groupsOn d cl x.ctx, k ∉ g.opPhys := fun k hk =>
    mem_opFree.1 (List.mem_of_mem_take hk)
  have hresOp : (s.ctx x.p x.ctx).resOp = (s.ctx x.p x.ctx).tilth.toNat / 2 ^ 32 % 2 ^ 6 := fld_eq _ _ _
  have hresSp : (s.ctx x.p x.ctx).resSp = (s.ctx x.p x.ctx).tilth.toNat % 2 ^ 32 := by
    rw [Ctx.resSp, fld_eq, Nat.pow_zero, Nat.div_one]
  refine ⟨by rw [List.length_take]; exact Nat.min_eq_left hlen, (List.nodup_range.filter _).take, fun k hk => ?_, fun hn => ?_, htop,
    fun g hg => ⟨fun k hk => ?_, fun hn => ?_, fun hn hs => ?_⟩⟩
  · rw [← hresOp]; exact (hop k hk).1
  · rw [← hresSp]; exact (spFor_spec hn hsp).1
  · exact (hop k hk).2 g hg
  · exact rows_apart (by rw [groupRows]; omega) hfree hg hn
  · exact (spFor_spec hn hsp).2 g hg hs

/-! ### Aging (R345) -/

/-- Aging may change which launch blocks in a partition, and nothing else. -/
theorem State.age_eq (s : State) (p : Nat) : ∃ b, s.age p = s ∨ s.age p = s.setPart p { s.part p with blocking := b } := by
  unfold State.age
  extract_lets q valid best
  split
  · exact ⟨none, .inl rfl⟩
  · exact ⟨_, .inr rfl⟩

/-- The launches of a partition that have reached their blocking age. -/
def State.overdue (s : State) (p : Nat) : List (Nat × Launch) :=
  s.launches.filter fun l => l.2.p == p && s.unplaced l.2 && decide (l.2.blockAt ≤ s.clk)

theorem age_of_blocking {s : State} {p b : Nat} {y : Nat × Launch} (hb : (s.part p).blocking = some b) (hy : y ∈ s.overdue p) (h : y.1 = b) :
    s.age p = s := by
  unfold State.age
  extract_lets q valid best
  have hv : valid = true := by
    simp only [valid, hb, List.any_eq_true, beq_iff_eq]
    exact ⟨y, hy, h⟩
  rw [if_pos hv]

/-- Where no blocking launch stands, the first of the overdue ones blocks, if there is one. -/
theorem age_of_not_blocking {s : State} {p : Nat} (h : ∀ b y, (s.part p).blocking = some b → y ∈ s.overdue p → y.1 ≠ b) :
    (s.overdue p = [] → s.age p = s.setPart p { s.part p with blocking := none }) ∧
    (s.overdue p ≠ [] → ∃ y ∈ s.overdue p, (∀ z ∈ s.overdue p, y.2.blockAt ≤ z.2.blockAt) ∧
      s.age p = s.setPart p { s.part p with blocking := some y.1 }) := by
  unfold State.age
  extract_lets q valid best
  have hv : ¬ valid = true := by
    simp only [valid]
    split
    · next b hb =>
      rw [List.any_eq_true]
      rintro ⟨y, hy, he⟩
      exact h b y hb hy (beq_iff_eq.1 he)
    · decide
  rw [if_neg hv]
  refine ⟨fun hq => ?_, fun hq => ?_⟩
  · have hb : best = none := by
      have hq : q = [] := hq
      simp only [best, hq]; rfl
    rw [hb]; rfl
  · obtain ⟨y, hy, he, hmin⟩ := foldl_choice (f := fun b l => match b with
      | none => some l
      | some y => if l.2.blockAt < y.2.blockAt then some l else some y)
      (better := fun (l y : Nat × Launch) => decide (l.2.blockAt < y.2.blockAt))
      (fun _ _ => by simp only [decide_eq_true_eq]) (fun _ => decide_eq_false (Nat.lt_irrefl _))
      (fun x y z hxy hyz => by simp only [decide_eq_true_eq] at *; omega) (fun _ => rfl) hq
    have hb : best = some y := he
    exact ⟨y, hy, fun z hz => Nat.not_lt.1 (of_decide_eq_false (hmin z hz)), by rw [hb]; rfl⟩

/-! ### Placement (R17, R30, R40, R42, R344) -/

/-- The clusters that can take the next group of a launch. -/
def State.candidates (s : State) (l : Nat) (x : Launch) : List (Nat × Nat) :=
  (s.placeSet x).filter fun k => !(s.keptFrom l x.p k.1 k.2) && (s.roomFor x k.1 k.2).isSome

/-- R344's order of two clusters, written out. -/
theorem betterClu_iff (prev : Nat) (a b : Nat × Nat × Nat) : betterClu prev a b = true ↔
    b.1 < a.1 ∨ a.1 = b.1 ∧ ((a.2.1 + 7 - prev) % 8 < (b.2.1 + 7 - prev) % 8 ∨ a.2.1 = b.2.1 ∧ a.2.2 < b.2.2) := by
  simp [betterClu]

/-- The cluster that R344 names for the next group of a launch, with its free rows. -/
def State.bestCluster (s : State) (l : Nat) (x : Launch) : Option (Nat × Nat × Nat) :=
  ((s.candidates l x).map fun k => ((s.freeRows k.1 k.2 x.ctx).length, k.1, k.2)).foldl (fun b k => match b with
    | none => some k
    | some y => if betterClu (s.part x.p).prevDie k y then some k else some y) none

theorem placeOne_eq {s : State} {l : Nat} {x : Launch} (hx : aget? s.launches l = some x)
    (hcap : s.capsOk x.p x.ctx (some l) x.cost 1 false = true) : s.placeOne l =
    (s.bestCluster l x).bind fun b => (s.roomFor x b.2.1 b.2.2).bind fun room => some (s.placeOn l x b.2.1 b.2.2 room) := by
  have hf : (!s.capsOk x.p x.ctx (some l) x.cost 1 false) = false := by rw [hcap]; rfl
  simp only [State.placeOne, hx, Option.bind_eq_bind, Option.bind_some, hf, Bool.false_eq_true, if_false]
  rfl

/-- A candidate that is better than every other is the best cluster. -/
theorem bestCluster_eq {s : State} {l : Nat} {x : Launch} {d cl : Nat} (hc : (d, cl) ∈ s.candidates l x)
    (hbest : ∀ k ∈ s.candidates l x, k = (d, cl) ∨
      betterClu (s.part x.p).prevDie ((s.freeRows d cl x.ctx).length, d, cl) ((s.freeRows k.1 k.2 x.ctx).length, k.1, k.2) = true) :
    s.bestCluster l x = some ((s.freeRows d cl x.ctx).length, d, cl) := by
  have hne : (s.candidates l x).map (fun k => ((s.freeRows k.1 k.2 x.ctx).length, k.1, k.2)) ≠ [] := by
    simpa using List.ne_nil_of_mem hc
  obtain ⟨m, hm, he, hmax⟩ := foldl_choice (f := fun b k => match b with
      | none => some k
      | some y => if betterClu (s.part x.p).prevDie k y then some k else some y) (better := betterClu (s.part x.p).prevDie)
    (fun _ _ => rfl) (fun a => by simp [betterClu])
    (fun a b c hab hbc => by rw [betterClu_iff] at *; omega) (fun _ => rfl) hne
  obtain ⟨k, hk, rfl⟩ := List.mem_map.1 hm
  rcases hbest k hk with rfl | hb
  · exact he
  · rw [hmax _ (List.mem_map_of_mem hc)] at hb; cases hb

/-- R344's choice: a cluster that is better than every other candidate takes the group. -/
theorem placeOne_of_best {s : State} {l : Nat} {x : Launch} (hx : aget? s.launches l = some x)
    (hcap : s.capsOk x.p x.ctx (some l) x.cost 1 false = true) {d cl : Nat} (hc : (d, cl) ∈ s.candidates l x)
    (hbest : ∀ k ∈ s.candidates l x, k = (d, cl) ∨
      betterClu (s.part x.p).prevDie ((s.freeRows d cl x.ctx).length, d, cl) ((s.freeRows k.1 k.2 x.ctx).length, k.1, k.2) = true)
    {room : Nat × Nat × List Nat} (hr : s.roomFor x d cl = some room) : s.placeOne l = some (s.placeOn l x d cl room) := by
  rw [placeOne_eq hx hcap, bestCluster_eq hc hbest, Option.bind_some, hr, Option.bind_some]

/-- GROUP_PLACE, where the launch tried first can be placed. -/
theorem exec_groupPlace_of {s t : State} {r l : Nat} {x : Launch} {rest : List (Nat × Nat × Launch)}
    (ho : (s.age s.cur.ev.p).tryOrder s.cur.ev.p = (r, l, x) :: rest) (ht : (s.age s.cur.ev.p).placeNext l x = some t) :
    exec .groupPlace s = .next (t.setPart s.cur.ev.p { t.part s.cur.ev.p with
      turn := (List.range 8).map fun i => if i = r then l else (t.part s.cur.ev.p).turn.getD i 0 }) := by
  have he : exec .groupPlace s = execGroupPlace s := rfl
  rw [he, execGroupPlace]
  simp only [ho, List.findSome?_cons, ht, Option.map_some]

/-! ### What placing a group does -/

/-- The group that is placed. -/
def newGroup (l : Nat) (x : Launch) (d cl : Nat) (room : Nat × Nat × List Nat) : Group :=
  { launch := l, gi := x.next, die := d, clu := cl, ctx := x.ctx, row := room.1, n := x.size, spBase := room.2.1, spSize := x.spGroup
    opPhys := room.2.2, claimed := [], live := List.range x.size, ended := false, contained := false, contains := x.gcontain
    barArr := [], barRel := [], barps := [], barpRel := [], wd := 0, issued := false }

/-- The thread slots with a new group's threads in theirs. -/
def State.slotsWith (s : State) (l : Nat) (x : Launch) (d cl : Nat) (room : Nat × Nat × List Nat) : List (SlotId × Thread) :=
  (List.range x.size).foldl (fun m t => aset m ((newGroup l x d cl room).slot t) (newThread x s.fresh x.next t (s.fresh + 1 + t))) s.slots

/-- A group and its threads stand on the cluster. -/
def State.withThreads (s : State) (l : Nat) (x : Launch) (d cl : Nat) (room : Nat × Nat × List Nat) : State :=
  let t : State := { s with
    slots := s.slotsWith l x d cl room, groups := s.groups ++ [(s.fresh, newGroup l x d cl room)], fresh := s.fresh + 1 + x.size }
  let t := t.setHalf d cl x.ctx ((s.half d cl x.ctx).prepare (s.groupsOn d cl x.ctx).isEmpty room.2.1 x.spGroup s.fresh)
  (t.setCluster d cl { t.cluster d cl with icache := [] }).acquire d .dev

/-- The launch has counted the group too: all of a placement but what the RCB and the partition's registers show. -/
def State.withGroup (s : State) (l : Nat) (x : Launch) (d cl : Nat) (room : Nat × Nat × List Nat) : State :=
  (s.withThreads l x d cl room).modLaunch l fun y => { y with next := y.next + 1, state := 2, accAt := s.clk }

/-- What a placement adds to the group it places is the launch's STATE 2 and the partition's registers. -/
theorem placeOn_eq (s : State) (l : Nat) (x : Launch) (d cl : Nat) (room : Nat × Nat × List Nat) :
    ∃ u b, FenMoved (s.withGroup l x d cl room) u ∧ s.placeOn l x d cl room = u.setPart x.p { u.part x.p with prevDie := d, blocking := b } := by
  have hu : FenMoved (s.withGroup l x d cl room) (match x.rcb with
      | some pa => if x.state = 1 then (s.withGroup l x d cl room).sysWord x.p x.ctx (pa + 0x38) (rcbWord 2 0 x.seen) else s.withGroup l x d cl room
      | none => s.withGroup l x d cl room) := by
    split
    · split
      · exact fenMoved_sysWord _ _ _ _ _
      · exact .refl _
    · exact .refl _
  exact ⟨_, _, hu, rfl⟩

section
variable {κ α : Type} [DecidableEq κ] (z : α) (key : Nat → κ) (val : Nat → α)

/-- Entries written under n keys: any other key reads as before. -/
theorem aget_foldl_aset_ne (n : Nat) (m : List (κ × α)) {k : κ} (h : ∀ i, i < n → k ≠ key i) :
    aget z ((List.range n).foldl (fun m i => aset m (key i) (val i)) m) k = aget z m k := by
  induction n with
  | zero => rfl
  | succ n ih =>
    rw [List.range_succ, List.foldl_append, List.foldl_cons, List.foldl_nil, aget_aset_ne _ _ (h n n.lt_succ_self).symm]
    exact ih fun i hi => h i (Nat.lt_trans hi n.lt_succ_self)

/-- Entries written under n distinct keys read back. -/
theorem aget_foldl_aset (n : Nat) (m : List (κ × α)) (hinj : ∀ i j, key i = key j → i = j) {i : Nat} (hi : i < n) :
    aget z ((List.range n).foldl (fun m i => aset m (key i) (val i)) m) (key i) = val i := by
  induction n with
  | zero => cases hi
  | succ n ih =>
    rw [List.range_succ, List.foldl_append, List.foldl_cons, List.foldl_nil, aget_aset]
    split
    · next e => rw [hinj _ _ e]
    · next e => exact ih (Nat.lt_of_le_of_ne (Nat.le_of_lt_succ hi) fun h => e (h ▸ rfl))

end

theorem Group.slot_inj (g : Group) (i j : Nat) (h : g.slot i = g.slot j) : i = j := by
  simp only [Group.slot, SlotId.mk.injEq, true_and] at h
  omega

section
variable (s : State) (l : Nat) (x : Launch) (d cl : Nat) (room : Nat × Nat × List Nat)

theorem aget_slotsWith {i : Nat} (hi : i < x.size) :
    aget Thread.zero (s.slotsWith l x d cl room) ((newGroup l x d cl room).slot i) = newThread x s.fresh x.next i (s.fresh + 1 + i) :=
  aget_foldl_aset _ _ _ _ _ (Group.slot_inj _) hi

theorem aget_slotsWith_ne {tj : SlotId} (h : ∀ i, i < x.size → tj ≠ (newGroup l x d cl room).slot i) :
    aget Thread.zero (s.slotsWith l x d cl room) tj = s.thr tj :=
  aget_foldl_aset_ne _ _ _ _ _ h

end

/-- A new group's thread stands at ENTRY, with ARGS, its number and the group's in w0, w1 and w2 (R17). -/
theorem newThread_start (x : Launch) (gid gi t uid : Nat) :
    let z := newThread x gid gi t uid
    z.live = true ∧ z.pc = x.entry ∧ z.reg 0#5 = x.args ∧ z.reg 1#5 = BitVec.ofNat 64 t ∧ z.reg 2#5 = BitVec.ofNat 64 gi ∧
    z.grp = gid ∧ z.sup = false ∧ z.det = x.det := by
  refine ⟨by simp [newThread], by simp [newThread], ?_, ?_, ?_, by simp [newThread], by simp [newThread, Thread.zero], by simp [newThread]⟩
  · rw [newThread, Thread.reg_setReg_ne _ _ (by decide) (by decide) (by decide), Thread.reg_setReg_ne _ _ (by decide) (by decide) (by decide),
      Thread.reg_setReg _ _ _ (by decide)]
  · rw [newThread, Thread.reg_setReg_ne _ _ (by decide) (by decide) (by decide), Thread.reg_setReg _ _ _ (by decide)]
  · rw [newThread, Thread.reg_setReg _ _ _ (by decide)]

theorem State.modLaunch_of {s : State} {l : Nat} {x : Launch} (h : aget? s.launches l = some x) (f : Launch → Launch) :
    s.modLaunch l f = { s with launches := aset s.launches l (f x) } := by
  rw [State.modLaunch, h]

/-- The state in which a group has been placed, as far as groups, threads and launches go (R40, R42, R144). -/
theorem placeOn_spec {s : State} {l : Nat} {x : Launch} (hx : aget? s.launches l = some x) (d cl : Nat) (room : Nat × Nat × List Nat) :
    let t := s.placeOn l x d cl room
    t.slots = s.slotsWith l x d cl room ∧ t.groups = s.groups ++ [(s.fresh, newGroup l x d cl room)] ∧
    aget? t.launches l = some { x with next := x.next + 1, state := 2, accAt := s.clk } ∧
    (t.part x.p).prevDie = d ∧ (t.die d).granary = [] ∧ (t.cluster d cl).icache = [] := by
  obtain ⟨u, b, hu, ht⟩ := placeOn_eq s l x d cl room
  have hw : s.withGroup l x d cl room = { s.withThreads l x d cl room with
      launches := aset s.launches l { x with next := x.next + 1, state := 2, accAt := s.clk } } :=
    State.modLaunch_of (s := s.withThreads l x d cl room) hx _
  rw [hw] at hu
  have hd : ((s.withThreads l x d cl room).die d).granary = [] := by simp [State.withThreads, State.die, State.acquire]
  have hc : ((s.withThreads l x d cl room).cluster d cl).icache = [] := by simp [State.withThreads, State.cluster, State.acquire]
  rw [ht]
  refine ⟨hu.slots, hu.groups, ?_, by simp, ?_, ?_⟩
  · rw [State.setPart_launches, hu.launches, agetO_aset_self]
  · exact List.subset_nil.1 (hd ▸ hu.lines d)
  · rw [← hc, State.cluster, State.setPart_clusters, hu.clusters]; rfl

/-! ### What aging leaves as it was -/

section
variable (s : State) (p : Nat)

theorem age_rest : s.age p = { s with parts := (s.age p).parts } := by
  rcases s.age_eq p with ⟨b, h | h⟩
  · rw [h]
  · rw [h]; rfl

theorem age_slots : (s.age p).slots = s.slots := (congrArg State.slots (age_rest s p)).trans rfl
theorem age_groups : (s.age p).groups = s.groups := (congrArg State.groups (age_rest s p)).trans rfl
theorem age_launches : (s.age p).launches = s.launches := (congrArg State.launches (age_rest s p)).trans rfl
theorem age_fresh : (s.age p).fresh = s.fresh := (congrArg State.fresh (age_rest s p)).trans rfl
theorem age_clk : (s.age p).clk = s.clk := (congrArg State.clk (age_rest s p)).trans rfl
theorem age_cluster (d cl : Nat) : (s.age p).cluster d cl = s.cluster d cl := (congrArg (State.cluster · d cl) (age_rest s p)).trans rfl
theorem age_freeRows (d cl c : Nat) : (s.age p).freeRows d cl c = s.freeRows d cl c := (congrArg (State.freeRows · d cl c) (age_rest s p)).trans rfl
theorem age_roomFor (x : Launch) (d cl : Nat) : (s.age p).roomFor x d cl = s.roomFor x d cl :=
  (congrArg (State.roomFor · x d cl) (age_rest s p)).trans rfl

theorem age_prevDie : ((s.age p).part p).prevDie = (s.part p).prevDie := by
  rcases s.age_eq p with ⟨b, h | h⟩
  · rw [h]
  · rw [h, State.part_setPart]

theorem age_partDies (q : Nat) : (s.age p).partDies q = s.partDies q := by
  rcases s.age_eq p with ⟨b, h | h⟩
  · rw [h]
  · rw [h]
    simp only [State.partDies, State.part, State.setPart_parts, aget_aset]
    split
    · next e => rw [e]
    · rfl

theorem age_placeSet (x : Launch) : (s.age p).placeSet x = s.placeSet x := by
  simp only [State.placeSet, State.inPlace, age_partDies, age_cluster]

end

/-! ### Completion (R40, R43) -/

/-- The end of a launch: STATE 3 and GROUPS_DONE in its own RCB, its queue's entry done, its bindings gone. -/
def State.endLaunch (s : State) (l : Nat) (x : Launch) : State :=
  let s := s.modLaunch l fun x => { x with state := 3, endQ := [], seen := x.done }
  let s := match x.rcb with | some pa => s.sysWord x.p x.ctx (pa + 0x38) (rcbWord 3 0 x.done) | none => s
  let s := match x.origin with | .queue p q i => s.entDone p q i | .record p q i => s.entDone p q i | .thread _ _ => s
  s.dropBinds [l]

/-- May group g be counted in the RCB: are its updates at device scope, or do they stay where they are (R35, R37)? -/
def State.countable (s : State) (g : Nat) : Bool := (match s.grp g with | some y => y.contained | none => true) || !s.groupShort g

section
variable {s : State} {x : Launch} (hx : aget? s.launches s.cur.ev.n = some x)
include hx

theorem exec_launchComplete_eq : exec .launchComplete s =
    if (!x.live) = true then .next s
    else if (x.done != x.groups || x.next != x.groups) = true then .next ((s.countGroups s.cur.ev.n x).getD (s.launchMerge s.cur.ev.n))
    else if s.launchShort s.cur.ev.n = true then .next (s.launchMerge s.cur.ev.n)
    else match x.tmpl with
      | none => .next (s.endLaunch s.cur.ev.n x)
      | some pa => match s.sysAdd (partReader 8 s.cur.ev.n) x.p x.ctx (pa + 0x3C) .w x.groups with
        | .ok t => .next (t.endLaunch s.cur.ev.n x)
        | .error t => .next t := by
  have he : exec .launchComplete s = execLaunchComplete s := rfl
  simp only [he, execLaunchComplete, hx]
  rfl

theorem launchComplete_dead (h : x.live = false) : exec .launchComplete s = .next s := by
  rw [exec_launchComplete_eq hx, if_pos (by rw [h]; rfl)]

variable (hl : x.live = true)
include hl

theorem launchComplete_counts (h : ¬ (x.done = x.groups ∧ x.next = x.groups)) :
    exec .launchComplete s = .next ((s.countGroups s.cur.ev.n x).getD (s.launchMerge s.cur.ev.n)) := by
  have hf : (x.done != x.groups || x.next != x.groups) = true := by
    rw [Bool.or_eq_true, bne_iff_ne, bne_iff_ne]; exact Decidable.not_and_iff_not_or_not.1 h
  rw [exec_launchComplete_eq hx, if_neg (by simp [hl]), if_pos hf]

variable (hf : x.done = x.groups ∧ x.next = x.groups)
include hf

theorem launchComplete_short (h : s.launchShort s.cur.ev.n = true) :
    exec .launchComplete s = .next (s.launchMerge s.cur.ev.n) := by
  rw [exec_launchComplete_eq hx, if_neg (by simp [hl]), if_neg (by simp [hf]), if_pos h]

variable (h : s.launchShort s.cur.ev.n = false)
include h

theorem launchComplete_own (ht : x.tmpl = none) : exec .launchComplete s = .next (s.endLaunch s.cur.ev.n x) := by
  rw [exec_launchComplete_eq hx, if_neg (by simp [hl]), if_neg (by simp [hf]), if_neg (by simp [h]), ht]

section
variable {pa : Nat} (ht : x.tmpl = some pa) {t : State}
include ht

theorem launchComplete_template
    (ha : s.sysAdd (partReader 8 s.cur.ev.n) x.p x.ctx (pa + 0x3C) .w x.groups = .ok t) :
    exec .launchComplete s = .next (t.endLaunch s.cur.ev.n x) := by
  rw [exec_launchComplete_eq hx, if_neg (by simp [hl]), if_neg (by simp [hf]), if_neg (by simp [h]), ht]
  simp only [ha]

theorem launchComplete_templateWaits
    (ha : s.sysAdd (partReader 8 s.cur.ev.n) x.p x.ctx (pa + 0x3C) .w x.groups = .error t) :
    exec .launchComplete s = .next t := by
  rw [exec_launchComplete_eq hx, if_neg (by simp [hl]), if_neg (by simp [hf]), if_neg (by simp [h]), ht]
  simp only [ha]

end
end

section
variable {s : State} {l : Nat} {x : Launch}

theorem countGroups_none (h : (x.endQ.filter s.countable).length = 0) : s.countGroups l x = none := by
  unfold State.countGroups
  exact if_pos h

/-- GROUPS_DONE rises by the groups that can be counted (R34, R35). -/
theorem countGroups_some (h : (x.endQ.filter s.countable).length ≠ 0) : s.countGroups l x =
    let n := (x.endQ.filter s.countable).length
    let t := s.modLaunch l fun y => { y with endQ := y.endQ.filter fun g => !(s.countable g), seen := y.seen + n }
    some (match x.rcb with | some pa => t.sysWord x.p x.ctx (pa + 0x38) (rcbWord x.state 0 (x.seen + n)) | none => t) := by
  unfold State.countGroups
  exact if_neg h

theorem rcbWord_complete (done : Nat) : rcbWord 3 0 done = 3 + done % 2 ^ 32 * 2 ^ 32 := by simp [rcbWord]

end

/-- A record's TEMPLATE in host memory is counted up where it stands (R40). -/
theorem sysAdd_host {s : State} {ow : Owner} {p c pa rc a v : Nat} (h : s.classify p pa = .host rc a) :
    s.sysAdd ow p c pa .w v = .ok (s.hostWriteB a (leBytes 4 ((s.hostRead a 4 + v) % 2 ^ 32))) := by
  unfold State.sysAdd
  rw [h]
  rfl

/-! ### The watchdog (R347) -/

section
variable {s : State} {g : Group} (h : s.grp s.cur.ev.q = some g)
include h

theorem exec_watchdogExpire_eq : exec .watchdogExpire s =
    if (g.ended || (s.ctx (s.partOf g.die) g.ctx).wdog == 0#64 ||
      decide (g.wd < 2 ^ ((s.ctx (s.partOf g.die) g.ctx).wdog.toNat % 2 ^ 6))) = true then .next s
    else .next (s.contain (s.partOf g.die) g.ctx s.cur.ev.q 0 ⟨g.die, g.clu, g.ctx, 0, g.row⟩ 0#64 0#64) := by
  have he : exec .watchdogExpire s = execWatchdogExpire s := rfl
  simp only [he, execWatchdogExpire, h, fld_eq, Nat.pow_zero, Nat.div_one]

end

/-- Settles O57: clause by clause. LAUNCH goes through what it does once its RCB is read; acceptance through the choice of the next submission
and the order of checks on its RCB; a placement through the best cluster, the room found there and what the group's arrival leaves as it
was; the rest through the equation of each event. -/
theorem launchesAndGroups : Obligations.LaunchesAndGroups := by
  unfold Obligations.LaunchesAndGroups
  refine ⟨?launch, ?accept, ?place, ?aging, ?complete, ?watchdog⟩
  case launch =>
    intro ti rd rs s hi x p va i
    have hex : exec i s = finish s (doLaunch rd rs s) := rfl
    refine ⟨fun hk => ?_, fun hg ha => ?_, ?_⟩
    · rw [hex, doLaunch_handler hi rd hk, finish_trap]
    · rw [hex, doLaunch_misaligned hi rd hg ha, finish_trap]
    intro go hg ha k s0 hkey
    have hgo : ∀ u place, LaunchGoes rd va ti p u (placeScope place) (exec i s) → go u place := fun u place h => by
      rw [placeScope_eq] at h; exact h
    constructor
    · intro h0 ctl s1 h1 s2 h2 st s3 h3 h4 place
      have hs3 : SameIssuer s s3 := ((sameIssuer_fenLoad h1).trans (sameIssuer_setPhase s1 _)).trans (sameIssuer_fenLoad h3)
      have hi3 : s3.issues ti := hs3.issues hi
      have hp : s3.partOf ti.die = p := hs3.partOf _
      have hread : exec i s = finish s (launchRead rd va ti p k ctl st s3) :=
        congrArg (finish s) (doLaunch_first hi rfl hg ha hkey rd h0 h1 h2 h3)
      refine ⟨fun h => ?_, fun hst hlive => ?_⟩
      · rw [hread, launchRead_taken rd va (h.imp_right fun h => ⟨h4, h⟩), finish_ok]
      have hfree : ¬ (st % 16 ≠ 0 ∨ (s3.th.ph.stage = 1 ∧ s3.rcbLive p none (k.pa - 0x18) = true)) := by simp [hst, hlive]
      refine ⟨fun hpl hcls => ?_, fun hpl d o hcls => ?_, fun hpl => hgo _ _ ?_⟩
      · rw [hread, launchRead_refused hfree rd va hpl, finish_ok, State.refuseAt_here hi3 hcls, hp]
      · rw [hread, launchRead_refused hfree rd va hpl, finish_ok, State.refuseAt_peer hi3 hcls]
      · rw [hread]; exact launchRead_goes hfree hi3 s rd va hpl
    · intro h2 h3
      have hread : exec i s = finish s (launchRead rd va ti p k x.ph.aux 0 s) :=
        congrArg (finish s) (doLaunch_resumed hi rfl hg ha hkey rd h2)
      have hfree : ¬ (0 % 16 ≠ 0 ∨ (s.th.ph.stage = 1 ∧ s.rcbLive p none (k.pa - 0x18) = true)) := by
        rw [hi.th_eq, h2]; simp
      have hgoes := launchRead_goes (ctl := x.ph.aux) hfree hi s rd va h3
      rw [hi.th_eq, ← hread] at hgoes
      exact hgo _ _ hgoes
  case accept =>
    intro s p subs
    have hsubs : subs = s.waitingSubs p := rfl
    refine ⟨fun h => ?_, fun h hf => ?_, fun h => ?_, fun y hy => ?_, ?_⟩
    · exact launchAccept_idle (hsubs ▸ h)
    · obtain ⟨y, hy, -⟩ := s.nextSub_spec p h
      exact launchAccept_full (y := y) hy hf
    · obtain ⟨y, hy, -⟩ := s.nextSub_spec p h
      exact ⟨y, hy⟩
    · obtain ⟨y', hy', hmem, hle⟩ := s.nextSub_spec p (subs := subs) fun h => by rw [h] at hy; cases hy
      obtain rfl : y' = y := Option.some.inj (hy'.symm.trans hy)
      exact ⟨hmem, hle⟩
    intro y hy hf s1 answer key unread waits
    have hans : ∀ {t r}, s1.acceptSub y = .ok (t.answerSub y r) → exec .launchAccept s = answer t r := fun h =>
      launchAccept_answers hy hf h
    have hunread : ∀ {u}, s1.acceptSub y = .ok (u.unreadSub y) → unread u := fun {u} h => by
      have he := launchAccept_answers hy hf h
      simp only [State.unreadSub] at he
      refine ⟨fun ti uid ho => ?_, fun a b i ho => ?_, fun a b i ho => ?_⟩ <;> rw [ho] at he
      · exact he
      · exact he
      · exact he
    have hwaits : ∀ {z}, s1.acceptSub y = .error z → waits z := fun h => launchAccept_waits hy hf h
    refine ⟨fun u h => hunread (acceptSub_of_fault h), fun u h => hwaits (acceptSub_of_wait h),
      fun pa u h hm => hunread (acceptSub_of_noMemory h hm), fun pa u z h hm hw => hwaits (acceptSub_of_heldWord h hm hw), ?_⟩
    intro pa u w v h hm hw f rec? thread? rcb put refuse valid taken
    have hread : s1.acceptSub y = v.checkSub y pa w := acceptSub_of_read h hm hw
    have htaken : v.rcbTaken y pa w ↔ taken := by
      rw [State.rcbTaken, ← Bool.not_eq_true, Sub.isRec_iff]; rfl
    have hvalid : launchRcbOk w y.isThr = true ↔ valid := by
      rw [launchRcbOk_iff, Sub.isThr_iff]; rfl
    refine ⟨fun ht => hans ?_, fun ht _ => ⟨fun hv => hans ?_, fun hv => ?_⟩⟩
    · rw [hread, checkSub_taken (htaken.2 ht)]
    · rw [hread, checkSub_invalid (mt htaken.1 ht) (mt hvalid.1 hv)]; rfl
    have ht := mt htaken.1 ht
    have hv := hvalid.2 hv
    refine ⟨fun r z hp hr => hans ?_, fun z hp => hwaits ?_, fun par z hp hpar => ?_⟩
    · rw [hread, checkSub_badParent ht hv hp hr]; rfl
    · rw [hread, checkSub_waitParent ht hv hp]
    intro l
    refine ⟨fun hn h6 => hans ?_, fun hn => hans ?_, ?_⟩
    · rw [hread, checkSub_parent ht hv hp hpar, enterSub_unfit hn h6]; rfl
    · rw [hread, checkSub_parent ht hv hp hpar, enterSub_fit hn]; rfl
    · refine ⟨rfl, rfl, ?_, ?_, ?_, ?_, launchOfSub_rcb z y w pa par, launchOfSub_tmpl z y w pa par, rfl, rfl, rfl, rfl⟩
      · exact congrArg y.groups.getD (nfld_eq (w.getD 3 0) 0 32)
      · exact nfld_eq _ _ _
      · exact nfld_eq _ _ _
      · exact nfld_eq _ _ _
  case place =>
    intro s r l x rest d cl row base ops p a ho hco h1 _ hx hp hcap cand free far _ hc hbest hroom slot
    have hxa : aget? a.launches l = some x := by rw [age_launches]; exact hx
    have hcand : a.candidates l x = cand := by
      simp only [State.candidates, a, age_placeSet, age_roomFor, hp]; rfl
    have hplace : a.placeOne l = some (a.placeOn l x d cl (row, base, ops)) := by
      refine placeOne_of_best hxa (hp ▸ hcap) (hcand ▸ hc) (fun k hk => ?_) ((age_roomFor s p x d cl).trans hroom)
      refine (hbest k (hcand ▸ hk)).imp_right fun hk => ?_
      rw [betterClu_iff, age_freeRows, age_freeRows, hp, age_prevDie]
      exact hk.imp_right fun ⟨e, h⟩ => ⟨e.symm, h.imp_right fun ⟨e, h⟩ => ⟨e.symm, h⟩⟩
    have hnext : a.placeNext l x = some (a.placeOn l x d cl (row, base, ops)) := by
      rw [State.placeNext, if_neg (by simp [hco]), hplace]
    obtain ⟨hslots, hgroups, hlaunch, hprev, hline, hcache⟩ := placeOn_spec hxa d cl (row, base, ops)
    obtain ⟨hlen, hnodup, hop, hsp, hrow, happ⟩ := roomFor_free h1 hroom
    rw [hp] at hop hsp hprev
    refine ⟨_, newGroup l x d cl (row, base, ops), exec_groupPlace_of ho hnext, ?_, rfl, rfl, rfl, rfl, rfl, rfl, rfl, rfl, rfl, rfl, rfl, rfl, rfl,
      hlen, hnodup, hop, hsp, hrow, happ, fun i hi => ?_, fun tj htj => ?_, ?_, hline, hcache, ?_⟩
    · rw [State.setPart_groups, hgroups, age_groups, age_fresh]
    · have hthr := aget_slotsWith a l x d cl (row, base, ops) hi
      rw [← hslots, age_fresh] at hthr
      have hstart := newThread_start x s.fresh x.next i (s.fresh + 1 + i)
      rw [← hthr] at hstart
      exact hstart
    · have hthr := aget_slotsWith_ne a l x d cl (row, base, ops) htj
      rw [← hslots] at hthr
      exact hthr.trans (by rw [State.thr, age_slots]; rfl)
    · rw [State.part_setPart, hprev]
    · rw [State.setPart_launches, hlaunch, age_clk]
  case aging =>
    intro s p due q
    have hq : s.overdue p = q := rfl
    have hex : exec .agingTick s = .next (s.age p) := rfl
    refine ⟨fun ⟨b, y, hb, hy, h⟩ => ?_, fun h => ?_⟩
    · rw [hex, age_of_blocking hb hy h]
    obtain ⟨hnone, hsome⟩ := age_of_not_blocking (s := s) (p := p) h
    refine ⟨fun hq => ?_, fun hq => ?_⟩
    · rw [hex, hnone hq]
    · obtain ⟨y, hy, hmin, he⟩ := hsome hq
      exact ⟨y, hy, hmin, by rw [hex, he]⟩
  case complete =>
    intro s x l hx fini ready n
    refine ⟨fun h => launchComplete_dead hx h, fun hl hf hn => ?_, fun hl hf hn => ?_, fun hl hf h => launchComplete_short hx hl hf h,
      fun hl hf h => ?_⟩
    · rw [launchComplete_counts hx hl hf, countGroups_none hn]; rfl
    · intro t
      have he := launchComplete_counts hx hl hf
      rw [countGroups_some hn] at he
      refine ⟨fun hr => ?_, fun pa hr => ?_⟩ <;> rw [he, hr] <;> rfl
    · intro ended
      have hown : x.tmpl = none → _ := launchComplete_own hx hl hf h
      refine ⟨fun pa ti uid hr ht ho => ?_, fun pa k a i hr ht ho => ?_, fun pa k a i hr ht ho => ?_⟩
      · rw [hown ht, State.endLaunch, hr, ho, rcbWord_complete]
      · rw [hown ht, State.endLaunch, hr, ho, rcbWord_complete]
      · intro add
        refine ⟨fun v hv => ?_, fun v hv => launchComplete_templateWaits hx hl hf h ht hv, fun rc a hc => sysAdd_host hc⟩
        rw [launchComplete_template hx hl hf h ht hv, State.endLaunch, hr, ho]
  case watchdog =>
    intro s g k hg p w
    refine ⟨fun h => ?_, fun he hw hwd => ?_⟩
    · rw [exec_watchdogExpire_eq hg, if_pos (by simpa [or_assoc] using h)]
    · have hno : ¬ (g.ended || w == 0#64 || decide (g.wd < 2 ^ (w.toNat % 2 ^ 6))) = true := by
        simpa [he, hw] using hwd
      rw [exec_watchdogExpire_eq hg, if_neg hno]

end Sys2Proof.Machine

/-!
A thread's own state: what the reset leaves, completion at the end of a hardware loop, the moves of the register window, and what a vector
instruction checks of its pointers before anything else.
-/
namespace Sys2Proof.Machine
open Sys2Proof

/-! ### At reset (R53, R58, R318, R338, R349, R378) -/

/-- No table of the state at reset names a unit, so each unit reads as its zero record. -/
theorem State.thr_reset (ti : SlotId) : State.reset.thr ti = Thread.zero := rfl
theorem State.run_reset (r : RunId) : State.reset.run r = Run.zero := rfl
theorem State.ctx_reset (p c : Nat) : State.reset.ctx p c = Ctx.zero := rfl
theorem State.die_reset (d : Nat) : State.reset.die d = Die.zero := rfl
theorem State.part_reset : State.reset.part 0 = { Part.zero with pdies := 0xFF#8 } := rfl

theorem vget_replicate {n : Nat} (x : W64) (i : Nat) : vget (Vector.replicate (n + 1) x) i = x := by simp [vget]

theorem Thread.reg_zero (r : Reg) : Thread.zero.reg r = 0#64 := by
  unfold Thread.reg
  split
  · exact vget_replicate _ _
  · split
    · rfl
    · exact vget_replicate _ _

theorem Thread.ptr_zero (p : BitVec 3) : Thread.zero.ptr p = 0#32 := by simp [Thread.ptr, Thread.zero]

/-- Settles O1: each unit at reset is its zero record, whose registers and pointers are read back as 0. -/
theorem resetValues : Obligations.ResetValues := by
  have hthread (ti : SlotId) : State.reset.thr ti = Thread.zero := State.thr_reset ti
  have hctx (p c : Nat) : State.reset.ctx p c = Ctx.zero := State.ctx_reset p c
  refine ⟨rfl, rfl, rfl, rfl, fun r => ?_, fun ti => ?_, rfl, rfl, rfl, rfl, rfl, rfl, rfl, fun ti r => ?_, fun ti p => ?_,
    fun ti => ?_, fun p c => ?_, ?_, ?_, rfl, fun d => ?_⟩
  · rw [State.run_reset]; rfl
  · rw [hthread]; rfl
  · rw [hthread, Thread.reg_zero]
  · rw [hthread, Thread.ptr_zero]
  · rw [hthread]; exact ⟨rfl, rfl, rfl, rfl, rfl, rfl, rfl, rfl, rfl, rfl⟩
  · rw [hctx]; exact ⟨rfl, rfl, rfl, rfl, rfl, rfl, rfl, rfl, rfl, rfl⟩
  · rw [State.part_reset]; rfl
  · rw [State.part_reset]; rfl
  · rw [State.die_reset]; exact ⟨rfl, rfl⟩

/-! ### Completion with fall-through (R59, R166) -/

theorem lo32_setLo (x : W64) {v : Nat} (h : v < 2 ^ 32) : lo32 (setLo x v) = v := by
  simp only [lo32, setLo, BitVec.toNat_ofNat]
  omega

/-- The count that a pass takes from a loop register leaves the given count alone. -/
theorem hi_setLo (x : W64) (v : Nat) : (setLo x v).toNat / 2 ^ 32 = x.toNat / 2 ^ 32 := by
  have hx := x.isLt
  simp only [setLo, BitVec.toNat_ofNat]
  omega

theorem lo32_lt (x : W64) : lo32 x < 2 ^ 32 := Nat.mod_lt _ (by decide)
theorem hi_lt (x : W64) : x.toNat / 2 ^ 32 < 2 ^ 32 := by
  have hx := x.isLt
  omega

/-- Completion with fall-through, its tests as propositions. -/
theorem Thread.fallThrough_eq (t : Thread) (a : W64) (n : Nat) : t.fallThrough a n =
    let u := { t with ph := Phase.zero, wait := .no }
    let next := a + BitVec.ofNat 64 n
    if lo32 t.lc1 ≠ 0 ∧ a = t.le1 then
      if 1 < lo32 t.lc1 then { u with lc1 := setLo t.lc1 (lo32 t.lc1 - 1), pc := t.ls1 }
      else if lo32 t.lc0 ≠ 0 ∧ a = t.le0 then
        if 1 < lo32 t.lc0 then { u with lc0 := setLo t.lc0 (lo32 t.lc0 - 1), lc1 := setLo t.lc1 (t.lc1.toNat / 2 ^ 32), pc := t.ls0 }
        else { u with lc1 := setLo t.lc1 0, lc0 := setLo t.lc0 0, pc := next }
      else { u with lc1 := setLo t.lc1 0, pc := next }
    else if lo32 t.lc0 ≠ 0 ∧ a = t.le0 then
      if 1 < lo32 t.lc0 then { u with lc0 := setLo t.lc0 (lo32 t.lc0 - 1), pc := t.ls0 }
      else { u with lc0 := setLo t.lc0 0, pc := next }
    else { u with pc := next } := by
  simp only [Thread.fallThrough, Bool.and_eq_true, bne_iff_ne, beq_iff_eq]

/-- Neither level's given count changes. -/
theorem Thread.fallThrough_given (t : Thread) (a : W64) (n : Nat) :
    (t.fallThrough a n).lc0.toNat / 2 ^ 32 = t.lc0.toNat / 2 ^ 32 ∧ (t.fallThrough a n).lc1.toNat / 2 ^ 32 = t.lc1.toNat / 2 ^ 32 := by
  rw [t.fallThrough_eq]
  extract_lets
  split
  · split
    · exact ⟨rfl, hi_setLo _ _⟩
    · split
      · split <;> exact ⟨hi_setLo _ _, hi_setLo _ _⟩
      · exact ⟨rfl, hi_setLo _ _⟩
  · split
    · split <;> exact ⟨hi_setLo _ _, rfl⟩
    · exact ⟨rfl, rfl⟩

section
variable {t : Thread} {a : W64} {n : Nat}

theorem Thread.fallThrough_noLoop (h0 : ¬ (lo32 t.lc0 ≠ 0 ∧ a = t.le0)) (h1 : ¬ (lo32 t.lc1 ≠ 0 ∧ a = t.le1)) :
    t.fallThrough a n = { t with pc := a + BitVec.ofNat 64 n, ph := Phase.zero, wait := .no } := by
  rw [t.fallThrough_eq, if_neg h1, if_neg h0]

section
variable (h1 : lo32 t.lc1 ≠ 0 ∧ a = t.le1)
include h1

/-- Level 1 goes back to its start. -/
theorem Thread.fallThrough_again1 (hc : 1 < lo32 t.lc1) :
    t.fallThrough a n = { t with lc1 := setLo t.lc1 (lo32 t.lc1 - 1), pc := t.ls1, ph := Phase.zero, wait := .no } := by
  rw [t.fallThrough_eq, if_pos h1, if_pos hc]

variable (hc : lo32 t.lc1 = 1)
include hc

/-- Level 1 has made its last pass, and level 0 does not end there. -/
theorem Thread.fallThrough_last1 (h0 : ¬ (lo32 t.lc0 ≠ 0 ∧ a = t.le0)) :
    t.fallThrough a n = { t with lc1 := setLo t.lc1 0, pc := a + BitVec.ofNat 64 n, ph := Phase.zero, wait := .no } := by
  rw [t.fallThrough_eq, if_pos h1, if_neg (by omega), if_neg h0]

variable (h0 : lo32 t.lc0 ≠ 0 ∧ a = t.le0)
include h0

/-- Level 1 has made its last pass, and level 0 goes back to its start, where level 1 gets its given count back. -/
theorem Thread.fallThrough_last1_again0 (hc0 : 1 < lo32 t.lc0) :
    t.fallThrough a n = { t with lc0 := setLo t.lc0 (lo32 t.lc0 - 1), lc1 := setLo t.lc1 (t.lc1.toNat / 2 ^ 32), pc := t.ls0,
                                 ph := Phase.zero, wait := .no } := by
  rw [t.fallThrough_eq, if_pos h1, if_neg (by omega), if_pos h0, if_pos hc0]

/-- Both levels have made their last pass. -/
theorem Thread.fallThrough_last1_last0 (hc0 : lo32 t.lc0 = 1) :
    t.fallThrough a n = { t with lc0 := setLo t.lc0 0, lc1 := setLo t.lc1 0, pc := a + BitVec.ofNat 64 n, ph := Phase.zero, wait := .no } := by
  rw [t.fallThrough_eq, if_pos h1, if_neg (by omega), if_pos h0, if_neg (by omega)]

end

section
variable (h1 : ¬ (lo32 t.lc1 ≠ 0 ∧ a = t.le1)) (h0 : lo32 t.lc0 ≠ 0 ∧ a = t.le0)
include h1 h0

/-- Level 0 alone goes back to its start. -/
theorem Thread.fallThrough_again0 (hc : 1 < lo32 t.lc0) :
    t.fallThrough a n = { t with lc0 := setLo t.lc0 (lo32 t.lc0 - 1), pc := t.ls0, ph := Phase.zero, wait := .no } := by
  rw [t.fallThrough_eq, if_neg h1, if_pos h0, if_pos hc]

/-- Level 0 alone has made its last pass. -/
theorem Thread.fallThrough_last0 (hc : lo32 t.lc0 = 1) :
    t.fallThrough a n = { t with lc0 := setLo t.lc0 0, pc := a + BitVec.ofNat 64 n, ph := Phase.zero, wait := .no } := by
  rw [t.fallThrough_eq, if_neg h1, if_pos h0, if_neg (by omega)]

end
end

/-- Settles O9: the frame, the given counts, then the equation of each way the two levels can end there, with the count it leaves. -/
theorem loopEndsAtFallThrough : Obligations.LoopEndsAtFallThrough := by
  intro t a n u on0 on1
  have hpass0 : lo32 t.lc0 - 1 < 2 ^ 32 := Nat.lt_of_le_of_lt (Nat.sub_le _ _) (lo32_lt _)
  have hpass1 : lo32 t.lc1 - 1 < 2 ^ 32 := Nat.lt_of_le_of_lt (Nat.sub_le _ _) (lo32_lt _)
  obtain ⟨hgiven0, hgiven1⟩ := t.fallThrough_given a n
  refine ⟨t.still_fallThrough a n, t.phys_fallThrough a n, t.h_fallThrough a n, hgiven0, hgiven1, fun h0 h1 => ?_, fun h1 hc => ?_,
    fun h1 hc h0 => ?_, fun h1 hc h0 hc0 => ?_, fun h1 hc h0 hc0 => ?_, fun h1 h0 hc => ?_, fun h1 h0 hc => ?_⟩
  · have hu : u = _ := Thread.fallThrough_noLoop h0 h1
    rw [hu]; exact ⟨rfl, rfl, rfl⟩
  · have hu : u = _ := Thread.fallThrough_again1 h1 hc
    rw [hu]; exact ⟨rfl, lo32_setLo _ hpass1, rfl⟩
  · have hu : u = _ := Thread.fallThrough_last1 h1 hc h0
    rw [hu]; exact ⟨rfl, lo32_setLo _ (by decide), rfl⟩
  · have hu : u = _ := Thread.fallThrough_last1_again0 h1 hc h0 hc0
    rw [hu]; exact ⟨rfl, lo32_setLo _ hpass0, lo32_setLo _ (hi_lt _)⟩
  · have hu : u = _ := Thread.fallThrough_last1_last0 h1 hc h0 hc0
    rw [hu]; exact ⟨rfl, lo32_setLo _ (by decide), lo32_setLo _ (by decide)⟩
  · have hu : u = _ := Thread.fallThrough_again0 h1 h0 hc
    rw [hu]; exact ⟨rfl, lo32_setLo _ hpass0, rfl⟩
  · have hu : u = _ := Thread.fallThrough_last0 h1 h0 hc
    rw [hu]; exact ⟨rfl, lo32_setLo _ (by decide), rfl⟩

/-! ### Calls and returns (R54, R55, R164) -/

/-- Target() adds the offset twice. -/
theorem State.target_eq (s : State) (off : W64) : s.target off = s.cur.addr + 2#64 * off := by
  simp only [State.target]
  bv_omega

section
variable (t : Thread) (target ret : W64)

@[simp] theorem Thread.callTo_pc : (t.callTo target ret).pc = target := Thread.setReg_pc _ _ _
@[simp] theorem Thread.callTo_wb : (t.callTo target ret).wb = t.wb + 1#3 := Thread.setReg_wb _ _ _
@[simp] theorem Thread.callTo_bot : (t.callTo target ret).bot = t.bot := rfl
@[simp] theorem Thread.callTo_depth : (t.callTo target ret).depth = t.depth + 1#16 := rfl
@[simp] theorem Thread.callTo_h : (t.callTo target ret).h = t.h := rfl

/-- The callee's w8 is the return address. -/
theorem Thread.reg_callTo_w8 : (t.callTo target ret).reg 8#5 = ret := Thread.reg_setReg _ _ _ (by decide)

/-- The callee's w0 to w7 are the caller's w16 to w23: the same physical registers. -/
theorem Thread.reg_callTo_args {k : Nat} (hk : k < 8) : (t.callTo target ret).reg (BitVec.ofNat 5 k) = t.reg (BitVec.ofNat 5 (16 + k)) := by
  have hcallee : (BitVec.ofNat 5 k).toNat = k := by simp; omega
  have hcaller : (BitVec.ofNat 5 (16 + k)).toNat = 16 + k := by simp; omega
  have hne : BitVec.ofNat 5 k ≠ 8#5 := fun e => by simp [e] at hcallee; omega
  have hplace : (16 * (t.wb + 1#3).toNat + k) % 128 = (16 * t.wb.toNat + (16 + k)) % 128 := by
    simp only [BitVec.toNat_add, BitVec.toNat_ofNat]; omega
  rw [Thread.callTo, Thread.reg_setReg_ne _ _ (by decide) (by omega) hne, Thread.reg_window _ _ (by omega), Thread.reg_window _ _ (by omega),
    hcallee, hcaller, hplace]
  rfl

end

theorem State.issues.modMe_eq {s : State} {ti : SlotId} (h : s.issues ti) (f : Thread → Thread) : s.modMe f = s.modThr ti f := by
  rw [State.modMe, h.me_eq]

section
variable {s : State} {ti : SlotId} (hi : s.issues ti) {target : W64}
include hi

/-- A call deeper than DEPTH can count. -/
theorem doCall_deep (h : (s.thr ti).depth = 0xFFFF#16) : doCall target s = .error (.trap tIllegal 0 s.cur.addr) := by
  simp [doCall, hi.th_eq, h, State.pc0]

theorem doRet_shallow (h : (s.thr ti).depth = 0#16) : doRet s = .error (.trap tIllegal 0 s.cur.addr) := by
  simp [doRet, hi.th_eq, h, State.pc0]

section
variable (hd : (s.thr ti).depth ≠ 0xFFFF#16)
include hd

theorem doCall_odd (h : target.getLsbD 0 = true) : doCall target s = .error (.trap tIAlign 0 s.cur.addr) := by
  simp only [doCall, hi.th_eq, ensure_of (bne_iff_ne.2 hd), h, Bool.not_true, ensure_false, M.ok_bind, M.error_bind, State.pc0]

/-- A call with no free frame in the window. -/
theorem doCall_spill (he : target.getLsbD 0 = false) (h : (s.thr ti).wb - (s.thr ti).bot = 6#3) :
    doCall target s = .error (.trap tSpill 0 s.cur.addr) := by
  simp only [doCall, hi.th_eq, ensure_of (bne_iff_ne.2 hd), he, Bool.not_false, ensure_true, Thread.frames, h, bne_self_eq_false, ensure_false,
    M.ok_bind, M.error_bind, State.pc0]

theorem doCall_completes (he : target.getLsbD 0 = false) (h : (s.thr ti).wb - (s.thr ti).bot ≠ 6#3) :
    doCall target s = .ok (s.modThr ti fun t => t.callTo target s.nextAddr) := by
  simp only [doCall, hi.th_eq, ensure_of (bne_iff_ne.2 hd), he, Bool.not_false, ensure_true, Thread.frames, ensure_of (bne_iff_ne.2 h), M.ok_bind,
    hi.modMe_eq]

end

section
variable (hd : (s.thr ti).depth ≠ 0#16)
include hd

theorem doRet_odd (h : ((s.thr ti).reg 8#5).getLsbD 0 = true) : doRet s = .error (.trap tIAlign 0 s.cur.addr) := by
  simp only [doRet, hi.th_eq, ensure_of (bne_iff_ne.2 hd), h, Bool.not_true, ensure_false, M.ok_bind, M.error_bind, State.pc0]

/-- A return to a frame that is not in the window. -/
theorem doRet_fill (he : ((s.thr ti).reg 8#5).getLsbD 0 = false) (h : (s.thr ti).wb = (s.thr ti).bot) :
    doRet s = .error (.trap tFill 0 s.cur.addr) := by
  simp only [doRet, hi.th_eq, ensure_of (bne_iff_ne.2 hd), he, Bool.not_false, ensure_true, h, bne_self_eq_false, ensure_false, M.ok_bind,
    M.error_bind, State.pc0]

theorem doRet_completes (he : ((s.thr ti).reg 8#5).getLsbD 0 = false) (h : (s.thr ti).wb ≠ (s.thr ti).bot) :
    doRet s = .ok (s.modThr ti fun t => { t with pc := t.reg 8#5, wb := t.wb - 1#3, depth := t.depth - 1#16, ph := Phase.zero }) := by
  simp only [doRet, hi.th_eq, ensure_of (bne_iff_ne.2 hd), he, Bool.not_false, ensure_true, ensure_of (bne_iff_ne.2 h), M.ok_bind, hi.modMe_eq]

end
end

/-- What is said of a call: its traps in the order of R164, and the window of the callee. -/
def CallGoes (ti : SlotId) (s : State) (target : W64) (o : Out) : Prop :=
  let x := s.thr ti
  (x.depth = 0xFFFF#16 → o = .next (s.takeTrap tIllegal 0 s.cur.addr)) ∧
  (x.depth ≠ 0xFFFF#16 → target.getLsbD 0 = true → o = .next (s.takeTrap tIAlign 0 s.cur.addr)) ∧
  (x.depth ≠ 0xFFFF#16 → target.getLsbD 0 = false → x.wb - x.bot = 6#3 → o = .next (s.takeTrap tSpill 0 s.cur.addr)) ∧
  (x.depth ≠ 0xFFFF#16 → target.getLsbD 0 = false → x.wb - x.bot ≠ 6#3 → ∃ t, o = .next t ∧ OnlyThread ti s t ∧
    (t.thr ti).pc = target ∧ (t.thr ti).wb = x.wb + 1#3 ∧ (t.thr ti).bot = x.bot ∧ (t.thr ti).depth = x.depth + 1#16 ∧
    (t.thr ti).reg 8#5 = s.nextAddr ∧ (t.thr ti).h = x.h ∧
    ∀ k : Nat, k < 8 → (t.thr ti).reg (BitVec.ofNat 5 k) = x.reg (BitVec.ofNat 5 (16 + k)))

theorem callGoes_doCall {s : State} {ti : SlotId} (hi : s.issues ti) (target : W64) :
    CallGoes ti s target (finish s (doCall target s)) := by
  refine ⟨fun h => ?_, fun hd h => ?_, fun hd he h => ?_, fun hd he h => ?_⟩
  · rw [doCall_deep hi h, finish_trap]
  · rw [doCall_odd hi hd h, finish_trap]
  · rw [doCall_spill hi hd he h, finish_trap]
  · refine ⟨_, by rw [doCall_completes hi hd he h, finish_ok], onlyThread_modThr _ _ _, ?_⟩
    simp only [State.thr_modThr, Thread.callTo_pc, Thread.callTo_wb, Thread.callTo_bot, Thread.callTo_depth, Thread.callTo_h, true_and]
    exact ⟨Thread.reg_callTo_w8 _ _ _, fun k hk => Thread.reg_callTo_args _ _ _ hk⟩

/-- Settles O19: CALL and CALLR are one call to two targets; RET goes through its three checks. -/
theorem callsMoveTheWindow : Obligations.CallsMoveTheWindow := by
  intro ti rs off s hi x pc ret call
  have hcall : exec (.call off) s = finish s (doCall (pc + 2#64 * off) s) := by rw [← s.target_eq]; rfl
  have hcallr : exec (.callr rs) s = finish s (doCall (x.reg rs) s) := by rw [← hi.reg_eq]; rfl
  have hret : exec .ret s = finish s (doRet s) := rfl
  refine ⟨?_, ?_, fun h => ?_, fun hd h => ?_, fun hd he h => ?_, fun hd he h => ?_⟩
  · rw [hcall]; exact callGoes_doCall hi _
  · rw [hcallr]; exact callGoes_doCall hi _
  · rw [hret, doRet_shallow hi h, finish_trap]
  · rw [hret, doRet_odd hi hd h, finish_trap]
  · rw [hret, doRet_fill hi hd he h, finish_trap]
  · refine ⟨_, by rw [hret, doRet_completes hi hd he h, finish_ok], onlyThread_modThr _ _ _, ?_⟩
    simp only [State.thr_modThr]
    exact ⟨rfl, rfl, rfl, rfl, rfl, rfl⟩

/-! ### What a vector instruction checks first (R196, R197) -/

/-- Is an operand misaligned? -/
def VOp.Misaligned (q : VOp) : Prop := q.addr % q.kind.align ≠ 0

/-- Is v the lowest invalid byte of an operand? -/
def VOp.InvalidAt (s : State) (ti : SlotId) (q : VOp) (v : Nat) : Prop :=
  s.spBad (s.thr ti).grp q.addr (q.kind.size (s.thr ti).vl.toNat) = some v

theorem minNat_eq_some {l : List Nat} {a : Nat} (h : a ∈ l) (hle : ∀ b ∈ l, a ≤ b) : minNat l = some a := by
  rw [minNat_eq]
  exact List.min?_eq_some_iff.2 ⟨h, hle⟩

theorem minNat_eq_none {l : List Nat} : minNat l = none ↔ l = [] := by
  rw [minNat_eq, List.min?_eq_none_iff]

/-- The pointers of the misaligned operands. -/
theorem mem_misaligned {ops : List VOp} {a : Nat} :
    a ∈ (ops.filter fun o => o.addr % o.kind.align != 0).map VOp.addr ↔ ∃ q ∈ ops, q.Misaligned ∧ q.addr = a := by
  simp [VOp.Misaligned, and_assoc]

theorem misaligned_eq_nil {ops : List VOp} :
    (ops.filter fun o => o.addr % o.kind.align != 0).map VOp.addr = [] ↔ ∀ q ∈ ops, ¬ q.Misaligned := by
  simp [VOp.Misaligned]

/-- The lowest invalid bytes of the operands. -/
theorem mem_invalid {s : State} {ti : SlotId} {ops : List VOp} {v : Nat} :
    v ∈ (ops.filterMap fun o => s.spBad (s.thr ti).grp o.addr (o.kind.size (s.thr ti).vl.toNat)) ↔ ∃ q ∈ ops, q.InvalidAt s ti v :=
  List.mem_filterMap

/-- Is the length right for the operands that are Q4X? -/
def q4xLengthOk (ops : List VOp) (vl : Nat) : Bool := !(ops.any fun o => o.kind == .q4x) || vl % 32 == 0

theorem q4xLengthOk_false {ops : List VOp} {vl : Nat} (hq : ∃ q ∈ ops, q.kind = .q4x) (hv : vl % 32 ≠ 0) : q4xLengthOk ops vl = false := by
  simpa [q4xLengthOk, hv] using hq

theorem q4xLengthOk_true {ops : List VOp} {vl : Nat} (h : (∀ q ∈ ops, q.kind ≠ .q4x) ∨ vl % 32 = 0) : q4xLengthOk ops vl = true := by
  simpa [q4xLengthOk, Classical.or_iff_not_imp_left] using h

section
variable {s : State} {ti : SlotId} (hi : s.issues ti) {ops : List VOp}
include hi

/-- The check of the operands, on the state of the thread that issues. -/
theorem vcheck_eq : s.vcheck ops = ensure (q4xLengthOk ops (s.thr ti).vl.toNat) tOp s.cur.addr >>= fun _ =>
    match minNat ((ops.filter fun o => o.addr % o.kind.align != 0).map VOp.addr) with
    | some a => .error (.trap tAlign 0 (BitVec.ofNat 64 a))
    | none =>
      match minNat (ops.filterMap fun o => s.spBad (s.thr ti).grp o.addr (o.kind.size (s.thr ti).vl.toNat)) with
      | some a => .error (.trap tSp 0 (BitVec.ofNat 64 a))
      | none => .ok () := by
  simp only [State.vcheck, State.vlen, State.myGrp, hi.th_eq]
  rfl

theorem vcheck_length (h : q4xLengthOk ops (s.thr ti).vl.toNat = false) : s.vcheck ops = .error (.trap tOp 0 s.cur.addr) := by
  rw [vcheck_eq hi, h, ensure_false, M.error_bind]

variable (hl : q4xLengthOk ops (s.thr ti).vl.toNat = true)
include hl

/-- The lowest misaligned pointer is reported. -/
theorem vcheck_misaligned {q : VOp} (hq : q ∈ ops) (hm : q.Misaligned) (hle : ∀ q' ∈ ops, q'.Misaligned → q.addr ≤ q'.addr) :
    s.vcheck ops = .error (.trap tAlign 0 (BitVec.ofNat 64 q.addr)) := by
  have hmin := minNat_eq_some (mem_misaligned.2 ⟨q, hq, hm, rfl⟩) fun b hb => by
    obtain ⟨q', hq', hm', rfl⟩ := mem_misaligned.1 hb
    exact hle q' hq' hm'
  rw [vcheck_eq hi, hl, ensure_true, M.ok_bind, hmin]

section
variable (ha : ∀ q ∈ ops, ¬ q.Misaligned)
include ha

/-- With every operand aligned, the lowest invalid byte is reported. -/
theorem vcheck_invalid {q : VOp} (hq : q ∈ ops) {v : Nat} (hv : q.InvalidAt s ti v)
    (hle : ∀ q' ∈ ops, ∀ v', q'.InvalidAt s ti v' → v ≤ v') :
    s.vcheck ops = .error (.trap tSp 0 (BitVec.ofNat 64 v)) := by
  have hmin := minNat_eq_some (mem_invalid.2 ⟨q, hq, hv⟩) fun b hb => by
    obtain ⟨q', hq', hb⟩ := mem_invalid.1 hb
    exact hle q' hq' b hb
  rw [vcheck_eq hi, hl, ensure_true, M.ok_bind, minNat_eq_none.2 (misaligned_eq_nil.2 ha)]
  simp only [hmin]

theorem vcheck_valid (hv : ∀ q ∈ ops, s.spBad (s.thr ti).grp q.addr (q.kind.size (s.thr ti).vl.toNat) = none) : s.vcheck ops = .ok () := by
  have hnone := minNat_eq_none.2 (List.filterMap_eq_nil_iff.2 hv)
  rw [vcheck_eq hi, hl, ensure_true, M.ok_bind, minNat_eq_none.2 (misaligned_eq_nil.2 ha)]
  simp only [hnone]

end

/-- The check passes exactly when every operand is aligned and valid. -/
theorem vcheck_ok_iff : s.vcheck ops = .ok () ↔
    ∀ q ∈ ops, ¬ q.Misaligned ∧ s.spBad (s.thr ti).grp q.addr (q.kind.size (s.thr ti).vl.toNat) = none := by
  constructor
  · intro h
    rw [vcheck_eq hi, hl, ensure_true, M.ok_bind] at h
    split at h
    · cases h
    · next hm =>
      split at h
      · cases h
      · next hb =>
        have ha := misaligned_eq_nil.1 (minNat_eq_none.1 hm)
        have hv := List.filterMap_eq_nil_iff.1 (minNat_eq_none.1 hb)
        exact fun q hq => ⟨ha q hq, hv q hq⟩
  · exact fun h => vcheck_valid hi hl (fun q hq => (h q hq).1) fun q hq => (h q hq).2

end

/-- What is said of an instruction that checks its operands before anything else: the Q4X length, then alignment, then range. -/
def VChecks (s : State) (ti : SlotId) (ops : List VOp) (i : Instr) : Prop :=
  ((∃ q ∈ ops, q.kind = .q4x) → (s.thr ti).vl.toNat % 32 ≠ 0 → exec i s = .next (s.takeTrap tOp 0 s.cur.addr)) ∧
  ((∀ q ∈ ops, q.kind ≠ .q4x) ∨ (s.thr ti).vl.toNat % 32 = 0 →
    (∀ q ∈ ops, q.Misaligned → (∀ q' ∈ ops, q'.Misaligned → q.addr ≤ q'.addr) →
      exec i s = .next (s.takeTrap tAlign 0 (BitVec.ofNat 64 q.addr))) ∧
    ((∀ q ∈ ops, ¬ q.Misaligned) → ∀ q ∈ ops, ∀ v, q.InvalidAt s ti v → (∀ q' ∈ ops, ∀ v', q'.InvalidAt s ti v' → v ≤ v') →
      exec i s = .next (s.takeTrap tSp 0 (BitVec.ofNat 64 v))) ∧
    (s.vcheck ops = .ok () ↔ ∀ q ∈ ops, ¬ q.Misaligned ∧ s.spBad (s.thr ti).grp q.addr (q.kind.size (s.thr ti).vl.toNat) = none))

/-- The instruction's meaning begins with the check of `ops`. -/
def ChecksFirst (s : State) (ops : List VOp) (i : Instr) : Prop := ∃ f : Unit → M State, exec i s = finish s (s.vcheck ops >>= f)

/-- The check of the operands `ops`, then that of the global base `b` of n-byte keys, come first. -/
def ChecksBase (s : State) (ops : List VOp) (b : W64) (n sub : Nat) (i : Instr) : Prop :=
  ∃ f : Unit → M State, exec i s = finish s (s.vcheck ops >>= fun _ => baseCheck b n sub >>= f)

section
variable {s : State} {ops : List VOp} {i : Instr}

theorem ChecksFirst.trap (h : ChecksFirst s ops i) {c sub : Nat} {fa : W64} (he : s.vcheck ops = .error (.trap c sub fa)) :
    exec i s = .next (s.takeTrap c sub fa) := by
  obtain ⟨f, hf⟩ := h
  rw [hf, he, M.error_bind, finish_trap]

/-- An instruction that checks its operands first traps as R197 says. -/
theorem ChecksFirst.vChecks (h : ChecksFirst s ops i) {ti : SlotId} (hi : s.issues ti) : VChecks s ti ops i := by
  refine ⟨fun hq hv => h.trap (vcheck_length hi (q4xLengthOk_false hq hv)), fun hl => ⟨fun q hq hm hle => ?_, fun ha q hq v hv hle => ?_, ?_⟩⟩
  · exact h.trap (vcheck_misaligned hi (q4xLengthOk_true hl) hq hm hle)
  · exact h.trap (vcheck_invalid hi (q4xLengthOk_true hl) ha hq hv hle)
  · exact vcheck_ok_iff hi (q4xLengthOk_true hl)

theorem baseCheck_misaligned {b : W64} {n : Nat} (sub : Nat) (h : b.toNat % n ≠ 0) : baseCheck b n sub = .error (.trap tAlign 0 b) := by
  rw [baseCheck, ensure_not (beq_false_of_ne h), M.error_bind]

theorem baseCheck_high {b : W64} {n : Nat} (sub : Nat) (h : b.toNat % n = 0) (hb : 2 ^ 56 ≤ b.toNat) :
    baseCheck b n sub = .error (.trap tXlate sub b) := by
  rw [baseCheck, ensure_of (beq_iff_eq.2 h), M.ok_bind, if_pos hb]

section
variable {b : W64} {n sub : Nat} (h : ChecksBase s ops b n sub i)
include h

theorem ChecksBase.checksFirst : ChecksFirst s ops i := by
  obtain ⟨_, hf⟩ := h
  exact ⟨_, hf⟩

variable (hok : s.vcheck ops = .ok ())
include hok

theorem ChecksBase.misaligned (hb : b.toNat % n ≠ 0) : exec i s = .next (s.takeTrap tAlign 0 b) := by
  obtain ⟨f, hf⟩ := h
  rw [hf, hok, M.ok_bind, baseCheck_misaligned sub hb, M.error_bind, finish_trap]

theorem ChecksBase.high (hb : b.toNat % n = 0) (hh : 2 ^ 56 ≤ b.toNat) : exec i s = .next (s.takeTrap tXlate sub b) := by
  obtain ⟨f, hf⟩ := h
  rw [hf, hok, M.ok_bind, baseCheck_high sub hb hh, M.error_bind, finish_trap]

end
end

section
variable {s : State} (mk : Bool) (f : EFmt) (r : Rnd) (pd pa pb : PtrOp)

/-- A bitwise instruction of an integer format is like any other with two sources. -/
theorem intOnly_checksFirst (hf : f.isInt = true) {g : Nat → Nat → Nat × Flags} {i : Instr}
    (h : exec i s = finish s (intOnly f s (vbin f mk g pd pa pb s))) :
    ChecksFirst s (s.vmask mk ++ [s.vop (vkind f) pd, s.vop (vkind f) pa, s.vop (vkind f) pb]) i := by
  rw [intOnly, if_pos hf] at h
  exact ⟨_, h⟩

/-- VCOPY copies blocks of Q4X and elements of any other format; both begin alike. -/
theorem vcopy_checksFirst : ChecksFirst s (s.vmask mk ++ [s.vop (vkind f) pd, s.vop (vkind f) pa]) (.vcopy f mk pd pa) := by
  have hex : exec (.vcopy f mk pd pa) s = finish s (doVcopy f mk pd pa s) := rfl
  unfold doVcopy at hex
  extract_lets at hex
  split at hex <;> exact ⟨_, hex⟩

theorem vcvt_checksFirst {f g : EFmt} (h : f ≠ g) :
    ChecksFirst s (s.vmask mk ++ [s.vop (vkind g) pd, s.vop (vkind f) pa]) (.vcvt f g r mk pd pa) := by
  have hex : exec (.vcvt f g r mk pd pa) s = finish s (doVcvt f g r mk pd pa s) := rfl
  rw [doVcvt, ensure_of (bne_iff_ne.2 h), M.ok_bind] at hex
  exact ⟨_, hex⟩

/-- A conversion to the source's own format. -/
theorem vcvt_same : exec (.vcvt f f r mk pd pa) s = .next (s.takeTrap tIllegal 0 s.cur.addr) := by
  have hex : exec (.vcvt f f r mk pd pa) s = finish s (doVcvt f f r mk pd pa s) := rfl
  rw [hex, doVcvt, bne_self_eq_false, ensure_false, M.error_bind, finish_trap, State.pc0]

/-! ### Between scratchpad and the Fen (R214 to R216) -/

variable (wd : Width) (o : Ord) (rs : Reg)

theorem vld_checksBase : ChecksBase s (s.vmask mk ++ [s.vop (.el wd.bytes) pd]) (s.reg rs) wd.bytes subLoad (.vld wd mk pd rs) := ⟨_, rfl⟩
theorem vst_checksBase : ChecksBase s (s.vmask mk ++ [s.vop (.el wd.bytes) pd]) (s.reg rs) wd.bytes subUpd (.vst wd mk o pd rs) := ⟨_, rfl⟩
theorem vgath_checksBase :
    ChecksBase s (s.vmask mk ++ [s.vop (.el wd.bytes) pd, s.vop (.el 4) pa]) (s.reg rs) wd.bytes subLoad (.vgath wd mk pd pa rs) := ⟨_, rfl⟩

section
variable {op : KOp}

theorem vupd_checksBase (h : vupdOk op f = true) :
    ChecksBase s (s.vmask mk ++ [s.vop (.el (vupdWidth f).bytes) pd]) (s.reg rs) (vupdWidth f).bytes subUpd (.vupd op f mk o pd rs) := by
  have hex : exec (.vupd op f mk o pd rs) s = finish s (ensure (vupdOk op f) tIllegal s.pc0 >>= fun _ =>
    doVst op (vupdWidth f) (f == .bf16) mk o pd rs s) := rfl
  rw [h, ensure_true, M.ok_bind] at hex
  exact ⟨_, hex⟩

/-- An operator that the format has not. -/
theorem vupd_noOperator (h : vupdOk op f = false) : exec (.vupd op f mk o pd rs) s = .next (s.takeTrap tIllegal 0 s.cur.addr) := by
  have hex : exec (.vupd op f mk o pd rs) s = finish s (ensure (vupdOk op f) tIllegal s.pc0 >>= fun _ =>
    doVst op (vupdWidth f) (f == .bf16) mk o pd rs s) := rfl
  rw [hex, h, ensure_false, M.error_bind, finish_trap, State.pc0]

/-- Is a VSCAT descriptor good: its operator at the width, its BF bit, the bits above, and no float sum of 64 bits in a deterministic launch? -/
def descOk (op : KOp) (wd : Width) (x : W64) (det : Bool) : Bool :=
  opWidthOk op wd && (!(x.getLsbD 61) || (wd == .h && (op == .fsum || op == .fmin || op == .fmax))) && x.toNat / 2 ^ 62 == 0 &&
    !(op == .fadd64 && det)

theorem floatOp_eq (op : KOp) : floatOp op = (op == .fsum || op == .fmin || op == .fmax) := by cases op <;> rfl

/-- VSCAT's base is the key of its descriptor, checked once the descriptor is good (log 64). -/
theorem vscat_misaligned (hok : s.vcheck (s.vmask mk ++ [s.vop (.el wd.bytes) pd, s.vop (.el 4) pa]) = .ok ())
    (hop : kopOf ((s.reg rs).toNat / 2 ^ 56 % 32) = some op) (hd : descOk op wd (s.reg rs) s.th.det = true)
    (hb : (BitVec.ofNat 64 ((s.reg rs).toNat % 2 ^ 56)).toNat % wd.bytes ≠ 0) :
    exec (.vscat wd mk o pd pa rs) s = .next (s.takeTrap tAlign 0 (BitVec.ofNat 64 ((s.reg rs).toNat % 2 ^ 56))) := by
  have hex : exec (.vscat wd mk o pd pa rs) s = finish s (doVscat wd mk o pd pa rs s) := rfl
  have hhigh : (s.reg rs).toNat / 2 ^ 62 % 2 ^ 2 = (s.reg rs).toNat / 2 ^ 62 := by
    have := (s.reg rs).isLt
    omega
  have hgood : (opWidthOk op wd && (!(s.reg rs).getLsbD 61 || (wd == .h && floatOp op)) && fld (s.reg rs) 62 2 == 0 &&
      !(op == .fadd64 && s.th.det)) = true := by
    rw [floatOp_eq, fld_eq, hhigh]; exact hd
  have hkop : kopOf (fld (s.reg rs) 56 5) = some op := by rw [fld_eq]; exact hop
  have hbase : fld (s.reg rs) 0 56 = (s.reg rs).toNat % 2 ^ 56 := by rw [fld_eq, Nat.pow_zero, Nat.div_one]
  simp only [hex, doVscat, hok, M.ok_bind, hkop, hgood, ensure_true, hbase, baseCheck_misaligned subUpd hb, M.error_bind, finish_trap]

end
end

/-- Settles O42: each instruction begins with the check of its operands, those of memory go on to the check of their base, and what stands
before either check is VUPD's operator and VCVT's formats. -/
theorem vectorChecks : Obligations.VectorChecks := by
  intro ti op f g r wd mk o rd rs pd pa pb s hi x vl k m d a b pbit e ix ud desc sb traps mis inv checks
  have hreg : s.reg rs = x.reg rs := hi.reg_eq rs
  have hchecks {i : Instr} {ops : List VOp} (h : ChecksFirst s ops i) : checks i ops := h.vChecks hi
  have hld := vld_checksBase (s := s) mk pd wd rs
  have hst := vst_checksBase (s := s) mk pd wd o rs
  have hgath := vgath_checksBase (s := s) mk pd pa wd rs
  have hupd (h : vupdOk op f = true) := vupd_checksBase (s := s) mk f pd o rs h
  rw [hreg] at hld hst hgath hupd
  refine ⟨?arith, ?bitwise, ?unary, ?compare, ?sel, ?fill, ?sum, ?maxr, ?dot, ?nnz, ?ld, ?st, ?gath, ?scat, ?cvt, ?cvtSame, ?upd, ?updOp,
    ?ldStBase, ?updBase, ?scatBase, ?gathBase⟩
  case arith =>
    simp only [List.forall_mem_cons, List.not_mem_nil, false_imp_iff, implies_true, and_true]
    refine ⟨?_, ?_, ?_, ?_, ?_, ?_⟩ <;> exact hchecks ⟨_, rfl⟩
  case bitwise =>
    intro hf
    simp only [List.forall_mem_cons, List.not_mem_nil, false_imp_iff, implies_true, and_true]
    refine ⟨?_, ?_, ?_, ?_⟩ <;> exact hchecks (intOnly_checksFirst mk f pd pa pb hf rfl)
  case unary =>
    simp only [List.forall_mem_cons, List.not_mem_nil, false_imp_iff, implies_true, and_true]
    refine ⟨?_, ?_, ?_, hchecks (vcopy_checksFirst mk f pd pa), ?_, ?_, ?_, ?_, ?_, ?_⟩ <;> exact hchecks ⟨_, rfl⟩
  case compare =>
    simp only [List.forall_mem_cons, List.not_mem_nil, false_imp_iff, implies_true, and_true]
    refine ⟨?_, ?_, ?_, ?_⟩ <;> exact hchecks ⟨_, rfl⟩
  case sel =>
    have hsel : ChecksFirst s [⟨.bits, s.th.ptr 7#3⟩, d, a, b] (.vsel f pd pa pb) := ⟨_, rfl⟩
    rw [hi.th_eq] at hsel
    exact hchecks hsel
  case fill | sum | maxr | dot | nnz | scat => exact hchecks ⟨_, rfl⟩
  case ld => exact hchecks hld.checksFirst
  case st => exact hchecks hst.checksFirst
  case gath => exact hchecks hgath.checksFirst
  case cvt => exact fun hfg => hchecks (vcvt_checksFirst mk r pd pa hfg)
  case cvtSame => exact vcvt_same mk g r pd pa
  case upd => exact fun h => hchecks (hupd h).checksFirst
  case updOp => exact fun h => vupd_noOperator mk f pd o rs h
  case ldStBase =>
    exact fun hok => ⟨fun hb => ⟨hld.misaligned hok hb, hst.misaligned hok hb⟩, fun hb hh => ⟨hld.high hok hb hh, hst.high hok hb hh⟩⟩
  case updBase => exact fun h hok => ⟨(hupd h).misaligned hok, (hupd h).high hok⟩
  case scatBase =>
    intro hok hop hd hb
    have hscat := vscat_misaligned (s := s) (op := op) mk pd pa wd o rs
    rw [hreg, hi.th_eq] at hscat
    exact hscat hok hop (by rwa [Bool.not_eq_false'] at hd) hb
  case gathBase => exact fun hok => ⟨hgath.misaligned hok, hgath.high hok⟩

end Sys2Proof.Machine
